-- ==== Sys2Proof/Word.lean ====
section
/-! DEFINITION. The words of the machine and their plainest names (R1, R97). -/

namespace Sys2Proof

/-- A register of the machine: 64 bits. -/
abbrev W64 := BitVec 64

/-- An instruction word, an FP32 value or a scratchpad word: 32 bits. -/
abbrev W32 := BitVec 32

/-- One byte of a store. -/
abbrev Byte := BitVec 8

end Sys2Proof
end

