-- ==== Sys2Proof/Config.lean ====
section
/-! DEFINITION. What the spec leaves to the part: free values (no body, so no proof sees a number) and fused constants. -/

namespace Sys2Proof.Config

/-- Free value number `n`, a natural number: a delay above the quiet-machine figure (R15), a wake-up or retraining time
(R309, R412), an order of completion (R194). Log 2. -/
opaque freeNat : Nat → Nat

/-- Free choice number `n`: old or new element (R215, R216), old or new translation (R376), performed or not before a reset
(R316), a self-test that passes (R404), a flit that arrives intact (R306). Log 2. -/
opaque freeBit : Nat → Bool

/-- Free word number `n`: a nonce (R410), bytes a switch returns (R320). Log 2. -/
opaque freeWord : Nat → W64

/-- R232, R233: each special function is a fixed function of the FP32 input bits. The spec gives no more than a bound where the
result is not exact; the machine takes this value where it lies within the bound. Log 6. `op` is the F opcode. -/
opaque special : Nat → W32 → W32

/-- R232 to R234: whether the free result of a special function is tiny and inexact or overflowed is read from the result;
this gives the remaining freedom of `uf` for a result on the normal boundary. Log 6. -/
opaque specialUf : Nat → W32 → Bool

/-- The secret exponent of the identity key in the fuses at the first power-on (R408, R409). Log 7. -/
opaque idPrivate : List Byte

/-- R5: minor stepping, fused. R7: minor steppings of one major stepping are identical. -/
opaque stmin : BitVec 4

/-- Package serial number (R407). -/
opaque serial : W64

/-- Public modulus of the identity key in the fuses at the first power-on (R407). -/
opaque idModulus : List Byte

/-- Public exponent of the identity key in the fuses at the first power-on (R407). -/
opaque idExponent : W32

/-- Fused key hash of slot 0 at manufacture, and of slots 1 to 3 where fuses hold them (R148, R404, R409). -/
opaque keyHash : Nat → List Byte

/-- Lifecycle in the fuses at the first power-on (R398, R409): 0 blank, 1 secure, 3 RMA. -/
opaque fusedLifecycle : Nat

/-- `fail` in the always-on store at the first power-on (R398, R405). -/
opaque storedFail : Nat

/-- HBM metadata base of a die (R376, R404). -/
opaque metaBase : Nat → Nat

/-- Base of the reserved area of an HBM stack into which forced saves go (R394), by 4·die + stack. -/
opaque reservedBase : Nat → Nat

/-- Causeway's own firmware measurement (R407, R408). -/
opaque cwMeasurement : List Byte

/-- The image in flash of each compute die at the first power-on (R404). -/
opaque flashImage : Nat → List Byte

/-- R404: `fwlvl` that a die's image brings; the spec says only that it comes from the image. Log 44. -/
opaque imageLevel : List Byte → BitVec 8

/-- R341, R403: the entry of a supervisor image; the spec names no field that holds it. Log 44. -/
opaque imageEntry : List Byte → BitVec 32

/-- R403: where in the HBM of a die the monitor puts the image of a partition: partition, die. Log 73. -/
opaque imagePlace : Nat → Nat → Nat

/-- R356, R394: the stack of HBM of a die that holds the data of an image: image, die. Log 100. -/
opaque imageStack : Nat → Nat → Nat

/-- R410: the public exponent under which a token's signature is verified; a token carries none. Log 7. -/
opaque tokenExponent : Nat

/-- R13: which contexts, by key, run the example that the figures of R14 are stated for. Nothing in the package says which programs are one example, so it is
free; a context alone is always one. Log 99. -/
opaque inExample : Nat → Bool

/-- R305: the payload bytes of a flit that carries packets of these numbers; packet formats are not visible to software. Log 61. -/
opaque packetBytes : List Nat → List Byte

end Sys2Proof.Config
end

