-- ==== Sys2Proof/Syntax.lean ====
section
/-! DEFINITION. The instruction set: the operand formats of R105 and one constructor per row of the opcode table. -/

namespace Sys2Proof

/-- The header word (R102). -/
structure HDR where
  c : Bool
  pop : BitVec 8
  wait : BitVec 8
  y : Bool
  s : Bool
  v : Bool
  line : BitVec 4
  gp : BitVec 3
  gn : Bool
deriving DecidableEq, Repr

/-- The extension word (R109). -/
structure EXT where
  c : Bool
  pay : BitVec 27
deriving DecidableEq, Repr

/-- Format RR (R105): register, register. -/
structure RR where
  c : Bool
  g : Bool
  dst : BitVec 5
  nw : Bool
  sa : BitVec 6
  sb : BitVec 6
  fn : BitVec 2
deriving DecidableEq, Repr

/-- Format RI (R105): register, 8-bit immediate. -/
structure RI where
  c : Bool
  g : Bool
  dst : BitVec 5
  nw : Bool
  sa : BitVec 6
  imm : BitVec 8
deriving DecidableEq, Repr

/-- Format CP (R105): compare; `sb` is the second source or the 6-bit immediate. -/
structure CP where
  c : Bool
  g : Bool
  pd : BitVec 3
  cond : BitVec 3
  sa : BitVec 6
  sb : BitVec 6
  w : BitVec 2
deriving DecidableEq, Repr

/-- Format BR (R105): branch. -/
structure BR where
  c : Bool
  g : Bool
  pd : BitVec 3
  pn : Bool
  hint : Bool
  disp : BitVec 15
deriving DecidableEq, Repr

/-- Format LP (R105): hardware loop. -/
structure LP where
  c : Bool
  g : Bool
  l : Bool
  sn : BitVec 6
  len : BitVec 13
deriving DecidableEq, Repr

/-- Format MM (R105): memory. In the queue-returning layout `reg` holds `dq` in its high three bits and the reserved bits
[16:15] in its low two. -/
structure MM where
  c : Bool
  g : Bool
  reg : BitVec 5
  nw : Bool
  sa : BitVec 6
  sz : BitVec 2
  sx : Bool
  off : BitVec 5
deriving DecidableEq, Repr

/-- Format VR (R105): four regions and a mode. -/
structure VR where
  c : Bool
  g : Bool
  dd : BitVec 4
  da : BitVec 4
  db : BitVec 4
  dc : BitVec 4
  md : BitVec 4
deriving DecidableEq, Repr

/-- Format VS (R105): two regions, a scalar source and a mode. -/
structure VS where
  c : Bool
  g : Bool
  dd : BitVec 4
  da : BitVec 4
  ss : BitVec 6
  md : BitVec 6
deriving DecidableEq, Repr

/-- Format TQ (R105): a record or value source, a token and a sub field. -/
structure TQ where
  c : Bool
  g : Bool
  sp : BitVec 6
  k : BitVec 3
  kw : Bool
  sub : BitVec 10
deriving DecidableEq, Repr

/-- Format PV (R105): a control register, a source or destination, a mode. -/
structure PV where
  c : Bool
  g : Bool
  csr : BitVec 10
  sa : BitVec 6
  md : BitVec 4
deriving DecidableEq, Repr

/-- A link flit as the receiver sees it (R305). The packet formats inside the payload are not visible to software, so the
payload is the identifiers of the messages it carries. -/
structure Flit where
  vc : Nat
  rsp : Bool
  seq : Nat
  avc : Nat
  aseq : Nat
  akt : Nat
  idle : Bool
  pay : List Nat
deriving DecidableEq, Repr

/-- What a transfer of the collective engine is: bytes for a place of this package; a send to another package or a switch, with the number of the
first packet made after its own; an `.rdp` read on its way back; or sends of a firing that wait for their sources (source, destination, peer). -/
inductive CollKind where
  | here
  | away (pkts : Nat)
  | pull
  | held (sends : List (Nat × Nat × Nat))
deriving DecidableEq, Repr

/-- A collective transfer on its way (R320, R322): the partition whose space it enters, the
virtual or global scratchpad address, its bytes (none for an `.rdp` read), the destination's counter slot, and the slot, firing and peer that sent it
when that slot is this package's own; the dies its bytes were read on, what it is, and the first cycle in which it may be performed. A send to
another package and sends that wait have no address here: `virt` is set. -/
structure CollTransfer where
  part : Nat
  virt : Bool
  addr : Nat
  data : List (BitVec 8)
  rcnt : Option Nat
  own : Option (Nat × Nat)
  dies : List Nat := []
  kind : CollKind := .here
  due : Nat := 0
deriving DecidableEq, Repr

/-- Every row of the opcode table: the 175 instruction words (R110) and the 86 events of the machine. A word carries the
fields its format gives it (R105); an event carries the Nat that names the part of the package it happens to. -/
inductive Instr where
  /-- `hdr`, R103: Header word that applies token waits, queue pops, sync arrival with vote, yield and the bundle guard to its bundle. -/
  | hdr (f : HDR)
  /-- `ext`, R109: Extension word that widens the immediate, offset or record offset of the word before it. -/
  | ext (f : EXT)
  /-- `s.nop`, R158: Scalar no-operation with no result and no latch write. -/
  | sNop (f : RR)
  /-- `s.add`, R156: Adds two sources modulo 2^64, or in 32 bits with .i32. -/
  | sAdd (f : RR)
  /-- `s.sub`, R156: Subtracts the second source from the first. -/
  | sSub (f : RR)
  /-- `s.mul`, R156: Writes the low 64 bits of the product with a 3-cycle latency. -/
  | sMul (f : RR)
  /-- `s.mulh`, R156: Writes the high 64 bits of the signed 128-bit product. -/
  | sMulh (f : RR)
  /-- `s.mulhu`, R156: Writes the high 64 bits of the unsigned 128-bit product. -/
  | sMulhu (f : RR)
  /-- `s.div`, R156: Signed division truncated toward zero with defined results for a zero divisor or overflow. -/
  | sDiv (f : RR)
  /-- `s.divu`, R156: Unsigned division; a zero divisor gives all ones. -/
  | sDivu (f : RR)
  /-- `s.rem`, R156: Signed remainder with the sign of the dividend. -/
  | sRem (f : RR)
  /-- `s.remu`, R156: Unsigned remainder. -/
  | sRemu (f : RR)
  /-- `s.and`, R155: Bitwise AND of two sources. -/
  | sAnd (f : RR)
  /-- `s.or`, R155: Bitwise OR of two sources. -/
  | sOr (f : RR)
  /-- `s.xor`, R155: Bitwise XOR of two sources. -/
  | sXor (f : RR)
  /-- `s.andn`, R155: Bitwise AND of the first source with the complement of the second. -/
  | sAndn (f : RR)
  /-- `s.shl`, R156: Shifts left by the low bits of the second source. -/
  | sShl (f : RR)
  /-- `s.shr`, R156: Shifts right logically. -/
  | sShr (f : RR)
  /-- `s.sra`, R156: Shifts right arithmetically. -/
  | sSra (f : RR)
  /-- `s.min`, R155: Signed minimum. -/
  | sMin (f : RR)
  /-- `s.max`, R155: Signed maximum. -/
  | sMax (f : RR)
  /-- `s.minu`, R155: Unsigned minimum. -/
  | sMinu (f : RR)
  /-- `s.maxu`, R155: Unsigned maximum. -/
  | sMaxu (f : RR)
  /-- `s.addi`, R157: Adds a signed extendable immediate. -/
  | sAddi (f : RI)
  /-- `s.andi`, R157: ANDs with a signed immediate. -/
  | sAndi (f : RI)
  /-- `s.ori`, R157: ORs with a signed immediate. -/
  | sOri (f : RI)
  /-- `s.xori`, R157: XORs with a signed immediate. -/
  | sXori (f : RI)
  /-- `s.shli`, R157: Shifts left by an immediate from 0 to 63. -/
  | sShli (f : RI)
  /-- `s.shri`, R157: Shifts right logically by an immediate. -/
  | sShri (f : RI)
  /-- `s.srai`, R157: Shifts right arithmetically by an immediate. -/
  | sSrai (f : RI)
  /-- `s.li`, R157: Loads a signed extendable immediate into a register. -/
  | sLi (f : RI)
  /-- `s.mov`, R158: Copies a six-bit source into a register. -/
  | sMov (f : RR)
  /-- `s.sel`, R158: Selects one of two sources by predicate p4 to p7. -/
  | sSel (f : RR)
  /-- `s.cmp`, R159: Compares two register sources at a width and writes a predicate and the latch. -/
  | sCmp (f : CP)
  /-- `s.cmpi`, R159: Compares a source with an extendable immediate and writes a predicate. -/
  | sCmpi (f : CP)
  /-- `s.plog`, R160: Combines two predicates by a logical operation into a predicate. -/
  | sPlog (f : CP)
  /-- `s.clz`, R162: Counts leading zero bits. -/
  | sClz (f : RR)
  /-- `s.popc`, R162: Counts set bits. -/
  | sPopc (f : RR)
  /-- `s.bfx`, R162: Extracts a bit field, zero- or sign-extended. -/
  | sBfx (f : RR)
  /-- `s.bfi`, R162: Inserts a bit field into the old destination value. -/
  | sBfi (f : RR)
  /-- `s.sext`, R162: Sign-extends from 8, 16, 32 or 64 bits. -/
  | sSext (f : RR)
  /-- `s.br`, R169: Conditional packet-relative branch with a static hint. -/
  | sBr (f : BR)
  /-- `s.jmp`, R171: Register or packet-relative jump with optional link. -/
  | sJmp (f : RR)
  /-- `s.call`, R170: Conditional branch that writes the return address to g31 when taken. -/
  | sCall (f : BR)
  /-- `s.ret`, R171: Returns to the address in a source register. -/
  | sRet (f : RR)
  /-- `s.loop`, R173: Arms a hardware loop register with a count and body, or skips the body on a zero trip. -/
  | sLoop (f : LP)
  /-- `s.lbrk`, R176: Disarms an armed loop and transfers past its body. -/
  | sLbrk (f : LP)
  /-- `s.rdlc`, R168: Reads the count, start, end or status of a loop register. -/
  | sRdlc (f : RR)
  /-- `s.rdid`, R163: Reads the context's core position, tile, grid or gang placement. -/
  | sRdid (f : RR)
  /-- `s.rdtime`, R164: Reads the package reference count. -/
  | sRdtime (f : RR)
  /-- `s.rdcoin`, R165: Advances the context's xorshift coin and returns the new state. -/
  | sRdcoin (f : RR)
  /-- `s.mfp`, R166: Moves the predicate byte into a register. -/
  | sMfp (f : RR)
  /-- `s.mtp`, R166: Writes selected predicates from a register under a mask. -/
  | sMtp (f : RR)
  /-- `m.ld`, R179: Local load into a register with a 4-cycle latency. -/
  | mLd (f : MM)
  /-- `m.st`, R179: Local store of the low bytes of a register. -/
  | mSt (f : MM)
  /-- `m.ldg`, R179: Global load whose value is delivered to a queue head. -/
  | mLdg (f : MM)
  /-- `m.stg`, R179: Store to a global scratchpad address, local or remote. -/
  | mStg (f : MM)
  /-- `m.sth`, R182: Remote store that starts an arrival handler at the target after its payload. -/
  | mSth (f : MM)
  /-- `m.amo`, R181: Atomic read-modify-write at a global address returning the old value to a queue head. -/
  | mAmo (f : MM)
  /-- `m.lda`, R178: Local indexed load with a 6-cycle latency. -/
  | mLda (f : MM)
  /-- `v.dset`, R212: Writes a region descriptor from a packed value. -/
  | vDset (f : VS)
  /-- `v.dget`, R212: Reads a packed region descriptor into b4. -/
  | vDget (f : VS)
  /-- `v.add`, R219: Streams elementwise addition of two regions. -/
  | vAdd (f : VR)
  /-- `v.sub`, R219: Streams elementwise subtraction. -/
  | vSub (f : VR)
  /-- `v.mul`, R219: Streams elementwise multiplication. -/
  | vMul (f : VR)
  /-- `v.fma`, R219: Streams fused multiply-add rounded once. -/
  | vFma (f : VR)
  /-- `v.max`, R219: Streams elementwise maximum. -/
  | vMax (f : VR)
  /-- `v.min`, R219: Streams elementwise minimum. -/
  | vMin (f : VR)
  /-- `v.abs`, R219: Streams elementwise absolute value. -/
  | vAbs (f : VR)
  /-- `v.neg`, R219: Streams elementwise negation. -/
  | vNeg (f : VR)
  /-- `v.scal`, R219: Streams multiplication of a region by a scalar. -/
  | vScal (f : VS)
  /-- `v.axpy`, R219: Streams s·a + d rounded once into the destination. -/
  | vAxpy (f : VS)
  /-- `v.fill`, R219: Fills a region with a scalar. -/
  | vFill (f : VS)
  /-- `v.cpy`, R221: Copies a region converting between bank formats. -/
  | vCpy (f : VR)
  /-- `v.cvt`, R221: Converts a region with a chosen rounding mode. -/
  | vCvt (f : VR)
  /-- `v.cmp`, R222: Writes 1 or 0 per element by a compare condition. -/
  | vCmp (f : VR)
  /-- `v.sel`, R223: Selects elements of two regions by a third. -/
  | vSel (f : VR)
  /-- `v.and`, R224: Bitwise AND of integer regions. -/
  | vAnd (f : VR)
  /-- `v.or`, R224: Bitwise OR of integer regions. -/
  | vOr (f : VR)
  /-- `v.xor`, R224: Bitwise XOR of integer regions. -/
  | vXor (f : VR)
  /-- `v.shl`, R224: Shifts integer elements left by a scalar. -/
  | vShl (f : VS)
  /-- `v.shr`, R224: Shifts integer elements right logically or arithmetically. -/
  | vShr (f : VS)
  /-- `v.clip`, R219: Clips each element between two bound regions. -/
  | vClip (f : VR)
  /-- `v.iota`, R225: Writes an arithmetic ramp of a start and a step. -/
  | vIota (f : VS)
  /-- `v.gath`, R226: Gathers elements by an index region. -/
  | vGath (f : VR)
  /-- `v.scat`, R226: Scatters elements by an index region. -/
  | vScat (f : VR)
  /-- `v.perm`, R226: Permutes elements within 64-element chunks. -/
  | vPerm (f : VR)
  /-- `v.rsum`, R227: Sums a region in the fixed tree order into b4. -/
  | vRsum (f : VR)
  /-- `v.rmax`, R227: Reduces a region to its maximum, optionally with index. -/
  | vRmax (f : VR)
  /-- `v.rmin`, R227: Reduces a region to its minimum, optionally with index. -/
  | vRmin (f : VR)
  /-- `v.rdot`, R227: Computes the dot product of two regions into b4. -/
  | vRdot (f : VR)
  /-- `v.rstat`, R228: Samples csr.vstat into b4 and clears the flags named by a mask. -/
  | vRstat (f : VS)
  /-- `v.nfck`, R229: Counts non-finite elements into b4 and optionally writes a mask. -/
  | vNfck (f : VR)
  /-- `v.pgen`, R230: Turns probabilities and random bytes into pulse mask bytes. -/
  | vPgen (f : VR)
  /-- `v.rscale`, R231: Copies records while adding a shift to their scale bytes. -/
  | vRscale (f : VS)
  /-- `v.skinit`, R256: Writes an empty summary record of a chosen kind. -/
  | vSkinit (f : VS)
  /-- `v.skq`, R257: Inserts keys into a quantile sketch. -/
  | vSkq (f : VR)
  /-- `v.skh`, R258: Counts keys into a heavy-hitter list. -/
  | vSkh (f : VR)
  /-- `v.skd`, R259: Adds keys to a distinct-count record. -/
  | vSkd (f : VR)
  /-- `v.skm`, R260: Merges one summary record into another of the same kind. -/
  | vSkm (f : VR)
  /-- `v.skqq`, R261: Returns a quantile of a sketch into b4. -/
  | vSkqq (f : VS)
  /-- `v.skest`, R262: Returns the distinct-count estimate into b4. -/
  | vSkest (f : VR)
  /-- `v.sktop`, R263: Writes the top entries of a heavy-hitter list as key and count pairs. -/
  | vSktop (f : VR)
  /-- `f.exp`, R233: Special function e^x, region or scalar form. -/
  | fExp (f : VS)
  /-- `f.log`, R233: Special function ln x. -/
  | fLog (f : VS)
  /-- `f.exp2`, R233: Special function 2^x. -/
  | fExp2 (f : VS)
  /-- `f.log2`, R233: Special function log2 x. -/
  | fLog2 (f : VS)
  /-- `f.rcp`, R233: Correctly rounded reciprocal. -/
  | fRcp (f : VS)
  /-- `f.rsqrt`, R233: Reciprocal square root. -/
  | fRsqrt (f : VS)
  /-- `f.sqrt`, R233: Correctly rounded square root. -/
  | fSqrt (f : VS)
  /-- `f.tanh`, R233: Hyperbolic tangent. -/
  | fTanh (f : VS)
  /-- `f.sigm`, R233: Logistic sigmoid. -/
  | fSigm (f : VS)
  /-- `f.gelu`, R233: GELU activation. -/
  | fGelu (f : VS)
  /-- `f.silu`, R233: SiLU activation. -/
  | fSilu (f : VS)
  /-- `f.sin`, R233: Sine. -/
  | fSin (f : VS)
  /-- `f.cos`, R233: Cosine. -/
  | fCos (f : VS)
  /-- `f.erf`, R233: Error function. -/
  | fErf (f : VS)
  /-- `x.ld`, R237: Loads the lane pattern register xpat from a 64-byte region. -/
  | xLd (f : VR)
  /-- `x.app`, R238: Applies xpat to route lanes of each chunk, trapping on a destination collision. -/
  | xApp (f : VR)
  /-- `x.rot`, R238: Rotates lanes of each chunk by an amount. -/
  | xRot (f : VR)
  /-- `x.bc`, R238: Broadcasts one lane across each chunk. -/
  | xBc (f : VR)
  /-- `x.tr`, R238: Transposes 8×8 lane groups. -/
  | xTr (f : VR)
  /-- `x.rev`, R238: Reverses lanes within groups of N. -/
  | xRev (f : VR)
  /-- `t.mm`, R274: Queues a log-domain matrix product accumulating into a tile. -/
  | tMm (f : TQ)
  /-- `t.mmg`, R275: Queues a grouped product driven by count and offset tables. -/
  | tMmg (f : TQ)
  /-- `t.ldb`, R277: Broadcasts one scratchpad row into every tile row. -/
  | tLdb (f : TQ)
  /-- `t.zclr`, R277: Clears a tile to +0. -/
  | tZclr (f : TQ)
  /-- `t.zld`, R277: Loads scratchpad rows into a tile. -/
  | tZld (f : TQ)
  /-- `t.zst`, R277: Stores a tile into scratchpad rows, encoding as needed. -/
  | tZst (f : TQ)
  /-- `t.cop`, R276: Sets the context's cell-pattern register csr.cpat from a record. -/
  | tCop (f : TQ)
  /-- `t.zadd`, R277: Adds one tile into another. -/
  | tZadd (f : TQ)
  /-- `a.fwd`, R287: Queues a quantised forward read of an array window. -/
  | aFwd (f : TQ)
  /-- `a.bwd`, R287: Queues a quantised transposed read of an array window. -/
  | aBwd (f : TQ)
  /-- `a.upd`, R290: Queues coincident-pulse updates of fast cell levels. -/
  | aUpd (f : TQ)
  /-- `a.xfer`, R291: Moves fast-cell change into slow cells, optionally resetting fast cells. -/
  | aXfer (f : TQ)
  /-- `a.symw`, R291: Writes column symmetry points from scratchpad. -/
  | aSymw (f : TQ)
  /-- `a.symr`, R291: Reads column symmetry points into scratchpad. -/
  | aSymr (f : TQ)
  /-- `a.prog`, R291: Programs and verifies fast and/or slow cell levels. -/
  | aProg (f : TQ)
  /-- `a.ckpt`, R292: Reads cell levels or weights out through the checkpoint read engine to virtual memory. -/
  | aCkpt (f : TQ)
  /-- `a.gfwd`, R294: Queues grouped forward reads from a group table. -/
  | aGfwd (f : TQ)
  /-- `a.gbwd`, R294: Queues grouped transposed reads from a group table. -/
  | aGbwd (f : TQ)
  /-- `a.gupd`, R294: Queues grouped updates from a group table. -/
  | aGupd (f : TQ)
  /-- `a.seed`, R296: Seeds an ADC group's lane generators in queue order. -/
  | aSeed (f : TQ)
  /-- `a.scl`, R297: Sets a pair's scales in queue order. -/
  | aScl (f : TQ)
  /-- `a.stat`, R298: Reads or clears group flags, or reads a pair's verify-fail count or age, into b5. -/
  | aStat (f : TQ)
  /-- `q.copy`, R190: Starts a six-level affine copy between scratchpad, operand buffers and virtual memory. -/
  | qCopy (f : TQ)
  /-- `q.tokst`, R186: Writes a token's count and sticky status to b5. -/
  | qTokst (f : TQ)
  /-- `q.drain`, R189: Starts a drain of the context's cover at a scope, blocking later bundles. -/
  | qDrain (f : TQ)
  /-- `q.fence`, R88: Starts a drain that also waits for earlier loads and atomics. -/
  | qFence (f : TQ)
  /-- `q.put`, R198: Places a 64-bit entry into a gang pipe, holding the Q slot while it is full. -/
  | qPut (f : TQ)
  /-- `q.launch`, R202: Creates a launch from a launch record. -/
  | qLaunch (f : TQ)
  /-- `q.glaunch`, R203: Creates a graph of launches with derived dependences. -/
  | qGlaunch (f : TQ)
  /-- `q.cancel`, R204: Cancels the level a handle names. -/
  | qCancel (f : TQ)
  /-- `q.exit`, R205: Ends the unit or handler run of the context. -/
  | qExit (f : TQ)
  /-- `q.pgreq`, R197: Requests residency of the page holding a virtual address. -/
  | qPgreq (f : TQ)
  /-- `q.sortc`, R210: Sorts and counts tokens by expert under a capacity policy. -/
  | qSortc (f : TQ)
  /-- `q.carm`, R326: Arms a collective slot with a record, or disarms it with .dis. -/
  | qCarm (f : TQ)
  /-- `q.ctrig`, R327: Adds to a collective slot's trigger counter and may attach a token. -/
  | qCtrig (f : TQ)
  /-- `q.cstat`, R328: Reads a collective slot's state, drop counts or fault bitmask into b5. -/
  | qCstat (f : TQ)
  /-- `q.hset`, R207: Makes reserved contexts dormant as arrival handlers. -/
  | qHset (f : TQ)
  /-- `q.offer`, R208: Offers or withdraws the core's undispatched units for stealing. -/
  | qOffer (f : TQ)
  /-- `q.srec`, R206: Reads a completion record half or the latest claim code into b5. -/
  | qSrec (f : TQ)
  /-- `q.waitk`, R187: Makes later bundles wait for all or any of a mask of tokens. -/
  | qWaitk (f : TQ)
  /-- `q.kclr`, R188: Clears the sticky status bits of masked tokens. -/
  | qKclr (f : TQ)
  /-- `p.trap`, R389: Raises the user trap with a 10-bit code. -/
  | pTrap (f : PV)
  /-- `p.eret`, R391: Ends the handled frame, resuming, killing, signalling or acknowledging by its source. -/
  | pEret (f : PV)
  /-- `p.csrr`, R389: Reads a control register into a register and b0. -/
  | pCsrr (f : PV)
  /-- `p.csrw`, R389: Writes a control register that has no behaviour of its own. -/
  | pCsrw (f : PV)
  /-- `p.csrs`, R389: Sets bits of a control register. -/
  | pCsrs (f : PV)
  /-- `p.csrc`, R389: Clears bits of a control register. -/
  | pCsrc (f : PV)
  /-- `p.tlbi`, R390: Invalidates the partition's cached translations for a page or for all pages. -/
  | pTlbi (f : TQ)
  /-- `p.ctxsv`, R392: Saves a context block or a core part to virtual memory on a copy engine. -/
  | pCtxsv (f : TQ)
  /-- `p.ctxld`, R392: Loads a context block or a core part from virtual memory. -/
  | pCtxld (f : TQ)
  /-- `p.halt`, R390: Makes a supervisor context wait for an event. -/
  | pHalt (f : TQ)
  /-- `p.pmt`, R390: Pre-empts, or with .res resumes, masked contexts of a core. -/
  | pPmt (f : TQ)
  /-- R401: Monitor call 0 requests a cluster power state or HBM self-refresh. -/
  | monitorPowerCall (k : Nat)
  /-- R401: Monitor call 1 sets the partition's page-table root and invalidates its TLB entries. -/
  | monitorPageTableRootCall (k : Nat)
  /-- R20: After a yield, exit, halt or freeze the core picks the next ready context as primary, retrying each cycle. -/
  | nextPrimaryChoice (core : Nat)
  /-- R34: At T+96 after the last arrival every member's sync bundle issues and p7 receives the OR of the votes. -/
  | syncEpisodeResume (line : Nat)
  /-- R35: An episode open longer than the line timeout is abandoned and arrived members take the sync-timeout trap. -/
  | syncTimeout (line : Nat)
  /-- R382: A context whose time without a yield reaches its limit takes the watchdog trap. -/
  | watchdogExpiry (k : Nat)
  /-- R215: A V, F or X command completes at c+S+6 or c+S+10, delivering any b4 result. -/
  | streamingCommandCompletion (id : Nat)
  /-- R269: The head T command starts when the unit is free, its barrier is met and tile writers are done. -/
  | logMatrixCommandStart (core : Nat)
  /-- R269: A product has fetched its B operand and lowers the buffer's reader count. -/
  | operandFetchDone (id : Nat)
  /-- R270: A T command completes, clearing tile busy bits and signalling its token. -/
  | logMatrixCommandCompletion (id : Nat)
  /-- R282: A free ADC group starts the oldest expired read or the queue head whose barrier is met. -/
  | adcGroupCommandStart (core grp : Nat)
  /-- R283: A queued read's latency bound expires so it overtakes unstarted non-reads. -/
  | readLatencyExpiry (id entry : Nat)
  /-- R287: An A command or grouped entry ends on its group and signals its token when all entries end. -/
  | arrayCommandCompletion (id entry : Nat)
  /-- R196: A copy into an operand buffer starts writing once the recorded readers have fetched. -/
  | operandBufferFillStart (id : Nat)
  /-- R195: A copy's transfers finish and its token signals with any nres or err status. -/
  | copyCompletion (id : Nat)
  /-- R193: A translation fault on a virtual side stops the engine command and posts an event. -/
  | engineTranslationFault (id : Nat)
  /-- R377: An engine fault or page request enters the die event queue once it has room. -/
  | engineEventPost (die : Nat)
  /-- R210: q.sortc finishes writing its outputs and signals its token. -/
  | sortCompletion (id : Nat)
  /-- R189: A drain completes when its cover is performed with respect to its scope. -/
  | drainCompletion (k : Nat)
  /-- R88: A fence completes after its drain and all earlier loads and atomics return. -/
  | fenceCompletion (k : Nat)
  /-- R187: q.waitk completes, writes its mask to b5 and may raise the token-error trap. -/
  | tokenWaitCompletion (k : Nat)
  /-- R390: The invalidation of p.tlbi finishes and its token signals. -/
  | tlbInvalidationCompletion (id : Nat)
  /-- R81: A remote load, store or atomic reaches and performs at its target core. -/
  | remoteAccessAtTarget (id : Nat)
  /-- R81: An egress stage or the target acknowledgement of a store returns to the issuer. -/
  | stageAcknowledgement (id : Nat)
  /-- R179: A remote load or atomic value arrives and is delivered to its queue head in order. -/
  | remoteResponseArrival (id : Nat)
  /-- R30: An m.sth payload performs and starts a dormant context or enters the handler queue. -/
  | handlerArrival (id : Nat)
  /-- R31: A queued arrival starts when a dormant context becomes free. -/
  | handlerQueueStart (core : Nat)
  /-- R25: A pop frees room so a held q.put places its entry. -/
  | pipeSpaceFreed (k : Nat)
  /-- R42: A unit is counted complete once all its stores, commands, handlers and sends are done. -/
  | unitCompletion (uid : Nat)
  /-- R354: A unit passes to its owner die's scheduler over virtual channel 3. -/
  | unitTransfer (uid : Nat)
  /-- R354: A completion count arrives at the record's scheduler and decrements nout. -/
  | completionCountArrival (uid : Nat)
  /-- R356: The dispatcher copies an image's data into a core before its first unit there is dispatched. -/
  | imageDataLoad (core : Nat)
  /-- R358: Each cycle the dispatcher picks a launch queue by priority and round robin and dispatches a unit. -/
  | dispatchDecision (core : Nat)
  /-- R363: A sync-bound launch dispatches every member in one named reference cycle. -/
  | syncLaunchDispatch (handle : Nat)
  /-- R367: The scheduler claims a stealable unit for a core with a free context and no work. -/
  | stealClaim (core : Nat)
  /-- R370: A cancel reaches an owner's scheduler and removes still-queued units. -/
  | cancelArrival (die handle : Nat)
  /-- R364: The runtime walks the phase chain, creates the job record and sends the micro-batch tokens. -/
  | jobStart (part : Nat) (addr : BitVec 64)
  /-- R365: A micro-batch token arrives at a die and enters its token queue. -/
  | microBatchTokenArrival (die : Nat) (tok : BitVec 64)
  /-- R365: A queued token starts a phase instance when a phase record is free. -/
  | phaseStart (die : Nat)
  /-- R366: A phase instance completes and sends the next phase's token. -/
  | phaseCompletion (handle : Nat)
  /-- R324: An armed slot whose counter reaches its threshold starts a firing. -/
  | collectiveFiringStart (slot : Nat)
  /-- R323: A firing completes, signals tokens, increments the next slot and re-arms or idles. -/
  | collectiveFiringCompletion (slot : Nat)
  /-- R322: A transfer arrives at its destination, writes permitted bytes and increments the rcnt slot. -/
  | collectiveTransferArrival (t : CollTransfer)
  /-- R306: A receiver takes a flit, delivering it in sequence or discarding it and sending a refusal. -/
  | flitReception (die link : Nat) (f : Flit) (good : Bool)
  /-- R306: A sender receiving a refusal replays the VC's unacknowledged flits from the named sequence. -/
  | refusalReceipt (die link vc seq : Nat)
  /-- R306: A receiver sends an acknowledgement after 64 flits or 1 µs of unacknowledged flits. -/
  | acknowledgementTimer (die link vc : Nat)
  /-- R306: A flit unacknowledged for 4 µs triggers a replay. -/
  | replayTimeout (die link vc : Nat)
  /-- R309: Replays above the threshold in a window step the link down one rate and retrain it. -/
  | automaticBackOff (die link : Nat)
  /-- R310: A lane found unusable narrows or retires its module and may take the link down. -/
  | laneRetirement (die link mod lane : Nat)
  /-- R308: A supervisor write of a new rate step in csr.bwctl retrains the whole link. -/
  | linkRateWrite (die link rate : Nat)
  /-- R351: A supervisor read of csr.mbox returns and removes the oldest job address. -/
  | mailboxPop (part : Nat)
  /-- R350: A host write of jaddr enqueues a job address or is counted as dropped. -/
  | jobAddressWrite (part : Nat) (addr : BitVec 64)
  /-- R383: A trap or pre-emption freezes a context at a bundle, moving in-flight results to the replay buffer. -/
  | contextFreeze (k cause : Nat)
  /-- R380: A supervisor waiting at p.halt takes the oldest event, loading its frame and starting at csr.tvec. -/
  | eventTake (k : Nat)
  /-- R385: A halted context's engine commands have stopped or completed, so pre-emption's token signals. -/
  | contextQuiescence (k : Nat)
  /-- R386: A replay-buffer result is written at its original relative cycle after resume. -/
  | replayInjection (k : Nat)
  /-- R418: An uncorrectable memory error resets the affected die. -/
  | uncorrectableError (die : Nat)
  /-- R418: A corrected soft error is repaired in place and counted. -/
  | correctedError (die : Nat)
  /-- R116: A branch resolves 3 cycles after issue, releasing the held words of its shadow in program order or squashing and restoring them. -/
  | branchResolution (k : Nat)
  /-- R309: A retraining link or module finishes training, returns to up at its new step or width, and replays held flits in seq order. -/
  | linkRetrainCompletion (die link mod : Nat)
  /-- R305: In each flit slot an active module sends the next flit, giving VC0 at least one of every 16 slots, or an idle flit carrying acknowledgements. -/
  | flitTransmission (die link mod : Nat)
  /-- R412: A cluster that was asked back to P0 finishes powering up, restores any saved tiles and resumes its frozen contexts. -/
  | returnToP0 (die cluster : Nat)
  /-- R376: A host CXL.mem access to device memory is served by Causeway through a copy engine of the partition, delivering expanded bytes. -/
  | hostCxlMemAccess (isWrite : Bool) (part addr len : Nat) (data : List (BitVec 8))
  /-- R404: Power-on begins a cold start through the eight stages. -/
  | powerOn
  /-- R404: A fundamental reset of the host port begins a cold start. -/
  | pcieFundamentalReset
  /-- R407: Service 0x01 returns the package identity response. -/
  | readIdentity
  /-- R408: Service 0x02 returns a signed attestation report over a nonce. -/
  | attest
  /-- R410: Service 0x03 returns a fresh nonce for a token. -/
  | challenge
  /-- R410: Service 0x04 verifies a slot-2 token and enters debug-unlocked, scrubbing the identity key. -/
  | unlock
  /-- R409: Service 0x05 returns from debug-unlocked to secure. -/
  | relock
  /-- R409: Service 0x06 verifies a slot-3 token and irreversibly enters RMA. -/
  | enterRma
  /-- R409: Service 0x07 fuses key hashes and the identity key and enters secure. -/
  | provision
  /-- R403: Service 0x10 creates a partition from its record and starts its supervisors. -/
  | createPartition
  /-- R400: Service 0x11 destroys a partition in the order of R346. -/
  | destroyPartition
  /-- R346: Service 0x12 moves a cluster to another partition after saving, quiescing and zeroing. -/
  | reassignCluster
  /-- R347: Service 0x13 changes pair owners, scrubbing pairs given to a different owner. -/
  | setPairOwner
  /-- R394: Service 0x14 requests a cluster power state or stack self-refresh with optional forced save. -/
  | powerRequest
  /-- R416: Service 0x15 resets a die, ending its work, advancing incarnation and re-verifying its image. -/
  | dieReset
  /-- R406: Service 0x16 retrains links and HBM, reloads and compares images and destroys partitions. -/
  | warmStart
  /-- R405: Service 0x19 in recovery verifies and writes four images and starts a cold start. -/
  | recoveryImage
  /-- R413: Debug op 0 freezes every context of a core with cause 15. -/
  | debugHalt
  /-- R413: Debug op 1 issues exactly one bundle of a context on a halted core. -/
  | debugStep
  /-- R413: Debug op 2 releases a debug halt. -/
  | debugResume
  /-- R413: Debug op 3 starts writing a trace record per bundle the core issues. -/
  | traceOn
  /-- R413: Debug op 4 stops tracing. -/
  | traceOff
  /-- R414: Debug op 5 stops every compute and router clock for scan readout. -/
  | debugFreeze
deriving DecidableEq, Repr

end Sys2Proof
end

