-- ==== Sys2Proof/WellFormed.lean ====
section
/-! DEFINITION. Which instruction words are legal at decode (R106, R107 and the entries of the class chapters). A word that
is not raises the illegal-instruction trap (R112, order 2). -/

namespace Sys2Proof

/-- A six-bit source that names an operand (R107): registers, latches, queue heads and constants. -/
def srcOk (x : BitVec 6) : Bool := x.toNat ≤ 37 || (40 ≤ x.toNat && x.toNat ≤ 55)

/-- The queue-returning layout (R105, R178): `dq` 0 to 3 and bits [16:15] zero. -/
def queueRegOk (reg : BitVec 5) : Bool := reg.toNat ≤ 15 && reg.toNat % 4 == 0

/-- `z` of a T word (R105). -/
def subZ (f : TQ) : BitVec 8 := f.sub.extractLsb' 2 8
/-- `acc` of a T word (R105). -/
def subAcc (f : TQ) : BitVec 2 := f.sub.extractLsb' 0 2
/-- `ap` of an A word (R105). -/
def subAp (f : TQ) : BitVec 5 := f.sub.extractLsb' 5 5
/-- `md` of an A word (R105). -/
def subMd (f : TQ) : BitVec 5 := f.sub.extractLsb' 0 5

/-- `z` is limited to 0 to 191 (R106, R272). -/
def tileOk (f : TQ) : Bool := (subZ f).toNat ≤ 191

/-- `md` of a read (R285): [1:0] not 3, [4:3] zero. -/
def readMdOk (md : BitVec 5) : Bool := md.toNat ≤ 7 && md.toNat % 4 ≠ 3

/-- R256: the fields `v.skinit` admits for each kind. -/
def skinitOk (ss md : BitVec 6) : Bool :=
  md.toNat < 16 &&
    match md.toNat % 4 with
    | 0 => md.toNat / 4 ≠ 3
    | 1 => md.toNat / 8 == 0 && ss == 0
    | 2 => md.toNat / 4 == 0 && ss == 0
    | _ => false

/-- R232: the region form has `ss` 0, the scalar form has no regions. -/
def specialOk (f : VS) : Bool :=
  if f.md == 0 then f.ss == 0 else f.md == 1 && f.dd == 0 && f.da == 0 && srcOk f.ss

/-- Legal at decode (R106, R107, R152, R178, R184, R218, R232, R236, R272, R285, R325, R389, R390). An event is no word. -/
def Instr.wf (i : Instr) : Bool :=
  match i with
  | .hdr _ => true
  | .ext _ => true
  | .sNop f => f.dst == 0 && !f.nw && f.sa == 0 && f.sb == 0 && f.fn == 0
  | .sAdd f => srcOk f.sa && srcOk f.sb && f.fn.toNat ≤ 1
  | .sSub f => srcOk f.sa && srcOk f.sb && f.fn.toNat ≤ 1
  | .sMul f => srcOk f.sa && srcOk f.sb && f.fn.toNat ≤ 1
  | .sMulh f => srcOk f.sa && srcOk f.sb && f.fn == 0
  | .sMulhu f => srcOk f.sa && srcOk f.sb && f.fn == 0
  | .sDiv f => srcOk f.sa && srcOk f.sb && f.fn.toNat ≤ 1
  | .sDivu f => srcOk f.sa && srcOk f.sb && f.fn.toNat ≤ 1
  | .sRem f => srcOk f.sa && srcOk f.sb && f.fn.toNat ≤ 1
  | .sRemu f => srcOk f.sa && srcOk f.sb && f.fn.toNat ≤ 1
  | .sAnd f => srcOk f.sa && srcOk f.sb && f.fn == 0
  | .sOr f => srcOk f.sa && srcOk f.sb && f.fn == 0
  | .sXor f => srcOk f.sa && srcOk f.sb && f.fn == 0
  | .sAndn f => srcOk f.sa && srcOk f.sb && f.fn == 0
  | .sShl f => srcOk f.sa && srcOk f.sb && f.fn.toNat ≤ 1
  | .sShr f => srcOk f.sa && srcOk f.sb && f.fn.toNat ≤ 1
  | .sSra f => srcOk f.sa && srcOk f.sb && f.fn.toNat ≤ 1
  | .sMin f => srcOk f.sa && srcOk f.sb && f.fn.toNat ≤ 1
  | .sMax f => srcOk f.sa && srcOk f.sb && f.fn.toNat ≤ 1
  | .sMinu f => srcOk f.sa && srcOk f.sb && f.fn.toNat ≤ 1
  | .sMaxu f => srcOk f.sa && srcOk f.sb && f.fn.toNat ≤ 1
  | .sAddi f => srcOk f.sa
  | .sAndi f => srcOk f.sa
  | .sOri f => srcOk f.sa
  | .sXori f => srcOk f.sa
  | .sShli f => srcOk f.sa && f.imm.toNat ≤ 63
  | .sShri f => srcOk f.sa && f.imm.toNat ≤ 63
  | .sSrai f => srcOk f.sa && f.imm.toNat ≤ 63
  | .sLi f => f.sa == 0
  | .sMov f => srcOk f.sa && f.sb == 0 && f.fn == 0
  | .sSel f => srcOk f.sa && srcOk f.sb
  | .sCmp f => srcOk f.sa && srcOk f.sb
  | .sCmpi f => srcOk f.sa
  | .sPlog f => f.sa.toNat < 8 && f.sb.toNat < 8 && f.w == 0
  | .sClz f => srcOk f.sa && f.sb == 0 && f.fn.toNat ≤ 1
  | .sPopc f => srcOk f.sa && f.sb == 0 && f.fn.toNat ≤ 1
  | .sBfx f => srcOk f.sa && srcOk f.sb && f.fn.toNat ≤ 1
  | .sBfi f => srcOk f.sa && srcOk f.sb && f.fn == 0
  | .sSext f => srcOk f.sa && f.sb == 0
  | .sBr _ => true
  | .sJmp f => srcOk f.sa && f.sb == 0 && f.fn.toNat ≤ 1
  | .sCall _ => true
  | .sRet f => srcOk f.sa && f.dst == 0 && !f.nw && f.sb == 0 && f.fn == 0
  | .sLoop f => srcOk f.sn
  | .sLbrk f => f.sn == 0 && f.len == 0
  | .sRdlc f => f.sa == 0 && f.sb.toNat ≤ 1
  | .sRdid f => f.sa == 0 && f.sb == 0
  | .sRdtime f => f.sa == 0 && f.sb == 0 && f.fn == 0
  | .sRdcoin f => f.sa == 0 && f.sb == 0 && f.fn == 0
  | .sMfp f => f.sa == 0 && f.sb == 0 && f.fn == 0
  | .sMtp f => srcOk f.sa && srcOk f.sb && f.dst == 0 && !f.nw && f.fn == 0
  | .mLd f => srcOk f.sa
  | .mSt f => srcOk f.sa && !f.nw && !f.sx
  | .mLdg f => srcOk f.sa && !f.nw && queueRegOk f.reg
  | .mStg f => srcOk f.sa && !f.nw && !f.sx
  | .mSth f => srcOk f.sa && !f.nw && !f.sx
  | .mAmo f => srcOk f.sa && queueRegOk f.reg && 2 ≤ f.sz.toNat
  | .mLda f => srcOk f.sa
  | .vDset f => srcOk f.ss && f.da == 0 && f.md == 0
  | .vDget f => f.dd == 0 && f.ss == 0 && f.md == 0
  | .vAdd f => f.dc == 0 && f.md == 0
  | .vSub f => f.dc == 0 && f.md == 0
  | .vMul f => f.dc == 0 && f.md == 0
  | .vFma f => f.md == 0
  | .vMax f => f.dc == 0 && f.md == 0
  | .vMin f => f.dc == 0 && f.md == 0
  | .vAbs f => f.db == 0 && f.dc == 0 && f.md == 0
  | .vNeg f => f.db == 0 && f.dc == 0 && f.md == 0
  | .vScal f => srcOk f.ss && f.md.toNat ≤ 1
  | .vAxpy f => srcOk f.ss && f.md.toNat ≤ 1
  | .vFill f => srcOk f.ss && f.da == 0 && f.md.toNat ≤ 1
  | .vCpy f => f.db == 0 && f.dc == 0 && f.md == 0
  | .vCvt f => f.db == 0 && f.dc == 0 && f.md.toNat ≤ 3
  | .vCmp f => f.dc == 0 && f.md.toNat ≤ 7
  | .vSel f => f.md == 0
  | .vAnd f => f.dc == 0 && f.md == 0
  | .vOr f => f.dc == 0 && f.md == 0
  | .vXor f => f.dc == 0 && f.md == 0
  | .vShl f => srcOk f.ss && f.md == 0
  | .vShr f => srcOk f.ss && f.md.toNat ≤ 1
  | .vClip f => f.md == 0
  | .vIota f => srcOk f.ss && f.da == 0
  | .vGath f => f.dc == 0 && f.md == 0
  | .vScat f => f.dc == 0 && f.md == 0
  | .vPerm f => f.dc == 0 && f.md == 0
  | .vRsum f => f.dd == 0 && f.db == 0 && f.dc == 0 && f.md == 0
  | .vRmax f => f.dd == 0 && f.db == 0 && f.dc == 0 && f.md.toNat ≤ 1
  | .vRmin f => f.dd == 0 && f.db == 0 && f.dc == 0 && f.md.toNat ≤ 1
  | .vRdot f => f.dd == 0 && f.dc == 0 && f.md == 0
  | .vRstat f => srcOk f.ss && f.dd == 0 && f.da == 0 && f.md == 0
  | .vNfck f => f.db == 0 && f.dc == 0 && f.md.toNat ≤ 1 && (f.md == 1 || f.dd == 0)
  | .vPgen f => f.dc == 0 && f.md == 0
  | .vRscale f => srcOk f.ss && f.md == 0
  | .vSkinit f => srcOk f.ss && f.da == 0 && skinitOk f.ss f.md
  | .vSkq f => f.db == 0 && f.dc == 0 && f.md == 0
  | .vSkh f => f.db == 0 && f.dc == 0 && f.md == 0
  | .vSkd f => f.db == 0 && f.dc == 0 && f.md == 0
  | .vSkm f => f.db == 0 && f.dc == 0 && f.md == 0
  | .vSkqq f => srcOk f.ss && f.dd == 0 && f.md == 0
  | .vSkest f => f.dd == 0 && f.db == 0 && f.dc == 0 && f.md == 0
  | .vSktop f => f.db == 0 && f.dc == 0 && f.md == 0
  | .fExp f => specialOk f
  | .fLog f => specialOk f
  | .fExp2 f => specialOk f
  | .fLog2 f => specialOk f
  | .fRcp f => specialOk f
  | .fRsqrt f => specialOk f
  | .fSqrt f => specialOk f
  | .fTanh f => specialOk f
  | .fSigm f => specialOk f
  | .fGelu f => specialOk f
  | .fSilu f => specialOk f
  | .fSin f => specialOk f
  | .fCos f => specialOk f
  | .fErf f => specialOk f
  | .xLd f => f.dd == 0 && f.db == 0 && f.dc == 0 && f.md == 0
  | .xApp f => f.db == 0 && f.dc == 0 && f.md.toNat ≤ 1
  | .xRot f => f.db == 0 && f.dc.toNat ≤ 3
  | .xBc f => f.db == 0 && f.dc.toNat ≤ 3
  | .xTr f => f.db == 0 && f.dc == 0 && f.md == 0
  | .xRev f => f.db == 0 && f.dc == 0 && f.md.toNat ≤ 5
  | .tMm f => srcOk f.sp && tileOk f
  | .tMmg f => srcOk f.sp && tileOk f
  | .tLdb f => srcOk f.sp && tileOk f && subAcc f == 0
  | .tZclr f => f.sp == 0 && tileOk f && subAcc f == 0
  | .tZld f => srcOk f.sp && tileOk f && subAcc f == 0
  | .tZst f => srcOk f.sp && tileOk f && subAcc f == 0
  | .tCop f => srcOk f.sp && f.sub == 0 && f.k == 0 && !f.kw
  | .tZadd f => srcOk f.sp && tileOk f && subAcc f == 0
  | .aFwd f => srcOk f.sp && readMdOk (subMd f)
  | .aBwd f => srcOk f.sp && readMdOk (subMd f)
  | .aUpd f => srcOk f.sp && (subMd f).toNat ≤ 1
  | .aXfer f => srcOk f.sp && (subMd f).toNat ≤ 1
  | .aSymw f => srcOk f.sp && subMd f == 0
  | .aSymr f => srcOk f.sp && subMd f == 0
  | .aProg f => srcOk f.sp && 1 ≤ (subMd f).toNat && (subMd f).toNat ≤ 3
  | .aCkpt f => srcOk f.sp && (subMd f).toNat ≤ 1
  | .aGfwd f => srcOk f.sp && subAp f == 0 && readMdOk (subMd f)
  | .aGbwd f => srcOk f.sp && subAp f == 0 && readMdOk (subMd f)
  | .aGupd f => srcOk f.sp && subAp f == 0 && (subMd f).toNat ≤ 1
  | .aSeed f => srcOk f.sp && subMd f == 0 && f.k == 0 && !f.kw
  | .aScl f => srcOk f.sp && subMd f == 0
  | .aStat f => f.sp == 0 && (subMd f).toNat ≤ 3 && f.k == 0 && !f.kw
  | .qCopy f => srcOk f.sp && f.sub == 0
  | .qTokst f => f.sp == 0 && !f.kw && f.sub == 0
  | .qDrain f => f.sp == 0 && f.k == 0 && !f.kw && f.sub.toNat ≤ 4
  | .qFence f => f.sp == 0 && f.k == 0 && !f.kw && f.sub.toNat ≤ 4
  | .qPut f => srcOk f.sp && f.k == 0 && !f.kw && f.sub.toNat ≤ 15
  | .qLaunch f => srcOk f.sp && f.sub == 0
  | .qGlaunch f => srcOk f.sp && f.sub == 0
  | .qCancel f => srcOk f.sp && f.k == 0 && !f.kw && f.sub == 0
  | .qExit f => f.sp == 0 && f.k == 0 && !f.kw && f.sub == 0
  | .qPgreq f => srcOk f.sp && f.kw && f.sub == 0
  | .qSortc f => srcOk f.sp && f.sub == 0
  | .qCarm f => srcOk f.sp && !f.sub.getLsbD 7 && !f.sub.getLsbD 9 && (!f.sub.getLsbD 8 || f.sp == 0)
  | .qCtrig f => srcOk f.sp && f.sub.toNat ≤ 127
  | .qCstat f => f.sp == 0 && f.k == 0 && !f.kw && !f.sub.getLsbD 7 && f.sub.toNat < 768
  | .qHset f => f.sp == 0 && f.k == 0 && !f.kw && f.sub.toNat ≤ 7
  | .qOffer f => f.sp == 0 && f.k == 0 && !f.kw && f.sub.toNat ≤ 2
  | .qSrec f => srcOk f.sp && f.k == 0 && !f.kw && f.sub.toNat ≤ 2
  | .qWaitk f => f.sp == 0 && f.k == 0 && !f.kw
  | .qKclr f => f.sp == 0 && f.k == 0 && !f.kw && f.sub.toNat ≤ 255
  | .pTrap f => f.sa == 0 && f.md == 0
  | .pEret f => f.csr == 0 && f.sa == 0 && f.md.toNat ≤ 3
  | .pCsrr f => f.sa.toNat ≤ 31
  | .pCsrw f => srcOk f.sa
  | .pCsrs f => srcOk f.sa
  | .pCsrc f => srcOk f.sa
  | .pTlbi f => srcOk f.sp && f.sub.toNat ≤ 1
  | .pCtxsv f => srcOk f.sp && f.sub.toNat ≤ 15 && (f.sub.extractLsb' 0 3).toNat ≤ 4
  | .pCtxld f => srcOk f.sp && f.sub.toNat ≤ 15 && (f.sub.extractLsb' 0 3).toNat ≤ 4
  | .pHalt f => f.sp == 0 && f.k == 0 && !f.kw && f.sub == 0
  | .pPmt f => srcOk f.sp && !f.sub.getLsbD 9
  | .monitorPowerCall _ => true
  | .monitorPageTableRootCall _ => true
  | .nextPrimaryChoice _ => true
  | .syncEpisodeResume _ => true
  | .syncTimeout _ => true
  | .watchdogExpiry _ => true
  | .streamingCommandCompletion _ => true
  | .logMatrixCommandStart _ => true
  | .operandFetchDone _ => true
  | .logMatrixCommandCompletion _ => true
  | .adcGroupCommandStart _ _ => true
  | .readLatencyExpiry _ _ => true
  | .arrayCommandCompletion _ _ => true
  | .operandBufferFillStart _ => true
  | .copyCompletion _ => true
  | .engineTranslationFault _ => true
  | .engineEventPost _ => true
  | .sortCompletion _ => true
  | .drainCompletion _ => true
  | .fenceCompletion _ => true
  | .tokenWaitCompletion _ => true
  | .tlbInvalidationCompletion _ => true
  | .remoteAccessAtTarget _ => true
  | .stageAcknowledgement _ => true
  | .remoteResponseArrival _ => true
  | .handlerArrival _ => true
  | .handlerQueueStart _ => true
  | .pipeSpaceFreed _ => true
  | .unitCompletion _ => true
  | .unitTransfer _ => true
  | .completionCountArrival _ => true
  | .imageDataLoad _ => true
  | .dispatchDecision _ => true
  | .syncLaunchDispatch _ => true
  | .stealClaim _ => true
  | .cancelArrival _ _ => true
  | .jobStart _ _ => true
  | .microBatchTokenArrival _ _ => true
  | .phaseStart _ => true
  | .phaseCompletion _ => true
  | .collectiveFiringStart _ => true
  | .collectiveFiringCompletion _ => true
  | .collectiveTransferArrival _ => true
  | .flitReception _ _ _ _ => true
  | .refusalReceipt _ _ _ _ => true
  | .acknowledgementTimer _ _ _ => true
  | .replayTimeout _ _ _ => true
  | .automaticBackOff _ _ => true
  | .laneRetirement _ _ _ _ => true
  | .linkRateWrite _ _ _ => true
  | .mailboxPop _ => true
  | .jobAddressWrite _ _ => true
  | .contextFreeze _ _ => true
  | .eventTake _ => true
  | .contextQuiescence _ => true
  | .replayInjection _ => true
  | .powerOn => true
  | .pcieFundamentalReset => true
  | .readIdentity => true
  | .attest => true
  | .challenge => true
  | .unlock => true
  | .relock => true
  | .enterRma => true
  | .provision => true
  | .createPartition => true
  | .destroyPartition => true
  | .reassignCluster => true
  | .setPairOwner => true
  | .powerRequest => true
  | .dieReset => true
  | .warmStart => true
  | .recoveryImage => true
  | .debugHalt => true
  | .debugStep => true
  | .debugResume => true
  | .traceOn => true
  | .traceOff => true
  | .debugFreeze => true
  | .uncorrectableError _ => true
  | .correctedError _ => true
  | .branchResolution _ => true
  | .linkRetrainCompletion _ _ _ => true
  | .flitTransmission _ _ _ => true
  | .returnToP0 _ _ => true
  | .hostCxlMemAccess _ _ _ _ _ => true

/-- How many EXT words may follow a word (R109): two after an RI word, one after an immediate compare, after `m.ld`, `m.st`,
`m.ldg` and `m.stg`, and after a TQ word other than the four whose `sp` R183 calls a value. -/
def Instr.extLimit (i : Instr) : Nat :=
  match i with
  | .sAddi _ | .sAndi _ | .sOri _ | .sXori _ | .sShli _ | .sShri _ | .sSrai _ | .sLi _ => 2
  | .sCmpi _ | .mLd _ | .mSt _ | .mLdg _ | .mStg _ => 1
  | .tMm _ | .tMmg _ | .tLdb _ | .tZclr _ | .tZld _ | .tZst _ | .tCop _ | .tZadd _ | .aFwd _ | .aBwd _ |
      .aUpd _ | .aXfer _ | .aSymw _ | .aSymr _ | .aProg _ | .aCkpt _ | .aGfwd _ | .aGbwd _ | .aGupd _ |
      .aSeed _ | .aScl _ | .aStat _ | .qCopy _ | .qTokst _ | .qDrain _ | .qFence _ | .qLaunch _ |
      .qGlaunch _ | .qExit _ | .qSortc _ | .qCarm _ | .qCtrig _ | .qCstat _ | .qHset _ | .qOffer _ |
      .qWaitk _ | .qKclr _ | .pTlbi _ | .pCtxsv _ | .pCtxld _ | .pHalt _ | .pPmt _ => 1
  | _ => 0

/-- The payload limits of EXT words (R109: a TQ payload has [26:23] zero; R157: a shift amount is at most 63). -/
def Instr.extOk (i : Instr) (ps : List (BitVec 27)) : Bool :=
  match i with
  | .sShli _ | .sShri _ | .sSrai _ => ps.all (· == 0)
  | .tMm _ | .tMmg _ | .tLdb _ | .tZclr _ | .tZld _ | .tZst _ | .tCop _ | .tZadd _ | .aFwd _ | .aBwd _ |
      .aUpd _ | .aXfer _ | .aSymw _ | .aSymr _ | .aProg _ | .aCkpt _ | .aGfwd _ | .aGbwd _ | .aGupd _ |
      .aSeed _ | .aScl _ | .aStat _ | .qCopy _ | .qTokst _ | .qDrain _ | .qFence _ | .qLaunch _ |
      .qGlaunch _ | .qExit _ | .qSortc _ | .qCarm _ | .qCtrig _ | .qCstat _ | .qHset _ | .qOffer _ |
      .qWaitk _ | .qKclr _ | .pTlbi _ | .pCtxsv _ | .pCtxld _ | .pHalt _ | .pPmt _ => ps.all (fun p => p.toNat < 2 ^ 23)
  | _ => true

end Sys2Proof
end

