-- ==== Sys2Proof/Decode.lean ====
section
/-! DEFINITION. The decoder of the instruction words (R97 to R110), total on any word, and the encoder. -/

namespace Sys2Proof

/-- Why a word is refused by the decoder. -/
inductive DecodeError where
  /-- `cls` 11 to 15 (R100): the machine raises the illegal-instruction trap. -/
  | reservedClass
  /-- An `op` the opcode map does not list (R110): the machine raises the illegal-instruction trap. -/
  | reservedOp
deriving DecidableEq, Repr

/-- The chain bit of a word (R97). -/
def chainBit (w : BitVec 32) : Bool := w.getLsbD 31
/-- The class code of a word (R97). -/
def classOf (w : BitVec 32) : BitVec 4 := w.extractLsb' 27 4
/-- The opcode of a word (R97). -/
def opOf (w : BitVec 32) : BitVec 6 := w.extractLsb' 21 6
/-- The guard bit of a word (R97). -/
def guardBit (w : BitVec 32) : Bool := w.getLsbD 20

/-- R102. -/
def decodeHDR (w : BitVec 32) : HDR :=
  { c := chainBit w, pop := w.extractLsb' 19 8, wait := w.extractLsb' 11 8, y := w.getLsbD 10, s := w.getLsbD 9,
    v := w.getLsbD 8, line := w.extractLsb' 4 4, gp := w.extractLsb' 1 3, gn := w.getLsbD 0 }
/-- R109. -/
def decodeEXT (w : BitVec 32) : EXT := { c := chainBit w, pay := w.extractLsb' 0 27 }
/-- R105. -/
def decodeRR (w : BitVec 32) : RR :=
  { c := chainBit w, g := guardBit w, dst := w.extractLsb' 15 5, nw := w.getLsbD 14, sa := w.extractLsb' 8 6,
    sb := w.extractLsb' 2 6, fn := w.extractLsb' 0 2 }
/-- R105. -/
def decodeRI (w : BitVec 32) : RI :=
  { c := chainBit w, g := guardBit w, dst := w.extractLsb' 15 5, nw := w.getLsbD 14, sa := w.extractLsb' 8 6,
    imm := w.extractLsb' 0 8 }
/-- R105. -/
def decodeCP (w : BitVec 32) : CP :=
  { c := chainBit w, g := guardBit w, pd := w.extractLsb' 17 3, cond := w.extractLsb' 14 3, sa := w.extractLsb' 8 6,
    sb := w.extractLsb' 2 6, w := w.extractLsb' 0 2 }
/-- R105. -/
def decodeBR (w : BitVec 32) : BR :=
  { c := chainBit w, g := guardBit w, pd := w.extractLsb' 17 3, pn := w.getLsbD 16, hint := w.getLsbD 15,
    disp := w.extractLsb' 0 15 }
/-- R105. -/
def decodeLP (w : BitVec 32) : LP :=
  { c := chainBit w, g := guardBit w, l := w.getLsbD 19, sn := w.extractLsb' 13 6, len := w.extractLsb' 0 13 }
/-- R105. -/
def decodeMM (w : BitVec 32) : MM :=
  { c := chainBit w, g := guardBit w, reg := w.extractLsb' 15 5, nw := w.getLsbD 14, sa := w.extractLsb' 8 6,
    sz := w.extractLsb' 6 2, sx := w.getLsbD 5, off := w.extractLsb' 0 5 }
/-- R105. -/
def decodeVR (w : BitVec 32) : VR :=
  { c := chainBit w, g := guardBit w, dd := w.extractLsb' 16 4, da := w.extractLsb' 12 4, db := w.extractLsb' 8 4,
    dc := w.extractLsb' 4 4, md := w.extractLsb' 0 4 }
/-- R105. -/
def decodeVS (w : BitVec 32) : VS :=
  { c := chainBit w, g := guardBit w, dd := w.extractLsb' 16 4, da := w.extractLsb' 12 4, ss := w.extractLsb' 6 6,
    md := w.extractLsb' 0 6 }
/-- R105. -/
def decodeTQ (w : BitVec 32) : TQ :=
  { c := chainBit w, g := guardBit w, sp := w.extractLsb' 14 6, k := w.extractLsb' 11 3, kw := w.getLsbD 10,
    sub := w.extractLsb' 0 10 }
/-- R105. -/
def decodePV (w : BitVec 32) : PV :=
  { c := chainBit w, g := guardBit w, csr := w.extractLsb' 10 10, sa := w.extractLsb' 4 6, md := w.extractLsb' 0 4 }

/-- The opcodes of class S (R110); an op the map does not list is refused. -/
def decodeClassS (op : Nat) (w : BitVec 32) : Option Instr :=
  match op with
  | 0 => some (.sNop (decodeRR w))
  | 1 => some (.sAdd (decodeRR w))
  | 2 => some (.sSub (decodeRR w))
  | 3 => some (.sMul (decodeRR w))
  | 4 => some (.sMulh (decodeRR w))
  | 5 => some (.sMulhu (decodeRR w))
  | 6 => some (.sDiv (decodeRR w))
  | 7 => some (.sDivu (decodeRR w))
  | 8 => some (.sRem (decodeRR w))
  | 9 => some (.sRemu (decodeRR w))
  | 10 => some (.sAnd (decodeRR w))
  | 11 => some (.sOr (decodeRR w))
  | 12 => some (.sXor (decodeRR w))
  | 13 => some (.sAndn (decodeRR w))
  | 14 => some (.sShl (decodeRR w))
  | 15 => some (.sShr (decodeRR w))
  | 16 => some (.sSra (decodeRR w))
  | 17 => some (.sMin (decodeRR w))
  | 18 => some (.sMax (decodeRR w))
  | 19 => some (.sMinu (decodeRR w))
  | 20 => some (.sMaxu (decodeRR w))
  | 21 => some (.sAddi (decodeRI w))
  | 22 => some (.sAndi (decodeRI w))
  | 23 => some (.sOri (decodeRI w))
  | 24 => some (.sXori (decodeRI w))
  | 25 => some (.sShli (decodeRI w))
  | 26 => some (.sShri (decodeRI w))
  | 27 => some (.sSrai (decodeRI w))
  | 28 => some (.sLi (decodeRI w))
  | 29 => some (.sMov (decodeRR w))
  | 30 => some (.sSel (decodeRR w))
  | 31 => some (.sCmp (decodeCP w))
  | 32 => some (.sCmpi (decodeCP w))
  | 33 => some (.sPlog (decodeCP w))
  | 34 => some (.sClz (decodeRR w))
  | 35 => some (.sPopc (decodeRR w))
  | 36 => some (.sBfx (decodeRR w))
  | 37 => some (.sBfi (decodeRR w))
  | 38 => some (.sSext (decodeRR w))
  | 39 => some (.sBr (decodeBR w))
  | 40 => some (.sJmp (decodeRR w))
  | 41 => some (.sCall (decodeBR w))
  | 42 => some (.sRet (decodeRR w))
  | 43 => some (.sLoop (decodeLP w))
  | 44 => some (.sLbrk (decodeLP w))
  | 45 => some (.sRdlc (decodeRR w))
  | 46 => some (.sRdid (decodeRR w))
  | 47 => some (.sRdtime (decodeRR w))
  | 48 => some (.sRdcoin (decodeRR w))
  | 49 => some (.sMfp (decodeRR w))
  | 50 => some (.sMtp (decodeRR w))
  | _ => none

/-- The opcodes of class M (R110); an op the map does not list is refused. -/
def decodeClassM (op : Nat) (w : BitVec 32) : Option Instr :=
  match op with
  | 0 => some (.mLd (decodeMM w))
  | 1 => some (.mSt (decodeMM w))
  | 2 => some (.mLdg (decodeMM w))
  | 3 => some (.mStg (decodeMM w))
  | 4 => some (.mSth (decodeMM w))
  | 5 => some (.mAmo (decodeMM w))
  | 6 => some (.mLda (decodeMM w))
  | _ => none

/-- The opcodes of class V (R110); an op the map does not list is refused. -/
def decodeClassV (op : Nat) (w : BitVec 32) : Option Instr :=
  match op with
  | 0 => some (.vDset (decodeVS w))
  | 1 => some (.vDget (decodeVS w))
  | 2 => some (.vAdd (decodeVR w))
  | 3 => some (.vSub (decodeVR w))
  | 4 => some (.vMul (decodeVR w))
  | 5 => some (.vFma (decodeVR w))
  | 6 => some (.vMax (decodeVR w))
  | 7 => some (.vMin (decodeVR w))
  | 8 => some (.vAbs (decodeVR w))
  | 9 => some (.vNeg (decodeVR w))
  | 10 => some (.vScal (decodeVS w))
  | 11 => some (.vAxpy (decodeVS w))
  | 12 => some (.vFill (decodeVS w))
  | 13 => some (.vCpy (decodeVR w))
  | 14 => some (.vCvt (decodeVR w))
  | 15 => some (.vCmp (decodeVR w))
  | 16 => some (.vSel (decodeVR w))
  | 17 => some (.vAnd (decodeVR w))
  | 18 => some (.vOr (decodeVR w))
  | 19 => some (.vXor (decodeVR w))
  | 20 => some (.vShl (decodeVS w))
  | 21 => some (.vShr (decodeVS w))
  | 22 => some (.vClip (decodeVR w))
  | 23 => some (.vIota (decodeVS w))
  | 24 => some (.vGath (decodeVR w))
  | 25 => some (.vScat (decodeVR w))
  | 26 => some (.vPerm (decodeVR w))
  | 27 => some (.vRsum (decodeVR w))
  | 28 => some (.vRmax (decodeVR w))
  | 29 => some (.vRmin (decodeVR w))
  | 30 => some (.vRdot (decodeVR w))
  | 31 => some (.vRstat (decodeVS w))
  | 32 => some (.vNfck (decodeVR w))
  | 33 => some (.vPgen (decodeVR w))
  | 34 => some (.vRscale (decodeVS w))
  | 35 => some (.vSkinit (decodeVS w))
  | 36 => some (.vSkq (decodeVR w))
  | 37 => some (.vSkh (decodeVR w))
  | 38 => some (.vSkd (decodeVR w))
  | 39 => some (.vSkm (decodeVR w))
  | 40 => some (.vSkqq (decodeVS w))
  | 41 => some (.vSkest (decodeVR w))
  | 42 => some (.vSktop (decodeVR w))
  | _ => none

/-- The opcodes of class F (R110); an op the map does not list is refused. -/
def decodeClassF (op : Nat) (w : BitVec 32) : Option Instr :=
  match op with
  | 0 => some (.fExp (decodeVS w))
  | 1 => some (.fLog (decodeVS w))
  | 2 => some (.fExp2 (decodeVS w))
  | 3 => some (.fLog2 (decodeVS w))
  | 4 => some (.fRcp (decodeVS w))
  | 5 => some (.fRsqrt (decodeVS w))
  | 6 => some (.fSqrt (decodeVS w))
  | 7 => some (.fTanh (decodeVS w))
  | 8 => some (.fSigm (decodeVS w))
  | 9 => some (.fGelu (decodeVS w))
  | 10 => some (.fSilu (decodeVS w))
  | 11 => some (.fSin (decodeVS w))
  | 12 => some (.fCos (decodeVS w))
  | 13 => some (.fErf (decodeVS w))
  | _ => none

/-- The opcodes of class X (R110); an op the map does not list is refused. -/
def decodeClassX (op : Nat) (w : BitVec 32) : Option Instr :=
  match op with
  | 0 => some (.xLd (decodeVR w))
  | 1 => some (.xApp (decodeVR w))
  | 2 => some (.xRot (decodeVR w))
  | 3 => some (.xBc (decodeVR w))
  | 4 => some (.xTr (decodeVR w))
  | 5 => some (.xRev (decodeVR w))
  | _ => none

/-- The opcodes of class T (R110); an op the map does not list is refused. -/
def decodeClassT (op : Nat) (w : BitVec 32) : Option Instr :=
  match op with
  | 0 => some (.tMm (decodeTQ w))
  | 1 => some (.tMmg (decodeTQ w))
  | 2 => some (.tLdb (decodeTQ w))
  | 3 => some (.tZclr (decodeTQ w))
  | 4 => some (.tZld (decodeTQ w))
  | 5 => some (.tZst (decodeTQ w))
  | 6 => some (.tCop (decodeTQ w))
  | 7 => some (.tZadd (decodeTQ w))
  | _ => none

/-- The opcodes of class A (R110); an op the map does not list is refused. -/
def decodeClassA (op : Nat) (w : BitVec 32) : Option Instr :=
  match op with
  | 0 => some (.aFwd (decodeTQ w))
  | 1 => some (.aBwd (decodeTQ w))
  | 2 => some (.aUpd (decodeTQ w))
  | 3 => some (.aXfer (decodeTQ w))
  | 4 => some (.aSymw (decodeTQ w))
  | 5 => some (.aSymr (decodeTQ w))
  | 6 => some (.aProg (decodeTQ w))
  | 7 => some (.aCkpt (decodeTQ w))
  | 8 => some (.aGfwd (decodeTQ w))
  | 9 => some (.aGbwd (decodeTQ w))
  | 10 => some (.aGupd (decodeTQ w))
  | 11 => some (.aSeed (decodeTQ w))
  | 12 => some (.aScl (decodeTQ w))
  | 13 => some (.aStat (decodeTQ w))
  | _ => none

/-- The opcodes of class Q (R110); an op the map does not list is refused. -/
def decodeClassQ (op : Nat) (w : BitVec 32) : Option Instr :=
  match op with
  | 0 => some (.qCopy (decodeTQ w))
  | 1 => some (.qTokst (decodeTQ w))
  | 2 => some (.qDrain (decodeTQ w))
  | 3 => some (.qFence (decodeTQ w))
  | 4 => some (.qPut (decodeTQ w))
  | 5 => some (.qLaunch (decodeTQ w))
  | 6 => some (.qGlaunch (decodeTQ w))
  | 7 => some (.qCancel (decodeTQ w))
  | 8 => some (.qExit (decodeTQ w))
  | 9 => some (.qPgreq (decodeTQ w))
  | 10 => some (.qSortc (decodeTQ w))
  | 11 => some (.qCarm (decodeTQ w))
  | 12 => some (.qCtrig (decodeTQ w))
  | 13 => some (.qCstat (decodeTQ w))
  | 14 => some (.qHset (decodeTQ w))
  | 15 => some (.qOffer (decodeTQ w))
  | 16 => some (.qSrec (decodeTQ w))
  | 17 => some (.qWaitk (decodeTQ w))
  | 18 => some (.qKclr (decodeTQ w))
  | _ => none

/-- The opcodes of class P (R110); an op the map does not list is refused. -/
def decodeClassP (op : Nat) (w : BitVec 32) : Option Instr :=
  match op with
  | 0 => some (.pTrap (decodePV w))
  | 1 => some (.pEret (decodePV w))
  | 2 => some (.pCsrr (decodePV w))
  | 3 => some (.pCsrw (decodePV w))
  | 4 => some (.pCsrs (decodePV w))
  | 5 => some (.pCsrc (decodePV w))
  | 6 => some (.pTlbi (decodeTQ w))
  | 7 => some (.pCtxsv (decodeTQ w))
  | 8 => some (.pCtxld (decodeTQ w))
  | 9 => some (.pHalt (decodeTQ w))
  | 10 => some (.pPmt (decodeTQ w))
  | _ => none

/-- One word, by class and opcode (R97, R100, R110). The limits of the fields are `Instr.wf`. -/
def decodeWord (w : BitVec 32) : Except DecodeError Instr :=
  match (classOf w).toNat with
  | 0 => .ok (.hdr (decodeHDR w))
  | 1 => op? (decodeClassS (opOf w).toNat w)
  | 2 => op? (decodeClassM (opOf w).toNat w)
  | 3 => op? (decodeClassV (opOf w).toNat w)
  | 4 => op? (decodeClassF (opOf w).toNat w)
  | 5 => op? (decodeClassX (opOf w).toNat w)
  | 6 => op? (decodeClassT (opOf w).toNat w)
  | 7 => op? (decodeClassA (opOf w).toNat w)
  | 8 => op? (decodeClassQ (opOf w).toNat w)
  | 9 => op? (decodeClassP (opOf w).toNat w)
  | 10 => .ok (.ext (decodeEXT w))
  | _ => .error .reservedClass
where
  op? : Option Instr → Except DecodeError Instr
    | some i => .ok i
    | none => .error .reservedOp

/-- The parts of R97 put together: chain, class, opcode, guard, operands. -/
def packWord (c : Bool) (cls op : Nat) (g : Bool) (rest : BitVec 20) : BitVec 32 :=
  BitVec.ofBool c ++ BitVec.ofNat 4 cls ++ BitVec.ofNat 6 op ++ BitVec.ofBool g ++ rest

/-- R102. -/
def encodeHDR (f : HDR) : BitVec 32 :=
  BitVec.ofBool f.c ++ (0 : BitVec 4) ++ f.pop ++ f.wait ++ BitVec.ofBool f.y ++ BitVec.ofBool f.s ++ BitVec.ofBool f.v
    ++ f.line ++ f.gp ++ BitVec.ofBool f.gn
/-- R109. -/
def encodeEXT (f : EXT) : BitVec 32 := BitVec.ofBool f.c ++ (10 : BitVec 4) ++ f.pay
/-- R105. -/
def encodeRR (cls op : Nat) (f : RR) : BitVec 32 :=
  packWord f.c cls op f.g (f.dst ++ BitVec.ofBool f.nw ++ f.sa ++ f.sb ++ f.fn)
/-- R105. -/
def encodeRI (cls op : Nat) (f : RI) : BitVec 32 :=
  packWord f.c cls op f.g (f.dst ++ BitVec.ofBool f.nw ++ f.sa ++ f.imm)
/-- R105. -/
def encodeCP (cls op : Nat) (f : CP) : BitVec 32 :=
  packWord f.c cls op f.g (f.pd ++ f.cond ++ f.sa ++ f.sb ++ f.w)
/-- R105. -/
def encodeBR (cls op : Nat) (f : BR) : BitVec 32 :=
  packWord f.c cls op f.g (f.pd ++ BitVec.ofBool f.pn ++ BitVec.ofBool f.hint ++ f.disp)
/-- R105. -/
def encodeLP (cls op : Nat) (f : LP) : BitVec 32 :=
  packWord f.c cls op f.g (BitVec.ofBool f.l ++ f.sn ++ f.len)
/-- R105. -/
def encodeMM (cls op : Nat) (f : MM) : BitVec 32 :=
  packWord f.c cls op f.g (f.reg ++ BitVec.ofBool f.nw ++ f.sa ++ f.sz ++ BitVec.ofBool f.sx ++ f.off)
/-- R105. -/
def encodeVR (cls op : Nat) (f : VR) : BitVec 32 :=
  packWord f.c cls op f.g (f.dd ++ f.da ++ f.db ++ f.dc ++ f.md)
/-- R105. -/
def encodeVS (cls op : Nat) (f : VS) : BitVec 32 :=
  packWord f.c cls op f.g (f.dd ++ f.da ++ f.ss ++ f.md)
/-- R105. -/
def encodeTQ (cls op : Nat) (f : TQ) : BitVec 32 :=
  packWord f.c cls op f.g (f.sp ++ f.k ++ BitVec.ofBool f.kw ++ f.sub)
/-- R105. -/
def encodePV (cls op : Nat) (f : PV) : BitVec 32 :=
  packWord f.c cls op f.g (f.csr ++ f.sa ++ f.md)

/-- The word of an instruction, from the encoding tables of the spec (R97, R105, R110); an event has none. -/
def encode (i : Instr) : Option (BitVec 32) :=
  match i with
  | .hdr f => some (encodeHDR f)
  | .ext f => some (encodeEXT f)
  | .sNop f => some (encodeRR 1 0 f)
  | .sAdd f => some (encodeRR 1 1 f)
  | .sSub f => some (encodeRR 1 2 f)
  | .sMul f => some (encodeRR 1 3 f)
  | .sMulh f => some (encodeRR 1 4 f)
  | .sMulhu f => some (encodeRR 1 5 f)
  | .sDiv f => some (encodeRR 1 6 f)
  | .sDivu f => some (encodeRR 1 7 f)
  | .sRem f => some (encodeRR 1 8 f)
  | .sRemu f => some (encodeRR 1 9 f)
  | .sAnd f => some (encodeRR 1 10 f)
  | .sOr f => some (encodeRR 1 11 f)
  | .sXor f => some (encodeRR 1 12 f)
  | .sAndn f => some (encodeRR 1 13 f)
  | .sShl f => some (encodeRR 1 14 f)
  | .sShr f => some (encodeRR 1 15 f)
  | .sSra f => some (encodeRR 1 16 f)
  | .sMin f => some (encodeRR 1 17 f)
  | .sMax f => some (encodeRR 1 18 f)
  | .sMinu f => some (encodeRR 1 19 f)
  | .sMaxu f => some (encodeRR 1 20 f)
  | .sAddi f => some (encodeRI 1 21 f)
  | .sAndi f => some (encodeRI 1 22 f)
  | .sOri f => some (encodeRI 1 23 f)
  | .sXori f => some (encodeRI 1 24 f)
  | .sShli f => some (encodeRI 1 25 f)
  | .sShri f => some (encodeRI 1 26 f)
  | .sSrai f => some (encodeRI 1 27 f)
  | .sLi f => some (encodeRI 1 28 f)
  | .sMov f => some (encodeRR 1 29 f)
  | .sSel f => some (encodeRR 1 30 f)
  | .sCmp f => some (encodeCP 1 31 f)
  | .sCmpi f => some (encodeCP 1 32 f)
  | .sPlog f => some (encodeCP 1 33 f)
  | .sClz f => some (encodeRR 1 34 f)
  | .sPopc f => some (encodeRR 1 35 f)
  | .sBfx f => some (encodeRR 1 36 f)
  | .sBfi f => some (encodeRR 1 37 f)
  | .sSext f => some (encodeRR 1 38 f)
  | .sBr f => some (encodeBR 1 39 f)
  | .sJmp f => some (encodeRR 1 40 f)
  | .sCall f => some (encodeBR 1 41 f)
  | .sRet f => some (encodeRR 1 42 f)
  | .sLoop f => some (encodeLP 1 43 f)
  | .sLbrk f => some (encodeLP 1 44 f)
  | .sRdlc f => some (encodeRR 1 45 f)
  | .sRdid f => some (encodeRR 1 46 f)
  | .sRdtime f => some (encodeRR 1 47 f)
  | .sRdcoin f => some (encodeRR 1 48 f)
  | .sMfp f => some (encodeRR 1 49 f)
  | .sMtp f => some (encodeRR 1 50 f)
  | .mLd f => some (encodeMM 2 0 f)
  | .mSt f => some (encodeMM 2 1 f)
  | .mLdg f => some (encodeMM 2 2 f)
  | .mStg f => some (encodeMM 2 3 f)
  | .mSth f => some (encodeMM 2 4 f)
  | .mAmo f => some (encodeMM 2 5 f)
  | .mLda f => some (encodeMM 2 6 f)
  | .vDset f => some (encodeVS 3 0 f)
  | .vDget f => some (encodeVS 3 1 f)
  | .vAdd f => some (encodeVR 3 2 f)
  | .vSub f => some (encodeVR 3 3 f)
  | .vMul f => some (encodeVR 3 4 f)
  | .vFma f => some (encodeVR 3 5 f)
  | .vMax f => some (encodeVR 3 6 f)
  | .vMin f => some (encodeVR 3 7 f)
  | .vAbs f => some (encodeVR 3 8 f)
  | .vNeg f => some (encodeVR 3 9 f)
  | .vScal f => some (encodeVS 3 10 f)
  | .vAxpy f => some (encodeVS 3 11 f)
  | .vFill f => some (encodeVS 3 12 f)
  | .vCpy f => some (encodeVR 3 13 f)
  | .vCvt f => some (encodeVR 3 14 f)
  | .vCmp f => some (encodeVR 3 15 f)
  | .vSel f => some (encodeVR 3 16 f)
  | .vAnd f => some (encodeVR 3 17 f)
  | .vOr f => some (encodeVR 3 18 f)
  | .vXor f => some (encodeVR 3 19 f)
  | .vShl f => some (encodeVS 3 20 f)
  | .vShr f => some (encodeVS 3 21 f)
  | .vClip f => some (encodeVR 3 22 f)
  | .vIota f => some (encodeVS 3 23 f)
  | .vGath f => some (encodeVR 3 24 f)
  | .vScat f => some (encodeVR 3 25 f)
  | .vPerm f => some (encodeVR 3 26 f)
  | .vRsum f => some (encodeVR 3 27 f)
  | .vRmax f => some (encodeVR 3 28 f)
  | .vRmin f => some (encodeVR 3 29 f)
  | .vRdot f => some (encodeVR 3 30 f)
  | .vRstat f => some (encodeVS 3 31 f)
  | .vNfck f => some (encodeVR 3 32 f)
  | .vPgen f => some (encodeVR 3 33 f)
  | .vRscale f => some (encodeVS 3 34 f)
  | .vSkinit f => some (encodeVS 3 35 f)
  | .vSkq f => some (encodeVR 3 36 f)
  | .vSkh f => some (encodeVR 3 37 f)
  | .vSkd f => some (encodeVR 3 38 f)
  | .vSkm f => some (encodeVR 3 39 f)
  | .vSkqq f => some (encodeVS 3 40 f)
  | .vSkest f => some (encodeVR 3 41 f)
  | .vSktop f => some (encodeVR 3 42 f)
  | .fExp f => some (encodeVS 4 0 f)
  | .fLog f => some (encodeVS 4 1 f)
  | .fExp2 f => some (encodeVS 4 2 f)
  | .fLog2 f => some (encodeVS 4 3 f)
  | .fRcp f => some (encodeVS 4 4 f)
  | .fRsqrt f => some (encodeVS 4 5 f)
  | .fSqrt f => some (encodeVS 4 6 f)
  | .fTanh f => some (encodeVS 4 7 f)
  | .fSigm f => some (encodeVS 4 8 f)
  | .fGelu f => some (encodeVS 4 9 f)
  | .fSilu f => some (encodeVS 4 10 f)
  | .fSin f => some (encodeVS 4 11 f)
  | .fCos f => some (encodeVS 4 12 f)
  | .fErf f => some (encodeVS 4 13 f)
  | .xLd f => some (encodeVR 5 0 f)
  | .xApp f => some (encodeVR 5 1 f)
  | .xRot f => some (encodeVR 5 2 f)
  | .xBc f => some (encodeVR 5 3 f)
  | .xTr f => some (encodeVR 5 4 f)
  | .xRev f => some (encodeVR 5 5 f)
  | .tMm f => some (encodeTQ 6 0 f)
  | .tMmg f => some (encodeTQ 6 1 f)
  | .tLdb f => some (encodeTQ 6 2 f)
  | .tZclr f => some (encodeTQ 6 3 f)
  | .tZld f => some (encodeTQ 6 4 f)
  | .tZst f => some (encodeTQ 6 5 f)
  | .tCop f => some (encodeTQ 6 6 f)
  | .tZadd f => some (encodeTQ 6 7 f)
  | .aFwd f => some (encodeTQ 7 0 f)
  | .aBwd f => some (encodeTQ 7 1 f)
  | .aUpd f => some (encodeTQ 7 2 f)
  | .aXfer f => some (encodeTQ 7 3 f)
  | .aSymw f => some (encodeTQ 7 4 f)
  | .aSymr f => some (encodeTQ 7 5 f)
  | .aProg f => some (encodeTQ 7 6 f)
  | .aCkpt f => some (encodeTQ 7 7 f)
  | .aGfwd f => some (encodeTQ 7 8 f)
  | .aGbwd f => some (encodeTQ 7 9 f)
  | .aGupd f => some (encodeTQ 7 10 f)
  | .aSeed f => some (encodeTQ 7 11 f)
  | .aScl f => some (encodeTQ 7 12 f)
  | .aStat f => some (encodeTQ 7 13 f)
  | .qCopy f => some (encodeTQ 8 0 f)
  | .qTokst f => some (encodeTQ 8 1 f)
  | .qDrain f => some (encodeTQ 8 2 f)
  | .qFence f => some (encodeTQ 8 3 f)
  | .qPut f => some (encodeTQ 8 4 f)
  | .qLaunch f => some (encodeTQ 8 5 f)
  | .qGlaunch f => some (encodeTQ 8 6 f)
  | .qCancel f => some (encodeTQ 8 7 f)
  | .qExit f => some (encodeTQ 8 8 f)
  | .qPgreq f => some (encodeTQ 8 9 f)
  | .qSortc f => some (encodeTQ 8 10 f)
  | .qCarm f => some (encodeTQ 8 11 f)
  | .qCtrig f => some (encodeTQ 8 12 f)
  | .qCstat f => some (encodeTQ 8 13 f)
  | .qHset f => some (encodeTQ 8 14 f)
  | .qOffer f => some (encodeTQ 8 15 f)
  | .qSrec f => some (encodeTQ 8 16 f)
  | .qWaitk f => some (encodeTQ 8 17 f)
  | .qKclr f => some (encodeTQ 8 18 f)
  | .pTrap f => some (encodePV 9 0 f)
  | .pEret f => some (encodePV 9 1 f)
  | .pCsrr f => some (encodePV 9 2 f)
  | .pCsrw f => some (encodePV 9 3 f)
  | .pCsrs f => some (encodePV 9 4 f)
  | .pCsrc f => some (encodePV 9 5 f)
  | .pTlbi f => some (encodeTQ 9 6 f)
  | .pCtxsv f => some (encodeTQ 9 7 f)
  | .pCtxld f => some (encodeTQ 9 8 f)
  | .pHalt f => some (encodeTQ 9 9 f)
  | .pPmt f => some (encodeTQ 9 10 f)
  | .monitorPowerCall _ => none
  | .monitorPageTableRootCall _ => none
  | .nextPrimaryChoice _ => none
  | .syncEpisodeResume _ => none
  | .syncTimeout _ => none
  | .watchdogExpiry _ => none
  | .streamingCommandCompletion _ => none
  | .logMatrixCommandStart _ => none
  | .operandFetchDone _ => none
  | .logMatrixCommandCompletion _ => none
  | .adcGroupCommandStart _ _ => none
  | .readLatencyExpiry _ _ => none
  | .arrayCommandCompletion _ _ => none
  | .operandBufferFillStart _ => none
  | .copyCompletion _ => none
  | .engineTranslationFault _ => none
  | .engineEventPost _ => none
  | .sortCompletion _ => none
  | .drainCompletion _ => none
  | .fenceCompletion _ => none
  | .tokenWaitCompletion _ => none
  | .tlbInvalidationCompletion _ => none
  | .remoteAccessAtTarget _ => none
  | .stageAcknowledgement _ => none
  | .remoteResponseArrival _ => none
  | .handlerArrival _ => none
  | .handlerQueueStart _ => none
  | .pipeSpaceFreed _ => none
  | .unitCompletion _ => none
  | .unitTransfer _ => none
  | .completionCountArrival _ => none
  | .imageDataLoad _ => none
  | .dispatchDecision _ => none
  | .syncLaunchDispatch _ => none
  | .stealClaim _ => none
  | .cancelArrival _ _ => none
  | .jobStart _ _ => none
  | .microBatchTokenArrival _ _ => none
  | .phaseStart _ => none
  | .phaseCompletion _ => none
  | .collectiveFiringStart _ => none
  | .collectiveFiringCompletion _ => none
  | .collectiveTransferArrival _ => none
  | .flitReception _ _ _ _ => none
  | .refusalReceipt _ _ _ _ => none
  | .acknowledgementTimer _ _ _ => none
  | .replayTimeout _ _ _ => none
  | .automaticBackOff _ _ => none
  | .laneRetirement _ _ _ _ => none
  | .linkRateWrite _ _ _ => none
  | .mailboxPop _ => none
  | .jobAddressWrite _ _ => none
  | .contextFreeze _ _ => none
  | .eventTake _ => none
  | .contextQuiescence _ => none
  | .replayInjection _ => none
  | .powerOn => none
  | .pcieFundamentalReset => none
  | .readIdentity => none
  | .attest => none
  | .challenge => none
  | .unlock => none
  | .relock => none
  | .enterRma => none
  | .provision => none
  | .createPartition => none
  | .destroyPartition => none
  | .reassignCluster => none
  | .setPairOwner => none
  | .powerRequest => none
  | .dieReset => none
  | .warmStart => none
  | .recoveryImage => none
  | .debugHalt => none
  | .debugStep => none
  | .debugResume => none
  | .traceOn => none
  | .traceOff => none
  | .debugFreeze => none
  | .uncorrectableError _ => none
  | .correctedError _ => none
  | .branchResolution _ => none
  | .linkRetrainCompletion _ _ _ => none
  | .flitTransmission _ _ _ => none
  | .returnToP0 _ _ => none
  | .hostCxlMemAccess _ _ _ _ _ => none

/-- The instruction the decoder reads from one table word (every word of this machine is 32 bits, R97). Bits above `nbits`
are zero. -/
def decodeTableWord (nbits w : Nat) : Option Instr :=
  match decodeWord (BitVec.ofNat 32 (w % 2 ^ nbits)) with
  | .ok i => some i
  | .error _ => none

end Sys2Proof
end

