-- ==== Sys2Proof/Machine/Bits.lean ====
section
/-! DEFINITION. Bit fields, sign extension, byte order and counting (R1, R151). -/

namespace Sys2Proof.Machine

/-- R151: the low `n` bits of `x`, sign-extended to 64 bits. -/
def sextLow (x : W64) (n : Nat) : W64 :=
  let m := x.toNat % 2 ^ n
  if n = 0 then 0 else if m < 2 ^ (n - 1) then BitVec.ofNat 64 m else BitVec.ofInt 64 ((m : Int) - 2 ^ n)

/-- The low `n` bits of `x`, zero-extended. -/
def zextLow (x : W64) (n : Nat) : W64 := BitVec.ofNat 64 (x.toNat % 2 ^ n)

/-- A field [hi:lo] of a number (R1). -/
def natField (x hi lo : Nat) : Nat := x / 2 ^ lo % 2 ^ (hi + 1 - lo)

/-- A signed reading of an `n`-bit number. -/
def toSigned (n x : Nat) : Int :=
  let m := x % 2 ^ n
  if n = 0 then 0 else if m < 2 ^ (n - 1) then m else (m : Int) - 2 ^ n

/-- Two's complement of an integer in `n` bits. -/
def fromSigned (n : Nat) (x : Int) : Nat := (x % (2 ^ n : Int)).toNat

/-- R1: the `n` little-endian bytes of a number. -/
def bytesOf : Nat → Nat → List Byte
  | 0, _ => []
  | n + 1, x => BitVec.ofNat 8 x :: bytesOf n (x / 256)

/-- R1: the number little-endian bytes hold. -/
def ofBytes : List Byte → Nat
  | [] => 0
  | b :: bs => b.toNat + 256 * ofBytes bs

/-- The number of significant bits: 0 for 0, else 1 + floor(log2). -/
def bitLen (n : Nat) : Nat := if n = 0 then 0 else n.log2 + 1

/-- R162: leading zero bits of the low `n` bits. -/
def clzLow (n : Nat) (x : Nat) : Nat := n - bitLen (x % 2 ^ n)

/-- R162: the number of 1 bits among the low `n`. -/
def popLow : Nat → Nat → Nat
  | 0, _ => 0
  | n + 1, x => x % 2 + popLow n (x / 2)

/-- Division rounding up. -/
def ceilDiv (a b : Nat) : Nat := (a + b - 1) / b

/-- The indices of the 1 bits among the low `n`, ascending. -/
def bitsSet (n x : Nat) : List Nat := (List.range n).filter (fun i => x.testBit i)

/-- The mask with the listed bits set. -/
def maskOf (is : List Nat) : Nat := is.foldl (fun m i => m ||| 2 ^ i) 0

/-- Element `i` of a list of numbers, or zero. -/
def nth0 (l : List Nat) (i : Nat) : Nat := l.getD i 0

/-- Split a list into chunks of `n`; `fuel` bounds their number. -/
def chunksOf {α : Type} (n : Nat) : Nat → List α → List (List α)
  | 0, _ => []
  | _, [] => []
  | fuel + 1, l => l.take n :: chunksOf n fuel (l.drop n)

/-- Clamp to an interval (R55). -/
def clampInt (x lo hi : Int) : Int := if x < lo then lo else if hi < x then hi else x

/-- Insert into a list sorted by a strict order, after equal elements. -/
def insertBy {α : Type} (lt : α → α → Bool) (x : α) : List α → List α
  | [] => [x]
  | y :: ys => if lt x y then x :: y :: ys else y :: insertBy lt x ys

/-- A stable insertion sort. -/
def sortBy {α : Type} (lt : α → α → Bool) (l : List α) : List α := l.foldl (fun acc x => insertBy lt x acc) []

end Sys2Proof.Machine
end

