-- ==== Sys2Proof/Machine/Map.lean ====
section
/-! DEFINITION. Sparse tables by number (registers, contexts, cores) and the byte store of the package. -/

namespace Sys2Proof.Machine

/-- A sparse table: entries sorted by key, one per key; a key not listed holds the table's default. -/
abbrev SMap (α : Type) := List (Nat × α)

/-- Read an entry; `d` is the default. -/
def look {α : Type} (d : α) : SMap α → Nat → α
  | [], _ => d
  | (j, v) :: m, k => if k = j then v else look d m k

/-- Is the key listed? -/
def has {α : Type} : SMap α → Nat → Bool
  | [], _ => false
  | (j, _) :: m, k => k == j || has m k

/-- Write an entry, keeping the keys sorted. -/
def put {α : Type} : SMap α → Nat → α → SMap α
  | [], k, v => [(k, v)]
  | (j, w) :: m, k, v => if k = j then (k, v) :: m else if k < j then (k, v) :: (j, w) :: m else (j, w) :: put m k v

/-- Remove an entry. -/
def drop1 {α : Type} : SMap α → Nat → SMap α
  | [], _ => []
  | (j, w) :: m, k => if k = j then m else (j, w) :: drop1 m k

/-- The keys strictly rise. -/
def sortedKeys {α : Type} : SMap α → Bool
  | [] => true
  | [_] => true
  | (i, _) :: (j, w) :: m => i < j && sortedKeys ((j, w) :: m)

/-- The store of the package: (address, byte) pairs, addresses strictly rising, no entry equal to `blankByte`. -/
abbrev Memory := List Host.Cell

/-- What an unlisted byte reads as. Scratchpad, accumulators and operand buffers are zeroed when a partition gets the core
(R346), at die reset (R416) and on leaving P3 (R412); for HBM and host memory the spec gives no contents at power-on.
DESIGN CHOICE (log 3), unsafe for HBM and host memory. -/
def blankByte : Byte := 0

/-- Read one byte. -/
def Memory.read (m : Memory) (a : Nat) : Byte := look blankByte m a

/-- Write one byte, keeping the canonical form. -/
def Memory.write (m : Memory) (a : Nat) (b : Byte) : Memory :=
  if b = blankByte then drop1 m a else put m a b

/-- No entry equals the blank byte. -/
def noBlank : Memory → Bool
  | [] => true
  | (_, b) :: m => b != blankByte && noBlank m

/-- The canonical form. -/
def Memory.wf (m : Memory) : Bool := sortedKeys m && noBlank m

/-- Read `n` bytes from `a` upward. -/
def Memory.readN (m : Memory) (a n : Nat) : List Byte := (List.range n).map (fun i => m.read (a + i))

/-- Write bytes from `a` upward. -/
def Memory.writeN (m : Memory) (a : Nat) : List Byte → Memory
  | [] => m
  | b :: bs => Memory.writeN (m.write a b) (a + 1) bs

/-- Write `n` blank bytes from `a` upward: the entries of the range are removed. -/
def Memory.clear (m : Memory) (a n : Nat) : Memory := m.filter (fun c => c.1 < a || a + n ≤ c.1)

/-- R1: a little-endian number of `n` bytes. -/
def Memory.num (m : Memory) (a n : Nat) : Nat := ofBytes (m.readN a n)

/-! ### The one key space of the store

Global scratchpad addresses (R68) are their own keys, below 2^32. Operand buffers (R73), HBM (R374), host memory (R374) and
the code spaces of images (R136) lie above, so that no two stores share a key. -/

/-- Key of byte `o` of operand buffer `n` of a core (R73). -/
def obKey (core n o : Nat) : Nat := 2 ^ 33 + core * 2 ^ 18 + n * 2 ^ 16 + o
/-- Key of an HBM physical byte (R374: below 2^40). -/
def hbmKey (pa : Nat) : Nat := 2 ^ 41 + pa
/-- Key of a host physical byte (R374: below 2^52). -/
def hostKey (pa : Nat) : Nat := 2 ^ 53 + pa
/-- Key of a byte of the code space of image `img` (R98, R136: below 2^32). What a file places higher lies in the code space of the next number: the
model's choice (log 94). -/
def codeKey (img o : Nat) : Nat := 2 ^ 54 + img * 2 ^ 32 + o

/-- R5, R163: die, cluster and core packed as in `.self` bits [15:7]. -/
def coreId (die cluster core : Nat) : Nat := die * 128 + cluster * 8 + core
/-- The die of a core. -/
def dieOf (core : Nat) : Nat := core / 128
/-- The cluster of a core within its die. -/
def clusterOf (core : Nat) : Nat := core / 8 % 16
/-- The core's number within its cluster. -/
def coreInCluster (core : Nat) : Nat := core % 8
/-- R9, R11: 4 dies, 12 clusters of 8 cores. -/
def coreExists (core : Nat) : Bool := core < 512 && clusterOf core < 12
/-- R68: the global scratchpad address of an offset on a core. -/
def gsaOf (core off : Nat) : Nat := core * 2 ^ 23 + off
/-- R68: the core a global scratchpad address names. -/
def gsaCore (a : Nat) : Nat := a / 2 ^ 23 % 512
/-- R68: the offset a global scratchpad address names. -/
def gsaOff (a : Nat) : Nat := a % 2 ^ 23
/-- The cores of the package, ascending in (die, cluster, core). -/
def allCores : List Nat := (List.range 512).filter coreExists
/-- The table key of a context: core and context number. -/
def ctxKey (core h : Nat) : Nat := core * 8 + h
/-- The core of a context key. -/
def keyCore (k : Nat) : Nat := k / 8
/-- The context number of a context key. -/
def keyCtx (k : Nat) : Nat := k % 8

end Sys2Proof.Machine
end

