-- ==== Sys2Proof/Machine/Num.lean ====
section
/-! DEFINITION. Exact values, rounding, and the scalar and record formats (R45 to R62, R64). -/

namespace Sys2Proof.Machine

/-- A value of the FP32 domain before rounding: NaN, an infinity, or (−1)^s · m · 2^e exactly, the zero keeping its sign. -/
inductive Fp where
  | nan
  | inf (s : Bool)
  | fin (s : Bool) (m : Nat) (e : Int)
deriving DecidableEq, Repr

/-- The flags of `csr.vstat` (R64): [4] nf, [3] of, [2] uf, [1] nx, [0] dz. -/
abbrev Flags := BitVec 5
/-- The OR of flags. -/
def orFlags (l : List Flags) : Flags := l.foldl (· ||| ·) 0

/-- R64 [4]. -/
def flagNf : Flags := 16
/-- R64 [3]. -/
def flagOf : Flags := 8
/-- R64 [2]. -/
def flagUf : Flags := 4
/-- R64 [1]. -/
def flagNx : Flags := 2
/-- R64 [0]. -/
def flagDz : Flags := 1

/-- The rounding modes of R61. -/
inductive Rnd where
  | rne | rz | rpi | rmi
deriving DecidableEq, Repr

/-- R61: the mode a `v.cvt` field names. -/
def rndOf (md : Nat) : Rnd := match md % 4 with
  | 0 => .rne
  | 1 => .rz
  | 2 => .rpi
  | _ => .rmi

/-- Does a magnitude with quotient `q`, remainder `r` of `d` round up in magnitude? -/
def roundsUp (md : Rnd) (s : Bool) (q r d : Nat) : Bool :=
  match md with
  | .rne => decide (d < 2 * r) || (decide (2 * r = d) && q % 2 == 1)
  | .rz => false
  | .rpi => !s && r != 0
  | .rmi => s && r != 0

/-- m · 2^k rounded to an integer, and whether that was inexact. -/
def roundScaled (md : Rnd) (s : Bool) (m : Nat) (k : Int) : Nat × Bool :=
  if 0 ≤ k then (m * 2 ^ k.toNat, false)
  else
    let d := 2 ^ (-k).toNat
    let q := m / d
    let r := m % d
    (if roundsUp md s q r d then q + 1 else q, r != 0)

/-- An IEEE-style format: exponent bits and fraction bits (R45). -/
structure Ieee where
  eb : Nat
  mb : Nat
deriving DecidableEq, Repr

/-- R45. -/
def ieee32 : Ieee := ⟨8, 23⟩
/-- R45. -/
def ieeeBf16 : Ieee := ⟨8, 7⟩
/-- R45. -/
def ieee16 : Ieee := ⟨5, 10⟩

/-- The exponent bias (R45). -/
def Ieee.bias (f : Ieee) : Int := 2 ^ (f.eb - 1) - 1
/-- The bits of the infinity with a sign. -/
def Ieee.infBits (f : Ieee) (s : Bool) : Nat := (if s then 2 ^ (f.eb + f.mb) else 0) + (2 ^ f.eb - 1) * 2 ^ f.mb
/-- R47: the canonical NaN is positive and quiet with every payload bit zero. -/
def Ieee.nanBits (f : Ieee) : Nat := (2 ^ f.eb - 1) * 2 ^ f.mb + 2 ^ (f.mb - 1)
/-- The largest finite magnitude. -/
def Ieee.maxBits (f : Ieee) : Nat := (2 ^ f.eb - 2) * 2 ^ f.mb + (2 ^ f.mb - 1)

/-- R45, R47: the exact value of IEEE bits. -/
def Ieee.decode (f : Ieee) (b : Nat) : Fp :=
  let s := b.testBit (f.eb + f.mb)
  let ex := b / 2 ^ f.mb % 2 ^ f.eb
  let fr := b % 2 ^ f.mb
  if ex = 2 ^ f.eb - 1 then (if fr = 0 then .inf s else .nan)
  else if ex = 0 then .fin s fr (1 - f.bias - f.mb)
  else .fin s (2 ^ f.mb + fr) (ex - f.bias - f.mb)

/-- R47, R61, R64: round an exact value to an IEEE format. Subnormals are kept, tininess is judged after rounding, overflow
follows the mode, and an infinity or NaN produced sets `nf`. -/
def Ieee.encode (f : Ieee) (md : Rnd) (v : Fp) : Nat × Flags :=
  match v with
  | .nan => (f.nanBits, flagNf)
  | .inf s => (f.infBits s, flagNf)
  | .fin s m e =>
    let sb := if s then 2 ^ (f.eb + f.mb) else 0
    if m = 0 then (sb, 0) else
    let top : Int := e + bitLen m - 1
    let emin : Int := 1 - f.bias
    let q : Int := (if top < emin then emin else top) - f.mb
    let (n, inx) := roundScaled md s m (e - q)
    let (n', _) := roundScaled md s m (e - (top - f.mb))
    -- the value rounded as if the exponent range were unbounded, compared with the smallest normal
    let tiny := decide (top + (if n' = 2 ^ (f.mb + 1) then 1 else 0) < emin)
    let mag : Nat := if n < 2 ^ f.mb then n else (q + f.mb + f.bias).toNat * 2 ^ f.mb + (n - 2 ^ f.mb)
    if f.maxBits < mag then
      let away := match md with
        | .rne => true
        | .rz => false
        | .rpi => !s
        | .rmi => s
      if away then (f.infBits s, flagOf ||| flagNx ||| flagNf) else (sb + f.maxBits, flagOf ||| flagNx)
    else (sb + mag, (if inx then flagNx else 0) ||| (if inx && tiny then flagUf else 0))

/-- R47. -/
def nan32 : W32 := 0x7FC00000

/-- Round to FP32 by RNE. -/
def f32Of (v : Fp) : Fp × Flags :=
  let (b, fl) := ieee32.encode .rne v
  (ieee32.decode b, fl)

/-- The FP32 bits of a value that is FP32 already, or its rounding. -/
def f32Bits (v : Fp) : W32 := BitVec.ofNat 32 (ieee32.encode .rne v).1

/-- The value of FP32 bits. -/
def f32Val (b : W32) : Fp := ieee32.decode b.toNat

/-! ### Exact arithmetic on values -/

/-- Is the value a NaN? -/
def Fp.isNan : Fp → Bool
  | .nan => true
  | _ => false
/-- NaN or infinite. -/
def Fp.nonFinite : Fp → Bool
  | .fin _ _ _ => false
  | _ => true
/-- ±0. -/
def Fp.isZero : Fp → Bool
  | .fin _ 0 _ => true
  | _ => false
/-- The sign bit; a NaN is positive (R47). -/
def Fp.sign : Fp → Bool
  | .nan => false
  | .inf s => s
  | .fin s _ _ => s
/-- An exact integer. -/
def Fp.ofInt (x : Int) : Fp := .fin (decide (x < 0)) x.natAbs 0
/-- +0. -/
def Fp.zero : Fp := .fin false 0 0
/-- The sign changed. -/
def Fp.neg : Fp → Fp
  | .nan => .nan
  | .inf s => .inf !s
  | .fin s m e => .fin (!s) m e
/-- The sign cleared. -/
def Fp.abs : Fp → Fp
  | .nan => .nan
  | .inf _ => .inf false
  | .fin _ m e => .fin false m e
/-- R64: consuming a NaN or an infinity sets `nf`. -/
def Fp.consume (v : Fp) : Flags := if v.nonFinite then flagNf else 0

/-- The signed significand at exponent `q ≤ e`. -/
def scaledInt (s : Bool) (m : Nat) (e q : Int) : Int :=
  let n : Int := (m * 2 ^ (e - q).toNat : Nat)
  if s then -n else n

/-- R47: a + b exactly; ∞ − ∞ is invalid, an exact zero sum of opposite signs is +0. -/
def Fp.add (a b : Fp) : Fp :=
  match a, b with
  | .nan, _ => .nan
  | _, .nan => .nan
  | .inf s, .inf t => if s = t then .inf s else .nan
  | .inf s, _ => .inf s
  | _, .inf t => .inf t
  | .fin s m e, .fin t n f =>
    if m = 0 ∧ n = 0 then .fin (s && t) 0 0
    else
      let q := min e f
      let r := scaledInt s m e q + scaledInt t n f q
      if r = 0 then .fin false 0 0 else .fin (decide (r < 0)) r.natAbs q

/-- R47: a · b exactly; 0 · ∞ is invalid. -/
def Fp.mul (a b : Fp) : Fp :=
  match a, b with
  | .nan, _ => .nan
  | _, .nan => .nan
  | .inf s, .inf t => .inf (s != t)
  | .inf s, .fin t n _ => if n = 0 then .nan else .inf (s != t)
  | .fin s m _, .inf t => if m = 0 then .nan else .inf (s != t)
  | .fin s m e, .fin t n f => .fin (s != t) (m * n) (e + f)

/-- a − b. -/
def Fp.sub (a b : Fp) : Fp := a.add b.neg

/-- A quotient of finite values with a sticky low bit: exact for every rounding to at most 64 bits. `b` is not zero. -/
def Fp.divSticky (a b : Fp) : Fp :=
  match a, b with
  | .fin s m e, .fin t n f =>
    let k := 80 + bitLen n
    let q := m * 2 ^ k / n
    let r := m * 2 ^ k % n
    .fin (s != t) (2 * q + (if r = 0 then 0 else 1)) (e - f - k - 1)
  | _, _ => .nan

/-- The integer square root by `fuel` bits, from the top. -/
def isqrtAux : Nat → Nat → Nat → Nat
  | 0, _, r => r
  | fuel + 1, n, r =>
    let c := r + 2 ^ fuel
    isqrtAux fuel n (if c * c ≤ n then c else r)

/-- floor(√n). -/
def isqrt (n : Nat) : Nat := isqrtAux (bitLen n / 2 + 1) n 0

/-- The square root of a finite value that is not negative, with a sticky low bit. -/
def Fp.sqrtSticky (a : Fp) : Fp :=
  match a with
  | .fin _ m e =>
    let k : Nat := if (e % 2 : Int) = 0 then 80 else 81
    let n := m * 2 ^ k
    let r := isqrt n
    .fin false (2 * r + (if r * r = n then 0 else 1)) ((e - k) / 2 - 1)
  | v => v

/-- Order of finite or infinite values with −0 below +0; `none` when one is NaN. -/
def Fp.cmp (a b : Fp) : Option Ordering :=
  match a, b with
  | .nan, _ => none
  | _, .nan => none
  | .inf s, .inf t => some (compare (if s then (0 : Nat) else 1) (if t then 0 else 1))
  | .inf s, _ => some (if s then .lt else .gt)
  | _, .inf t => some (if t then .gt else .lt)
  | .fin s m e, .fin t n f =>
    if m = 0 ∧ n = 0 then some (compare (if s then (0 : Nat) else 1) (if t then 0 else 1))
    else
      let q := min e f
      some (compare (scaledInt s m e q) (scaledInt t n f q))

/-- Numeric order in which −0 equals +0. -/
def Fp.cmpNum (a b : Fp) : Option Ordering := if a.isZero && b.isZero then some .eq else a.cmp b

/-- a < b with −0 below +0. -/
def Fp.lt (a b : Fp) : Bool := a.cmp b == some .lt

/-- R47, R220: the larger, NaN if either is NaN, −0 below +0. -/
def Fp.max (a b : Fp) : Fp := match a.cmp b with
  | none => .nan
  | some .lt => b
  | _ => a
/-- R47, R220: the smaller, NaN if either is NaN, −0 below +0. -/
def Fp.min (a b : Fp) : Fp := match a.cmp b with
  | none => .nan
  | some .gt => b
  | _ => a

/-- RNE to an integer (R55) of a finite value; zero otherwise. -/
def Fp.toIntRnd (md : Rnd) : Fp → Int
  | .fin s m e =>
    let (n, _) := roundScaled md s m e
    if s then -(n : Int) else n
  | _ => 0

/-! ### Format codes (R51) -/

/-- R51: element size of a region in bytes. -/
def eltSize (fmt : Nat) : Nat := match fmt with
  | 0 => 4
  | 1 => 2
  | 2 => 2
  | 3 => 4
  | 4 => 2
  | _ => 1
/-- I32, I16, I8, N8. -/
def isIntFmt (fmt : Nat) : Bool := 3 ≤ fmt && fmt ≤ 6
/-- F4, LG6 and I8 records. -/
def isRecFmt (fmt : Nat) : Bool := 7 ≤ fmt && fmt ≤ 9
/-- R51: a raw bank. -/
def isRawFmt (fmt : Nat) : Bool := fmt == 10
/-- R48: bytes of a record. -/
def recSize (fmt : Nat) : Nat := match fmt with
  | 7 => 17
  | 8 => 25
  | _ => 33
/-- Bits of an integer element. -/
def intBits (fmt : Nat) : Nat := 8 * eltSize fmt
/-- The range of an integer format (R45). -/
def intRange (fmt : Nat) : Int × Int :=
  if fmt = 6 then (0, 255) else (-(2 ^ (intBits fmt - 1)), 2 ^ (intBits fmt - 1) - 1)
/-- The value of the stored bits of an integer element. -/
def intVal (fmt b : Nat) : Int := if fmt = 6 then (b % 256 : Nat) else toSigned (intBits fmt) b
/-- The layout of an IEEE code. -/
def ieeeOf (fmt : Nat) : Ieee := match fmt with
  | 0 => ieee32
  | 1 => ieeeBf16
  | _ => ieee16

/-- R57: a scalar element as an FP32 value; an I32 element may round, which sets `nx`. -/
def decodeScalar (fmt b : Nat) : Fp × Flags :=
  if isIntFmt fmt then f32Of (Fp.ofInt (intVal fmt b)) else ((ieeeOf fmt).decode b, 0)

/-- R60, R63: saturate an exact integer to a format; `of` and `nx` where that changes it. -/
def satInt (fmt : Nat) (x : Int) : Nat × Flags :=
  let (lo, hi) := intRange fmt
  let y := clampInt x lo hi
  (fromSigned (intBits fmt) y, if y = x then 0 else flagOf ||| flagNx)

/-- R60, R61, R63: an exact value rounded once to a scalar format. -/
def encodeScalar (fmt : Nat) (md : Rnd) (v : Fp) : Nat × Flags :=
  if isIntFmt fmt then
    match v with
    | .nan => (0, flagNf)
    | .inf s => (fromSigned (intBits fmt) (if s then (intRange fmt).1 else (intRange fmt).2), flagNf ||| flagOf ||| flagNx)
    | .fin s m e =>
      let (n, inx) := roundScaled md s m e
      let (b, fl) := satInt fmt (if s then -(n : Int) else n)
      (b, fl ||| (if inx then flagNx else 0))
  else (ieeeOf fmt).encode md v

/-! ### Records -/

/-- R56: the log-table constants, as FP32 significands of 2^(f/4). -/
def logTable (f : Nat) : Nat := match f with
  | 0 => 0x800000
  | 1 => 0x9837F0
  | 2 => 0xB504F3
  | _ => 0xD744FD

/-- T[f] · 2^q, rounded only outside the normal range (R57). -/
def logValue (s : Bool) (f : Nat) (q : Int) : Fp × Flags := f32Of (.fin s (logTable f) (q - 23))

/-- R45, R46: the sign and LG6 code m of an element code of an F4 (7) or LG6 (8) record. -/
def logCode (fmt c : Nat) : Bool × Nat := if fmt = 7 then (c.testBit 3, 4 * (c % 8)) else (c.testBit 5, c % 32)

/-- R49, R57: element code `c` of a record with scale byte `S`. -/
def decodeCode (fmt S c : Nat) : Fp × Flags :=
  if S = 0 then (.zero, 0)
  else if S = 255 then (.nan, 0)
  else if fmt = 9 then
    let x := toSigned 8 c
    f32Of (.fin (decide (x < 0)) x.natAbs (S - 127))
  else
    let (s, m) := logCode fmt c
    if m = 0 then (.fin s 0 0, 0) else logValue s (m % 4) ((m : Int) / 4 - 4 + S - 127)

/-- R48: the 32 element codes of a record's bytes. -/
def recCodes (fmt : Nat) (bs : List Byte) : List Nat :=
  let n := ofBytes (bs.drop 1)
  let w := match fmt with
    | 7 => 4
    | 8 => 6
    | _ => 8
  (List.range 32).map (fun i => n / 2 ^ (w * i) % 2 ^ w)

/-- R48: a record's bytes from its scale byte and codes. -/
def recBytes (fmt S : Nat) (codes : List Nat) : List Byte :=
  let w := match fmt with
    | 7 => 4
    | 8 => 6
    | _ => 8
  let n := codes.foldr (fun c acc => c % 2 ^ w + 2 ^ w * acc) 0
  BitVec.ofNat 8 S :: bytesOf (recSize fmt - 1) n

/-- The scale byte of a record. -/
def recScale (bs : List Byte) : Nat := (bs.headD 0).toNat

/-- R49, R57: the 32 elements of a record. -/
def decodeRec (fmt : Nat) (bs : List Byte) : List (Fp × Flags) := (recCodes fmt bs).map (decodeCode fmt (recScale bs))

/-- floor(log2 M) of the largest magnitude; `none` when all are zero. -/
def topExp (xs : List Fp) : Option Int :=
  xs.foldl (fun acc x => match x with
    | .fin _ m e => if m = 0 then acc else
        let t : Int := e + bitLen m - 1
        match acc with
        | none => some t
        | some u => some (if u < t then t else u)
    | _ => acc) none

/-- R58: the scale byte for a block of exact values. -/
def chooseScale (fmt : Nat) (xs : List Fp) : Nat :=
  if xs.any Fp.nonFinite then 255 else
  match topExp xs with
  | none => 0
  | some t => (clampInt (t - (if fmt = 9 then 6 else 3) + 127) 1 254).toNat

/-- Compare m · 2^e with n. -/
def cmpScaled (m : Nat) (e : Int) (n : Nat) (f : Int) : Ordering :=
  let q := min e f
  compare (m * 2 ^ (e - q).toNat) (n * 2 ^ (f - q).toNat)

/-- floor(2^(1/4) · 2^n), by two integer square roots. -/
def quarterRoot (n : Nat) : Nat := isqrt (isqrt (2 * 2 ^ (4 * n)))

/-- R59: is m · 2^e (a dyadic rational in a band of one octave) below (2^(f/4) + 2^((f+1)/4))/2? No dyadic rational equals that
midpoint. With d fraction bits, 4·d + 24 bits of the irrational decide it: the two differ by more than that precision hides. -/
def belowMidpoint (m : Nat) (e : Int) (f : Nat) : Bool :=
  let d := (if e < 0 then (-e).toNat else 0)
  let n := 4 * d + 24
  let r := quarterRoot n
  let pw : Nat → Nat := fun k => match k with
    | 0 => 2 ^ n
    | 1 => r
    | 2 => r * r / 2 ^ n
    | 3 => r * r * r / 2 ^ (2 * n)
    | _ => 2 * 2 ^ n
  cmpScaled (2 * m) e (pw f + pw (f + 1)) (-(n : Int)) != .gt

/-- Is m · 2^e at or above 2^(f/4)? Exact, by fourth powers. -/
def reachesQuarter (m : Nat) (e : Int) (f : Nat) : Bool := cmpScaled (m ^ 4) (4 * e) (2 ^ f) 0 != .lt

/-- Does m · 2^e equal 2^(f/4)? -/
def isQuarter (m : Nat) (e : Int) (f : Nat) : Bool := cmpScaled (m ^ 4) (4 * e) (2 ^ f) 0 == .eq

/-- R58, R59: the LG6 code nearest to a magnitude, or the neighbour a directed mode of R61 names (`up`: away from zero). -/
def lg6Code (md : Option Bool) (m : Nat) (e : Int) : Nat :=
  let t : Int := e + bitLen m - 1                  -- magnitude in [2^t, 2^(t+1))
  if t < -5 then                                    -- below 2^-5, so below the lowest midpoint 2^-5·2^(1/4)
    (match md with
      | none => 0
      | some up => if up then 1 else 0)
  else
    let e' := e - t
    -- f: the largest quarter at or below the magnitude within its octave
    let f : Nat := if reachesQuarter m e' 3 then 3 else if reachesQuarter m e' 2 then 2 else if reachesQuarter m e' 1 then 1 else 0
    let below : Int := 4 * t + f + 16               -- code of the quarter at or below; at most 0 below 2^-3.75
    let exact := isQuarter m e' f
    let code : Int :=
      match md with
      | none =>
        if below ≤ 0 then
          -- between zero and 2^-3.75, whose midpoint is 2^-4.75
          (if belowFirst m e then 0 else 1)
        else if belowMidpoint m e' f then below else below + 1
      | some up => if below ≤ 0 then (if up then 1 else 0) else if up && !exact then below + 1 else below
    (clampInt code 0 31).toNat
where
  /-- Is the magnitude below 2^-3.75 / 2 = 2^-5 · 2^(1/4)? -/
  belowFirst (m : Nat) (e : Int) : Bool := !reachesQuarter m (e + 5) 1

/-- R58, R59: the F4 exponent field nearest to a magnitude, ties to even e; or the neighbour a directed mode names. -/
def f4Code (md : Option Bool) (m : Nat) (e : Int) : Nat :=
  let t : Int := e + bitLen m - 1
  let below : Int := t + 4                          -- e field of the power of two at or below
  let exact := cmpScaled m e 1 t == .eq
  let code : Int :=
    match md with
    | some up => if below ≤ 0 then (if up then 1 else 0) else if up && !exact then below + 1 else below
    | none =>
      if below ≤ 0 then
        -- against the midpoint 2^-4 between zero and 2^-3; the tie goes to zero
        (if cmpScaled m e 1 (-4) == .gt then 1 else 0)
      else match cmpScaled m e 3 (t - 1) with        -- midpoint 1.5 · 2^t
        | .lt => below
        | .gt => below + 1
        | .eq => if below % 2 = 0 then below else below + 1
  (clampInt code 0 7).toNat

/-- Does a directed mode move a magnitude with a sign away from zero? `none` for RNE. -/
def awayOf (md : Rnd) (s : Bool) : Option Bool := match md with
  | .rne => none
  | .rz => some false
  | .rpi => some !s
  | .rmi => some s

/-- R58, R61, R64: one element of a block with scale byte S (1 to 254): its code and flags. -/
def encodeCode (fmt : Nat) (md : Rnd) (S : Nat) (x : Fp) : Nat × Flags :=
  match x with
  | .fin s m e =>
    if m = 0 then (if fmt = 9 then 0 else if fmt = 7 then (if s then 8 else 0) else (if s then 32 else 0), 0) else
    let e' : Int := e - (S - 127)                    -- u = m · 2^e'
    if fmt = 9 then
      let (n, inx) := roundScaled md s m e'
      let n' := if 127 < n then 127 else n
      let big := cmpScaled m e' 128 0 != .lt
      (fromSigned 8 (if s then -(n' : Int) else n'),
        (if inx || n' != n then flagNx else 0) ||| (if big then flagOf ||| flagNx else 0) ||| (if n' = 0 then flagUf ||| flagNx else 0))
    else
      let code := if fmt = 7 then f4Code (awayOf md s) m e' else lg6Code (awayOf md s) m e'
      let exact := if fmt = 7 then code != 0 && cmpScaled m e' 1 ((code : Int) - 4) == .eq
        else code != 0 && isQuarter m (e' - ((code : Int) / 4 - 4)) (code % 4)
      let big := cmpScaled m e' 16 0 != .lt
      ((if s then (if fmt = 7 then 8 else 32) else 0) + code,
        (if exact then 0 else flagNx) ||| (if big then flagOf ||| flagNx else 0) ||| (if code = 0 then flagUf ||| flagNx else 0))
  | _ => (0, 0)

/-- R58, R63: a whole block of 32 exact values as a record; a non-finite block written sets `nf`. -/
def encodeRec (fmt : Nat) (md : Rnd) (xs : List Fp) : List Byte × Flags :=
  let S := chooseScale fmt xs
  if S = 255 then (recBytes fmt 255 (List.replicate 32 0), flagNf)
  else if S = 0 then (recBytes fmt 0 (List.replicate 32 0), 0)
  else
    let cs := xs.map (encodeCode fmt md S)
    (recBytes fmt S (cs.map Prod.fst), cs.foldl (fun fl c => fl ||| c.2) 0)

/-! ### Sums in the fixed order (R66) -/

/-- Adjacent pairs summed and rounded. -/
def pairSums : List Fp → List Fp × Flags
  | a :: b :: l =>
    let (v, fl) := f32Of (a.add b)
    let (r, fl') := pairSums l
    (v :: r, fl ||| fl' ||| a.consume ||| b.consume)
  | l => (l, 0)

/-- Six levels of the tree over 64 lanes. -/
def treeLevels : Nat → List Fp → Fp × Flags
  | 0, l => (l.headD .zero, 0)
  | n + 1, l =>
    let (r, fl) := pairSums l
    let (v, fl') := treeLevels n r
    (v, fl ||| fl')

/-- R66: one chunk, padded with −0 to 64 lanes. -/
def treeSum (l : List Fp) : Fp × Flags := treeLevels 6 (l ++ List.replicate (64 - l.length) (.fin true 0 0))

/-- R66: the chunks' sums added in order. -/
def reduceSum (es : List Fp) : Fp × Flags :=
  let cs := chunksOf 64 (es.length / 64 + 1) es
  match cs with
  | [] => (.zero, 0)
  | c :: rest => rest.foldl (fun acc d =>
      let (v, fl) := treeSum d
      let (w, fl') := f32Of (acc.1.add v)
      (w, acc.2 ||| fl ||| fl')) (treeSum c)

/-! ### The log product (R67) -/

/-- R67: the product of two log operands with codes (sign, m) and scale bytes. -/
def lgmul (a : Bool × Nat) (sa : Nat) (b : Bool × Nat) (sb : Nat) : Fp × Flags :=
  if sa = 255 ∨ sb = 255 then (.nan, flagNf)
  else
    -- an operand of a block with scale byte 0 is taken as +0
    let a := if sa = 0 then (false, 0) else a
    let b := if sb = 0 then (false, 0) else b
    if a.2 = 0 ∨ b.2 = 0 then (.fin (a.1 != b.1) 0 0, 0)
    else
      let t : Int := ((a.2 : Int) - 16) + ((b.2 : Int) - 16)
      logValue (a.1 != b.1) (t % 4).toNat (t / 4 + ((sa : Int) - 127) + ((sb : Int) - 127))

end Sys2Proof.Machine
end

