-- ==== Sys2Proof/Machine/State.lean ====
section
/-! DEFINITION. The state of the package as plain data, the reasons a step can stop, and the state after reset. -/

namespace Sys2Proof.Machine

/-! ### One hardware context -/

/-- A region descriptor (R211). -/
structure Desc where
  count : BitVec 16 := 0
  stride : BitVec 16 := 0
  base : BitVec 23 := 0
deriving DecidableEq, Repr

/-- A loop register (R167). -/
structure Loop where
  n : BitVec 32 := 0
  e : BitVec 32 := 0
  s : BitVec 32 := 0
  late : Bool := false
  inner : Bool := false
  armed : Bool := false
deriving DecidableEq, Repr

/-- Where a result in flight goes: a general register, a predicate, a region descriptor (R212), or only its latch. -/
inductive Dest where
  | g (n : Nat)
  | p (n : Nat)
  | d (n : Nat) (v : Desc)
  | none
deriving DecidableEq, Repr

/-- A result in flight (R115); of a frozen context, an entry of the replay buffer (R383). `prio` orders the status results of
one cycle in `b5` (R108): T 0, A 1, Q 2, P 3. `fl` are flags set with the result (R232). -/
structure Flight where
  rem : Nat
  dst : Dest
  latch : Option Nat
  val : W64
  prio : Nat := 0
  fl : Flags := 0
deriving DecidableEq, Repr

/-- The state of a context that a squash restores (R118): registers, predicates, latches, loops, descriptors, coin, flags, queue
heads, the program counter, and the results in flight. -/
structure Arch where
  pc : BitVec 32 := 0
  g : SMap W64 := []
  p : BitVec 8 := 1
  b : SMap W64 := []
  lc0 : Loop := {}
  lc1 : Loop := {}
  d : SMap Desc := []
  coin : W64 := 0
  vstat : Flags := 0
  q : SMap (List W64) := []
  flights : List Flight := []
deriving DecidableEq, Repr

/-- A token (R185, R186). -/
structure Token where
  cnt : Nat := 0
  part : Bool := false
  nres : Bool := false
  err : Bool := false
deriving DecidableEq, Repr

/-- What a remote access is (R178, R181, R182). -/
inductive MsgKind where
  | load
  | store
  | amo (af : Nat) (cmp : W64)
  | sth (handler : Nat)
deriving DecidableEq, Repr

/-- How far an access has come (R81): in the issuing core's request table, in the cluster egress, in the ring egress, past the
ring on its way to the target, or performed at the target with its response or acknowledgement returning. -/
inductive Stage where
  | table | cluster | ring | far | done
deriving DecidableEq, Repr

/-- A remote access, or a queue-returning local one (R179). `due` is the first cycle its next movement may happen in. `inc` is the
incarnation of the issuing die it carries (R315); `home` is false while it crosses links between dies; `cov` the writes its writer
had released before it (R87), each with the scope instance of the release; `ids` those its read returned; `dest` the context its result goes to;
`paid` an `m.sth` to the issuing core whose payload has performed and whose handler has not started (R85); `at_` the cycle its bundle issued in; `way` how it left
its die, 0 before it has (R303). -/
structure Msg where
  id : Nat
  core : Nat
  h : Nat
  kind : MsgKind
  addr : Nat
  size : Nat
  data : W64
  sx : Bool
  queue : Nat
  inc : Nat
  stage : Stage
  due : Nat
  val : W64 := 0
  ids : List Nat := []
  cov : List (Nat × Nat) := []
  home : Bool := true
  noHandler : Bool := false
  dest : Nat := 0
  widx : Nat := 0
  paid : Bool := false
  at_ : Nat := 0
  way : Nat := 0
  here : Option Nat := none
deriving DecidableEq, Repr

/-- What waits in the commit buffer for its branches (R118): a local store, a local atomic, an access not yet sent, a streaming
command, an engine or queue word with the value of its source, the records it sampled and its issue cycle, or a word whose change
of context state was made on schedule. A set `y` of the header waits too; it takes no entry. -/
inductive Held where
  | store (addr size : Nat) (data : W64)
  | access (m : Msg)
  | stream (id : Nat)
  | word (i : Instr) (val : W64) (recs : List (List Byte)) (sec : Bool) (at_ : Nat)
  | note
  | yield
deriving DecidableEq, Repr

/-- An unresolved branch (R116): cycles to its resolution, whether it was mispredicted, the state of the correct arm, and what
was issued after it and before the next branch (R118). -/
structure Snap where
  rem : Nat
  mis : Bool
  arch : Arch
  held : List Held := []
deriving DecidableEq, Repr

/-- A trap found: its row of R112, the word, the cause and the value of `csr.tval` (R379). -/
structure Trap where
  ord : Nat
  widx : Nat
  cause : Nat
  tval : W64
deriving DecidableEq, Repr

/-- What a context holds (R19, R30, R340, R357, R392). -/
inductive Role where
  | free | reserved | dormant | unit | handler | supervisor | loaded
deriving DecidableEq, Repr

/-- The unit a context runs, as its words can read it (R19, R163, R202). -/
structure Work where
  uid : Nat := 0
  launch : Nat := 0
  idx : Nat := 0
  tx : Nat := 0
  ty : Nat := 0
  tz : Nat := 0
  gx : Nat := 0
  gy : Nat := 0
  gz : Nat := 0
  role : Nat := 0
  oneCore : Bool := false
  gcores : List Nat := []
  img : Nat := 0
  resv : List Nat := []
  hset : Option Nat := none
  lines : List Nat := []
  pairMap : SMap Nat := []
  point : Nat := 0
deriving DecidableEq, Repr

/-- A `q.waitk` in progress (R187). -/
structure WaitK where
  mask : Nat
  any : Bool
  chk : Bool
  sec : Bool := false
deriving DecidableEq, Repr

/-- A `q.put` that holds the Q slot (R25, R198): the pipe, the entry, whether its bundle was a secondary (R23), its issue cycle. -/
structure PutW where
  pipe : Nat
  val : W64
  sec : Bool := false
  at_ : Nat := 0
deriving DecidableEq, Repr

/-- A drain or fence in progress (R189); `at_` is the cycle it issued in: accesses of earlier bundles are po-before it (R80). -/
structure DrainW where
  scope : Nat
  fence : Bool
  at_ : Nat := 0
deriving DecidableEq, Repr

/-- An event waiting for a supervisor (R377, R380): its class for the order of R380 (0 link, 1 engine, 2 context), when it arose,
the context concerned, and the frame registers it loads (R381). -/
structure PendEv where
  time : Nat
  cls : Nat
  core : Nat
  h : Nat
  cause : Nat
  widx : Nat
  src : Nat
  tval : W64
  tok : Nat := 0
  eidx : Nat := 0
  kind : Nat := 0
  part : Nat := 0
  cmd : Option Nat := none
deriving DecidableEq, Repr

/-- A breakpoint register (R382). -/
structure Brk where
  addr : BitVec 30 := 0
  en : Bool := false
deriving DecidableEq, Repr

/-- A hardware context. `later` is a trap to be taken before its next bundle; `wake` the cycles until its first bundle may issue (R359);
`eret` a `p.eret` that drains (R391); `why` who holds it frozen with cause 15: pre-emption, debug halt, power, supervisor fault; `heldFor`
the cycles its context time has stood still for a freeze that waits for branches (R383); `issued` one more than the cycle of its latest bundle;
`laterAt` the cycle in which `later` is to be taken; `rest` words of resolved bundles that wait for a drain, a fence, a token wait or a full pipe before
them in program order (R118); `seen` writes that its reads returned, each with the cycle the read issued in (R87). -/
structure Ctx where
  role : Role := .free
  frozen : Option Nat := none
  live : Arch := {}
  snaps : List Snap := []
  trapHold : Option Trap := none
  pend : Option PendEv := none
  tok : SMap Token := []
  waitk : Option WaitK := none
  drain : Option DrainW := none
  put : Option PutW := none
  pgq : Option (W64 × Nat) := none
  later : Option Trap := none
  wake : Nat := 0
  eret : Option Nat := none
  why : BitVec 4 := 0
  halted : Bool := false
  exiting : Bool := false
  seen : List (Nat × Nat) := []
  released : List (Nat × Nat) := []
  xpat : SMap Byte := []
  cpat : W64 := 0
  lcsv0 : Loop := {}
  lcsv1 : Loop := {}
  tcause : W64 := 0
  tpc : BitVec 32 := 0
  tval : W64 := 0
  tsrc : W64 := 0
  tselEn : Bool := false
  tselCtx : BitVec 3 := 0
  tvec : BitVec 32 := 0
  frame : Option PendEv := none
  wdog : BitVec 32 := 0
  brk : SMap Brk := []
  noBrk : Bool := false
  keepLatch : Bool := false
  ctime : Nat := 0
  lastY : Nat := 0
  pendSync : Option Nat := none
  syncTo : Option Nat := none
  dbgStep : Bool := false
  img : Nat := 0
  work : Option Work := none
  asg : Option Nat := none
  origin : Nat := 0
  pmtWait : List (Nat × Nat) := []
  freezeReq : Option (Nat × Nat) := none
  thaw : Bool := false
  heldFor : Nat := 0
  issued : Nat := 0
  laterAt : Nat := 0
  rest : List Held := []
deriving DecidableEq, Repr

/-! ### Engine commands -/

/-- One element write of a streaming command: bytes at a global scratchpad address, and the flags it raises (R65). -/
structure ElemW where
  addr : Nat
  bytes : List Byte
  fl : Flags := 0
deriving DecidableEq, Repr

/-- A sampled product (R273, R275): the A rows, the buffer and its format, the tile, the pattern, and the groups (buffer offset, first
row, rows). -/
structure Product where
  abase : Nat
  apitch : Nat
  afmt : Nat
  ncols : Nat
  kch : Nat
  ob : Nat
  bfmt : Nat
  z : Nat
  acc : Bool
  pat : W64
  groups : List (Nat × Nat × Nat)
  grouped : Bool
  fetched : Bool := false
deriving DecidableEq, Repr

/-- The tile moves of R277. -/
inductive TileOp where
  | ldb | zld | zst | zadd | zclr
deriving DecidableEq, Repr

/-- A sampled tile move (R277). -/
structure TileMove where
  op : TileOp
  z : Nat
  loc : Nat
  pitch : Nat
  mrows : Nat
  ncols : Nat
  fmt : Nat
deriving DecidableEq, Repr

/-- What one array entry does (R285 to R297). Offsets are local; scales are FP32 bits. -/
inductive ArrayOp where
  | read (bwd : Bool) (mode : Nat) (acc : Bool) (xin yout xpitch ypitch : Nat) (a b : W32)
  | upd (expl : Bool) (xin din xpitch dpitch : Nat) (rs cs : W32) (bl rmask cmask mpitch : Nat)
  | xfer (rst : Bool)
  | symw (loc : Nat)
  | symr (loc : Nat)
  | prog (sel fsrc ssrc : Nat)
  | ckpt (wt : Bool) (vaddr vpitch nlog : Nat)
  | seed (v : W64)
  | scl (aF aS beta : W32)
deriving DecidableEq, Repr

/-- How far an array entry is: queued (again, after a freeze), running, or ended. -/
inductive EntrySt where
  | queued | running | ended
deriving DecidableEq, Repr

/-- An entry of an array command on one ADC group (R282, R294): its pair, window, tokens, latency bound and issue cycle, the bank
formats it sampled (R53), cycles to its completion, steps done, and the outputs of the token in progress when already computed. -/
structure AEntry where
  grp : Nat
  pair : Nat
  row0 : Nat := 0
  col0 : Nat := 0
  nrows : Nat := 0
  ncols : Nat := 0
  ntok : Nat := 1
  toff : Nat := 0
  lbnd : Nat := 0
  issued : Nat := 0
  expired : Bool := false
  fmts : List Nat := []
  st : EntrySt := .queued
  rem : Nat := 0
  done : Nat := 0
  early : Option (List (List Byte)) := none
  op : ArrayOp
deriving DecidableEq, Repr

/-- A sampled copy record (R190). -/
structure CopyRec where
  sbase : W64
  dbase : W64
  mask : Nat
  useMask : Bool
  sspc : Nat
  dspc : Nat
  sfmt : Nat
  dfmt : Nat
  op : Nat
  tlen : Nat
  prio : Nat
  levels : List (Nat × Int × Int)
  fmts : SMap Nat := []
deriving DecidableEq, Repr

/-- A sampled sort record (R209). -/
structure SortRec where
  keys : Nat
  n : Nat
  ne : Nat
  kfmt : Nat
  pol : Nat
  cap : Nat
  alt : Nat
  cnts : Nat
  offs : Nat
  perm : Nat
  dmask : Nat
  stat : Nat
deriving DecidableEq, Repr

/-- A region as a command samples it (R53, R211): the store key of its base, its signed stride and its count in elements, its
format code. -/
structure Region where
  base : Nat := 0
  stride : Int := 0
  count : Nat := 0
  fmt : Nat := 0
deriving DecidableEq, Repr

/-- A streaming command (R214 to R217): its word, its regions, its scalar source, the coin it took (R242), the lane pattern it uses
(R238), whether it writes `b4`, how many cycles before its completion it samples its sources, and the `kwid` it sampled (R258). -/
structure VJob where
  word : Instr
  dd : Region := {}
  da : Region := {}
  db : Region := {}
  dc : Region := {}
  sv : W64 := 0
  coin : W64 := 0
  pat : List Byte := []
  b4 : Bool := false
  samp : Nat := 0
  kw : Nat := 0
deriving DecidableEq, Repr

/-- The commands that run outside the issue stage. A streaming command has a slot (V 0 to 2, F 3, X 4) and, once it has sampled its
sources, its `b4` value and its new lane pattern. -/
inductive CmdKind where
  | stream (slot : Nat) (job : VJob) (done : Option (W64 × List Byte))
  | product (p : Product)
  | move (m : TileMove)
  | array (es : List AEntry)
  | copy (r : CopyRec) (readers : List Nat)
  | sort (r : SortRec)
  | pgreq (va : W64)
  | tlbi (va : Option Nat)
  | ctxmove (load : Bool) (part core h : Nat) (va : Nat) (opt : Bool)
deriving DecidableEq, Repr

/-- Queued (also after a freeze stopped it) or running. -/
inductive CmdSt where
  | queued | running
deriving DecidableEq, Repr

/-- An engine command: who issued it, its token, its barrier token (R265), the cycle it entered its queue, cycles to its completion,
steps or elements done, the streaming commands it waits for (R217), the element writes and flags it has computed and will perform,
status it has met, the engine it runs on, its record as sampled, the virtual address of a translation fault it has met, and whether it is
discarded at its next step (R391). `stopped` says that a freeze has stopped it at an element (R384). `taken` are source elements a streaming or an array command read before they were written (R216, R284). -/
structure Cmd where
  id : Nat
  core : Nat
  h : Nat
  kind : CmdKind
  tok : Option Nat
  bar : Option Nat := none
  st : CmdSt := .queued
  born : Nat := 0
  rem : Nat := 0
  done : Nat := 0
  after : List Nat := []
  out : List ElemW := []
  taken : List ElemW := []
  flags : Flags := 0
  nres : Bool := false
  err : Bool := false
  eng : Nat := 0
  raw : List Byte := []
  held : Bool := false
  owned : Bool := true
  fault : Option Nat := none
  doomed : Bool := false
  stopped : Bool := false
deriving DecidableEq, Repr

/-! ### Cores, arrays -/

/-- An array pair (R279): levels, symmetry points, scales, the verification count and the time its age counts from (R298). -/
structure Pair where
  f : SMap Int := []
  s : SMap Int := []
  sigma : SMap Int := []
  aF : W32 := 0
  aS : W32 := 0
  beta : W32 := 0
  pvf : Nat := 0
  born : Nat := 0
deriving DecidableEq, Repr

/-- An ADC group (R281, R289): flags, the seed its lanes started from, the lanes that have advanced since, and the first cycle in which no scrub of the
monitor holds it (R347). -/
structure Adc where
  flags : BitVec 4 := 0
  seed : W64 := 0
  lanes : SMap W32 := []
  scrub : Nat := 0
deriving DecidableEq, Repr

/-- An arrival waiting for a dormant context (R31). -/
structure Arrival where
  pc : Nat
  off : Nat
  sender : Nat
deriving DecidableEq, Repr

/-- A core (R11). `offers` are the offers of its units in force, by context (R208); `claiming` the unit it claims in this cycle (R367); `loading` the image
whose data are being written and the first cycle in which that can be complete, `takes` the unit that waits for these data, the core that dispatches it and the image held before (R356);
`halted` says that a debug halt is in force (R413). -/
structure Core where
  primary : Nat := 0
  choosing : Bool := false
  fmt : SMap (BitVec 4) := []
  pairs : SMap Pair := []
  adc : SMap Adc := []
  obSeq : SMap W32 := []
  arrivals : List Arrival := []
  claim : Nat := 15
  claims : Nat := 0
  offers : SMap Nat := []
  claiming : Option Nat := none
  image : Option Nat := none
  loading : Option (Nat × Nat) := none
  takes : Option (Nat × Nat × Option Nat) := none
  halted : Bool := false
  trace : Option (Nat × Nat × Nat × Nat) := none
deriving DecidableEq, Repr

/-! ### Links -/

/-- A virtual channel of a link end (R306): what waits, what is unacknowledged, sequence numbers, what the receiver owes: a refusal (`gap` 1
owed, 2 sent) and acknowledgements, and the cycle in which each unacknowledged flit was last sent. -/
structure Vc where
  outq : List (Bool × Nat) := []
  resend : List (Nat × Bool × List Nat) := []
  unacked : List (Nat × Bool × List Nat) := []
  nseq : Nat := 0
  rseq : Nat := 0
  gap : Nat := 0
  toAck : Nat := 0
  ackAge : Nat := 0
  sent : SMap Nat := []
  turn : Bool := false
deriving DecidableEq, Repr

/-- A link end of a die (R312 to R314), with its modules' widths (0 retired, 1 half, 2 full), time to the end of retraining per
module and for the whole link, the back-off window, how far each module is toward its next flit slot, of 64 (R305), and the channel each module has sent
last (R306, R307). The other ends of the spokes are Causeway's, kept as ends 0 to 3 of die 4. -/
structure LinkEnd where
  abo : Bool := true
  rthr : BitVec 8 := 16
  rate : BitVec 3 := 2
  up : Bool := false
  widths : List Nat := []
  flits : Nat := 0
  crc : Nat := 0
  rply : Nat := 0
  tm : SMap Nat := []
  vcs : SMap Vc := []
  winFlits : Nat := 0
  winRply : Nat := 0
  train : Nat := 0
  modTrain : SMap Nat := []
  lostHalf : SMap Bool := []
  tmFrac : Nat := 0
  credit : SMap Nat := []
  last : SMap Nat := []
deriving DecidableEq, Repr

/-- A flit on its way over a link: the die and end that receive it, when, and whether its CRC will hold. -/
structure Flying where
  die : Nat
  link : Nat
  due : Nat
  flit : Flit
deriving DecidableEq, Repr

/-! ### The scheduling hardware -/

/-- A task descriptor (R139) with its ranges (R140), arrays and replica records (R142). -/
structure Task where
  entry : Nat := 0
  gx : Nat := 0
  gy : Nat := 0
  gz : Nat := 0
  ctx : Nat := 1
  flags : Nat := 0
  ranges : List (Nat × Nat × Nat × Nat) := []
  arrays : List (Nat × Nat × Nat) := []
  replicas : List (Nat × Nat × Nat) := []
deriving DecidableEq, Repr

/-- A gang record and its pipes (R141): producer and consumer roles, head. -/
structure Gang where
  ldr : Nat := 0
  cmp : Nat := 0
  sto : Nat := 0
  gx : Nat := 0
  gy : Nat := 0
  gz : Nat := 0
  plc : Nat := 0
  pipes : List (Nat × Nat × Nat) := []
deriving DecidableEq, Repr

/-- A loaded image (R136 to R142): code length, entry, bank formats, data and bss, tasks, gangs. -/
structure Image where
  codeLen : Nat := 0
  fmts : List Nat := []
  data : List (Nat × List Byte) := []
  bss : List (Nat × Nat) := []
  tasks : List Task := []
  gangs : List Gang := []
deriving DecidableEq, Repr

/-- A launch record as created (R200). -/
structure LaunchRec where
  task : Nat := 0
  gx : Nat := 0
  gy : Nat := 0
  gz : Nat := 0
  prio : Nat := 0
  lq : Nat := 0
  args : Nat := 0
  urec : Nat := 0
  sync : Option Nat := none
  eps : Nat := 0
  lagcyc : Nat := 0
  cseed : W64 := 0
  gang : Bool := false
  nosteal : Bool := false
  dies : Nat := 0
deriving DecidableEq, Repr

/-- A level of work above the unit and its completion record (R16, R17). `toks` are the tokens its completion signals; `fetch`, of a phase whose launch
records are being fetched (R365), the first cycle in which they can be there and their address. -/
structure Level where
  handle : Nat
  part : Nat
  img : Nat := 0
  parent : Nat := 0
  total : Nat := 0
  ncncl : Nat := 0
  ndone : Nat := 0
  pres : Bool := false
  err : Bool := false
  cncl : Bool := false
  toks : List (Nat × Nat) := []
  reported : Bool := false
  super : Bool := false
  doneAt : Nat := 0
  lrec : LaunchRec := {}
  deps : List Nat := []
  syncAt : Option Nat := none
  mb : Nat := 0
  phase : Nat := 0
  next : Nat := 0xFFFF
  nmb : Nat := 0
  cdone : Nat := 0
  ptab : Nat := 0
  prio : Nat := 0
  fetch : Option (Nat × Nat) := none
deriving DecidableEq, Repr

/-- The state of a unit in the scheduler's own copy (R201). -/
inductive UnitSt where
  | moving | queued | reserving | reserved | running | exited | counting | complete | cancelled
deriving DecidableEq, Repr

/-- A unit, or a gang grid point with its three routines (R24, R354): its launch, index, owner, state, and the contexts it got; when its owner or state
last changed, and the owner before that (R371); whether its reservation has all contexts it needs (R363). -/
structure Unit where
  uid : Nat
  launch : Nat
  idx : Nat
  owner : Nat
  st : UnitSt
  keys : List Nat := []
  open_ : List Nat := []
  err : Bool := false
  pres : Bool := false
  when_ : Nat := 0
  prev : Nat := 0
  claimed : Bool := false
  whole : Bool := false
deriving DecidableEq, Repr

/-- A phase start waiting in a die's token queue (R365): the micro-batch token. -/
abbrev MbToken := W64

/-- A micro-batch token on its way (R27): the number of its packet, the die that sent it, the die it stands at, the die of its phase, and how it left its
die (R303). -/
structure MbMove where
  id : Nat
  src : Nat
  at_ : Nat
  to_ : Nat
  tok : MbToken
  way : Nat := 0
deriving DecidableEq, Repr

/-- A packet of VC1 to VC3 on its way (R301): its number, its channel, whether it is a response, the die it left, the one it stands at, the one it is for
(Causeway is die 4), and how it left its die (R303). -/
structure Packet where
  id : Nat
  vc : Nat
  rsp : Bool
  src : Nat
  at_ : Nat
  to_ : Nat
  way : Nat := 0
deriving DecidableEq, Repr

/-- A named pipe of a placed gang (R25): the unit of its grid point, its index (R141), producer and consumer contexts by key, the
consumer's head, entries the producer placed whose release is not complete (value, cover), and the cycle in which the producer completed (R25). -/
structure Pipe where
  point : Nat
  index : Nat
  prod : Nat
  cons : Nat
  head : Nat
  wait : List (W64 × List Nat) := []
  prodDone : Bool := false
  doneAt : Nat := 0
  consDone : Bool := false
deriving DecidableEq, Repr

/-- A die (R11, R353): scheduler queues, engine events, link registers, incarnation. -/
structure Die where
  tokens : List MbToken := []
  rr : SMap Nat := []
  evq : List PendEv := []
  evwait : List PendEv := []
  evEn : Bool := false
  evClu : BitVec 4 := 0
  evCore : BitVec 3 := 0
  inc : BitVec 4 := 0
  stale : Nat := 0
  rloss : Nat := 0
  fwlvl : BitVec 8 := 0
  failed : Bool := false
  meas : List Byte := []
  tlb : List (Nat × Nat × Nat × Nat) := []
deriving DecidableEq, Repr

/-! ### Package -/

/-- A sync line (R33 to R37, R348); `resume` is the cycle in which a complete episode resumes, `first` that of an open episode's first arrival. -/
structure Line where
  launch : Option Nat := none
  members : List Nat := []
  arr : List (Nat × Bool × Nat) := []
  votes : Bool := false
  resume : Option Nat := none
  tmo : Nat := 0
  synto : BitVec 32 := 0
  lagcyc : Nat := 0
  eps : Nat := 0
  offs : SMap (List Nat) := []
  lag : SMap Nat := []
  lastOff : SMap Nat := []
  first : Option Nat := none
deriving DecidableEq, Repr

/-- A partition (R344, R345, R350, R403). -/
structure Part where
  live : Bool := false
  clusters : Nat := 0
  svm : BitVec 8 := 0
  lines : BitVec 16 := 0
  lnk : Bool := false
  engines : Nat := 0
  slots : Nat := 0
  ports : Nat := 0
  eps : List Nat := []
  hwbase : Nat := 0
  hwlen : Nat := 0
  ptroot : Nat := 0
  pchan : Nat := 0
  img : Nat := 0
  entry : Nat := 0
  faulted : Bool := false
  mbox : List W64 := []
  notices : List W64 := []
  dropped : Nat := 0
  ptr : SMap Nat := []
deriving DecidableEq, Repr

/-- A collective record as armed (R318) with its peer table (R319). -/
structure CollRec where
  sspc : Nat := 0
  cop : Nat := 0
  esz : Nat := 1
  rop : Nat := 0
  tlen : Nat := 0
  np : Nat := 1
  pc : Nat := 0
  levels : List (Nat × Int × Int × Int) := []
  sadv : Int := 0
  dadv : Int := 0
  thr : Nat := 1
  cap : Nat := 0
  pol : Nat := 0
  next : Option Nat := none
  rcnt : Option Nat := none
  rearm : Bool := false
  peers : List (Nat × Nat × Nat) := []
deriving DecidableEq, Repr

/-- A collective slot (R317). `state`: 0 idle, 1 armed, 2 firing. `frer` and `fdrops` are the counts of the firing in progress (R323), `trigs` the contexts
whose increment is to start the next firing, `sent` contexts with sends on their way to Causeway's egress and the cycle in which it acknowledges them
(R42). -/
structure Slot where
  state : Nat := 0
  part : Nat := 0
  die : Nat := 0
  crec : CollRec := {}
  sb : Int := 0
  db : Int := 0
  ctr : Nat := 0
  fired : Nat := 0
  partial_ : Bool := false
  rer : Nat := 0
  drops : Nat := 0
  fault : Nat := 0
  lastFault : Nat := 0
  err : Bool := false
  nres : Bool := false
  waitToks : List (Nat × Nat) := []
  toks : List (Nat × Nat) := []
  disarm : Bool := false
  frer : Nat := 0
  fdrops : Nat := 0
  trigs : List Nat := []
  sent : List (Nat × Nat) := []
deriving DecidableEq, Repr

/-- The monitor and Causeway's service block (R397 to R415). `ageFrom` is the end of stage 7 of the last cold start (R298); `waits` the service that waits
for accesses to end, and `noDispatch` the clusters to which dispatch has stopped for it (R346); `metaBase` the metadata base of each die, which a
cold start reads from the fuses (R376, R404). `calls` are the calls in the monitor's queue, oldest first: the caller and the number of the call (R401).
`idKey`, `idModulus` and `idExponent` are the identity key pair in the fuses (R409), `keyReg` the key registers: the secret key, or nothing, which is
zeros (R411). -/
structure Mon where
  stage : Nat := 1
  fail : Nat := Config.storedFail
  lc : Nat := Config.fusedLifecycle
  busy : Bool := false
  status : Nat := 0
  buf : Nat := 0
  len : Nat := 0
  seq : Nat := 0
  nonce : Option (List Byte) := none
  caps : Nat := 0
  frozen : Bool := false
  keyReg : List Byte := []
  idKey : List Byte := Config.idPrivate
  idModulus : List Byte := Config.idModulus
  idExponent : Nat := Config.idExponent.toNat
  keyKilled : Bool := false
  hashes : SMap (List Byte) := []
  flash : SMap (List Byte) := []
  corr : SMap Nat := []
  calls : List (Nat × Nat) := []
  ageFrom : Nat := 0
  waits : Option Nat := none
  noDispatch : Nat := 0
  metaBase : SMap Nat := []
deriving DecidableEq, Repr

/-- The bundle word in hand: the context and word, its slot among its class, the guard, the EXT payloads read for it, the bundle's
addresses, whether the bundle is a secondary, what its words found, its issue cycle, and the registers its words read: those of the cycle it
issues in (R152). -/
structure Iss where
  core : Nat := 0
  h : Nat := 0
  widx : Nat := 0
  slot : Nat := 0
  word : W32 := 0
  guard : Bool := true
  ext : List (BitVec 27) := []
  pc : BitVec 32 := 0
  next : BitVec 32 := 4
  sec : Bool := false
  trap : Option Trap := none
  xfs : List (Nat × Bool × Bool × BitVec 32) := []
  base : Option Arch := none
  dsets : List Nat := []
  when_ : Nat := 0
  src : Option Arch := none
deriving DecidableEq, Repr

/-- What a context save block names but does not spell out: the context and its commands as they were saved (R387). -/
structure Shelf where
  ctx : Ctx := {}
  cmds : List Cmd := []
deriving DecidableEq, Repr

/-- A write of the host to the service block (R397): the cycle in which it arrives, the offset in the block, the value. -/
structure HostWrite where
  at_ : Nat
  off : Nat
  val : Nat
deriving DecidableEq, Repr

/-- The package. `hostRegs` are writes of the host to the service block still to come. -/
structure State where
  now : Nat := 0
  mem : Memory := []
  tags : SMap (List (Nat × Nat)) := []
  msgs : List Msg := []
  cmds : List Cmd := []
  ctxs : SMap Ctx := []
  cores : SMap Core := []
  dies : SMap Die := []
  links : SMap LinkEnd := []
  flying : List Flying := []
  lines : SMap Line := []
  parts : SMap Part := []
  owners : SMap Nat := []
  slots : SMap Slot := []
  xfers : List CollTransfer := []
  images : SMap Image := []
  levels : SMap Level := []
  units : SMap Unit := []
  pipes : List Pipe := []
  cancels : List (Nat × Nat) := []
  mbs : List MbMove := []
  pkts : List Packet := []
  hostRegs : List HostWrite := []
  cwEvq : List PendEv := []
  cwEvwait : List PendEv := []
  power : SMap Nat := []
  waking : SMap Nat := []
  selfRef : SMap Bool := []
  saved : SMap Bool := []
  shelf : SMap Shelf := []
  mon : Mon := {}
  iss : Iss := {}
  inputs : List (Nat × Instr) := []
  agenda : List Instr := []
  turn : List Nat := []
  free : Nat := 0
  nextId : Nat := 0
deriving DecidableEq, Repr

/-- Why the machine stops with a fault. -/
inductive Fault where
  /-- An event of the table was put to the machine with an operand that names no part of the package (a die above 3, a link end
  above 2 of a die or above 3 of Causeway, a virtual channel above 3, a line above 15). Raised by the link, die, line and slot events. Safe: no such event can
  happen to the hardware. -/
  | noSuchAgent
deriving DecidableEq, Repr

/-- Why an instruction has no meaning. -/
inductive Refusal where
  /-- The instruction has no meaning in the model yet; raised by its arm of `exec` alone. Safe. -/
  | notModelled (mnemonic : String)
deriving DecidableEq, Repr

/-- The package right after reset: stage 1 of a cold start (R398, R404), no partition, every context free, every register at the
reset value its map gives; where the spec gives none, the values named in log entries 3, 4 and 5. -/
def State.reset : State := {}

end Sys2Proof.Machine
end

