-- ==== Sys2Proof/Machine/Ops.lean ====
section
/-! DEFINITION. Reading and writing the parts of the state; results in flight; taking a trap and returning from one. -/

namespace Sys2Proof.Machine

/-- The outcome of a meaning. -/
abbrev Out := Host.Outcome State Fault Refusal

/-! ### Parts of the state -/

/-- A context by its key. -/
def State.ctx (s : State) (k : Nat) : Ctx := look {} s.ctxs k
/-- Write a context. -/
def State.setCtx (s : State) (k : Nat) (c : Ctx) : State := { s with ctxs := put s.ctxs k c }
/-- Change a context. -/
def State.updCtx (s : State) (k : Nat) (f : Ctx → Ctx) : State := s.setCtx k (f (s.ctx k))
/-- A core by its number. -/
def State.core (s : State) (c : Nat) : Core := look {} s.cores c
/-- Write a core. -/
def State.setCore (s : State) (c : Nat) (x : Core) : State := { s with cores := put s.cores c x }
/-- Change a core. -/
def State.updCore (s : State) (c : Nat) (f : Core → Core) : State := s.setCore c (f (s.core c))
/-- A die by its number. -/
def State.die (s : State) (d : Nat) : Die := look {} s.dies d
/-- Change a die. -/
def State.updDie (s : State) (d : Nat) (f : Die → Die) : State := { s with dies := put s.dies d (f (s.die d)) }
/-- A link end: 3·die + end (R312). -/
def State.link (s : State) (d n : Nat) : LinkEnd := look {} s.links (3 * d + n)
/-- Change a link end. -/
def State.updLink (s : State) (d n : Nat) (f : LinkEnd → LinkEnd) : State :=
  { s with links := put s.links (3 * d + n) (f (s.link d n)) }
/-- A sync line. -/
def State.line (s : State) (l : Nat) : Line := look {} s.lines l
/-- Change a sync line. -/
def State.updLine (s : State) (l : Nat) (f : Line → Line) : State := { s with lines := put s.lines l (f (s.line l)) }
/-- A partition. -/
def State.part (s : State) (p : Nat) : Part := look {} s.parts p
/-- Change a partition. -/
def State.updPart (s : State) (p : Nat) (f : Part → Part) : State := { s with parts := put s.parts p (f (s.part p)) }
/-- A collective slot. -/
def State.slot (s : State) (n : Nat) : Slot := look {} s.slots n
/-- Change a collective slot. -/
def State.updSlot (s : State) (n : Nat) (f : Slot → Slot) : State := { s with slots := put s.slots n (f (s.slot n)) }
/-- A loaded image. -/
def State.image (s : State) (i : Nat) : Image := look {} s.images i
/-- A level by its handle, if it exists. -/
def State.level? (s : State) (h : Nat) : Option Level :=
  if has s.levels h then some (look { handle := 0, part := 0 } s.levels h) else none
/-- Change a level that exists. -/
def State.updLevel (s : State) (h : Nat) (f : Level → Level) : State :=
  match s.level? h with
  | some l => { s with levels := put s.levels h (f l) }
  | none => s
/-- A unit by its number, if it exists. -/
def State.unit? (s : State) (u : Nat) : Option Unit :=
  if has s.units u then some (look { uid := 0, launch := 0, idx := 0, owner := 0, st := .complete } s.units u) else none
/-- Change a unit that exists. -/
def State.updUnit (s : State) (u : Nat) (f : Unit → Unit) : State :=
  match s.unit? u with
  | some x => { s with units := put s.units u (f x) }
  | none => s
/-- A command by its number. -/
def State.cmd? (s : State) (id : Nat) : Option Cmd := s.cmds.find? (fun c => c.id == id)
/-- Change a command. -/
def State.updCmd (s : State) (id : Nat) (f : Cmd → Cmd) : State :=
  { s with cmds := s.cmds.map (fun c => if c.id = id then f c else c) }
/-- Remove a command. -/
def State.dropCmd (s : State) (id : Nat) : State := { s with cmds := s.cmds.filter (fun c => c.id != id) }
/-- A remote access by its number. -/
def State.msg? (s : State) (id : Nat) : Option Msg := s.msgs.find? (fun m => m.id == id)
/-- Change a remote access. -/
def State.updMsg (s : State) (id : Nat) (f : Msg → Msg) : State :=
  { s with msgs := s.msgs.map (fun m => if m.id = id then f m else m) }
/-- Remove a remote access. -/
def State.dropMsg (s : State) (id : Nat) : State := { s with msgs := s.msgs.filter (fun m => m.id != id) }

/-- A fresh identifier. -/
def State.freshId (s : State) : Nat × State := (s.nextId, { s with nextId := s.nextId + 1 })
/-- A free natural number (log 2). -/
def State.freeNat (s : State) : Nat × State := (Config.freeNat s.free, { s with free := s.free + 1 })
/-- A free choice (log 2). -/
def State.freeBit (s : State) : Bool × State := (Config.freeBit s.free, { s with free := s.free + 1 })

/-- The key of the context whose word is in hand. -/
def State.key (s : State) : Nat := ctxKey s.iss.core s.iss.h
/-- The context whose word is in hand. -/
def State.cur (s : State) : Ctx := s.ctx s.key
/-- Change the context whose word is in hand. -/
def State.updCur (s : State) (f : Ctx → Ctx) : State := s.updCtx s.key f
/-- Change its registers. -/
def State.updLive (s : State) (f : Arch → Arch) : State := s.updCur (fun c => { c with live := f c.live })

/-- Change the live registers and those every unresolved branch would restore: what a delivery does (R118). -/
def Ctx.mapArch (c : Ctx) (f : Arch → Arch) : Ctx :=
  { c with live := f c.live, snaps := c.snaps.map (fun x => { x with arch := f x.arch }) }

/-- R118: speculative while an earlier branch is unresolved. -/
def Ctx.speculative (c : Ctx) : Bool := !c.snaps.isEmpty

/-- R118: append to the commit buffer, behind the youngest branch. -/
def addHeld (h : Held) : List Snap → List Snap
  | [] => []
  | [x] => [{ x with held := x.held ++ [h] }]
  | x :: xs => x :: addHeld h xs

/-- R118: everything the commit buffer holds, oldest first. -/
def Ctx.held (c : Ctx) : List Held := c.snaps.flatMap (fun x => x.held)

/-- R118: each held word takes one entry; a held yield takes none. -/
def Ctx.heldCount (c : Ctx) : Nat := (c.held.filter (fun h => h != .yield)).length

/-- The part of the context's state that no squash can take back: what its oldest unresolved branch would restore. -/
def Ctx.oldest (c : Ctx) : Arch := match c.snaps with
  | [] => c.live
  | x :: _ => x.arch

/-! ### Registers -/

/-- R107: `g0` reads 0. -/
def Arch.readG (a : Arch) (n : Nat) : W64 := if n = 0 then 0 else look 0 a.g n
/-- Writes to `g0` are discarded. -/
def Arch.writeG (a : Arch) (n : Nat) (v : W64) : Arch := if n = 0 then a else { a with g := put a.g n v }
/-- R161: `p0` reads true. -/
def Arch.readP (a : Arch) (n : Nat) : Bool := n == 0 || a.p.getLsbD n
/-- R161: a write to `p0` is discarded. -/
def Arch.writeP (a : Arch) (n : Nat) (v : Bool) : Arch :=
  if n = 0 then a else
    { a with p := BitVec.ofNat 8 (if v then a.p.toNat ||| 2 ^ n else a.p.toNat &&& (255 - 2 ^ n)) }
/-- R166: the predicate byte, bit 0 always 1. -/
def Arch.predByte (a : Arch) : Nat := (a.p.toNat ||| 1) % 256
/-- R108. -/
def Arch.readB (a : Arch) (n : Nat) : W64 := look 0 a.b n
/-- R211. -/
def Arch.desc (a : Arch) (n : Nat) : Desc := look {} a.d n
/-- The entries of a queue head (R107). -/
def Arch.queue (a : Arch) (n : Nat) : List W64 := look [] a.q n
/-- Append an entry to a head. -/
def Arch.enqueue (a : Arch) (n : Nat) (v : W64) : Arch := { a with q := put a.q n (a.queue n ++ [v]) }
/-- R103: advance a head by one entry. -/
def Arch.pop (a : Arch) (n : Nat) : Arch := { a with q := put a.q n (a.queue n).tail }

/-- One result reaches its destination and its latch (R115, R108). -/
def Arch.deliver (a : Arch) (f : Flight) : Arch :=
  let a := match f.dst with
    | .g n => a.writeG n f.val
    | .p n => a.writeP n (f.val != 0)
    | .d n v => { a with d := put a.d n v }
    | .none => a
  let a := { a with vstat := a.vstat ||| f.fl }
  match f.latch with
  | some l => { a with b := put a.b l f.val }
  | none => a

/-- One cycle of context time: results due are delivered in issue order, the statuses of `b5` in the order of R108. -/
def Arch.tick (a : Arch) : Arch :=
  let dueNow := a.flights.filter (fun f => f.rem ≤ 1)
  let later := (a.flights.filter (fun f => 1 < f.rem)).map (fun f => { f with rem := f.rem - 1 })
  (sortBy (fun x y => decide (x.prio < y.prio)) dueNow).foldl Arch.deliver { a with flights := later }

/-- R115: would a result due in `lat` cycles collide with one in flight? -/
def Arch.collides (a : Arch) (dst : Dest) (lat : Nat) : Bool :=
  match dst with
  | .g n => n != 0 && a.flights.any (fun f => f.rem == lat && f.dst == .g n)
  | .p n => n != 0 && a.flights.any (fun f => f.rem == lat && f.dst == .p n)
  | _ => false

/-- R115: two scalar results due in `b4` in one cycle. A V scalar result travels with its command (R383). -/
def State.b4Busy (s : State) (lat : Nat) : Bool :=
  s.cur.live.flights.any (fun f => f.rem == lat && f.latch == some 4) ||
  s.cmds.any (fun c => c.core == s.iss.core && c.h == s.iss.h && c.rem == lat && match c.kind with
    | .stream _ job _ => job.b4
    | _ => false)

/-! ### Levels of privilege, partitions -/

/-- R344: the partition of a cluster, from the partition table. -/
def State.partOfCluster (s : State) (cl : Nat) : Option Nat :=
  (List.range 16).find? (fun p => (s.part p).live && (s.part p).clusters.testBit cl)
/-- 12·die + cluster of a core (R403). -/
def clusterIndex (core : Nat) : Nat := 12 * dieOf core + clusterOf core
/-- R344: the partition of a core. -/
def State.partOf (s : State) (core : Nat) : Option Nat := s.partOfCluster (clusterIndex core)
/-- R344: `csr.svmask`. -/
def State.svmask (s : State) (core : Nat) : Nat := match s.partOf core with
  | some p => (s.part p).svm.toNat
  | none => 0
/-- R340: is the context at supervisor level? -/
def State.isSuper (s : State) (k : Nat) : Bool := (s.ctx k).role == .supervisor
/-- R344, R347: the pairs of a core that its current partition owns. -/
def State.apown (s : State) (core : Nat) : Nat := match s.partOf core with
  | some p => maskOf ((List.range 32).filter (fun a => look 255 s.owners (core * 32 + a) == p))
  | none => 0
/-- R68, R345: may a context of `core` name core `t`? A core of no partition names only cores of none. -/
def State.sameParts (s : State) (core t : Nat) : Bool := s.partOf core == s.partOf t

/-- The supervisor contexts of a core, ascending. -/
def State.supersOf (s : State) (core : Nat) : List Nat :=
  ((List.range 8).map (ctxKey core)).filter (fun k => (s.ctx k).role == .supervisor)
/-- R377: the lowest supervisor context of a partition on a die. -/
def State.superOnDie (s : State) (p d : Nat) : Option Nat :=
  (s.ctxs.filter (fun e => e.2.role == .supervisor && dieOf (keyCore e.1) == d && s.partOf (keyCore e.1) == some p)).map
    Prod.fst |>.head?
/-- R380: the supervisor a context trap of `core` goes to. -/
def State.handlerOf (s : State) (core : Nat) : Option Nat :=
  match (s.supersOf core).head? with
  | some k => some k
  | none => match s.partOf core with
    | some p => s.superOnDie p (dieOf core)
    | none => none

/-! ### Freezing and resuming (R383, R386, R391) -/

/-- R237: does a command load the lane pattern? It moves with the time of its context alone. -/
def Cmd.loadsPattern (c : Cmd) : Bool := match c.kind with
  | .stream _ j _ => (match j.word with
    | .xLd _ => true
    | _ => false)
  | _ => false

/-- R383, R384: the V, F and X commands of a context that has stood still for `n` cycles before it freezes complete that much later. -/
def State.giveBack (s : State) (k n : Nat) : State :=
  if n = 0 then s else { s with cmds := s.cmds.map (fun c => if c.core = keyCore k ∧ c.h = keyCtx k then (match c.kind with
    | .stream _ _ _ => if c.loadsPattern then c else { c with rem := c.rem + n }
    | _ => c) else c) }

/-- R237, R386: a context that has stood still for `n` cycles does not freeze: its loads of the lane pattern make up for them. -/
def State.makeUp (s : State) (k n : Nat) : State :=
  if n = 0 then s else { s with cmds := s.cmds.map (fun c =>
    if c.core = keyCore k ∧ c.h = keyCtx k ∧ c.loadsPattern = true then { c with rem := c.rem - n } else c) }

/-- R20, R108, R383: the latches a context keeps when it freezes: they are zero when another context has become the primary. -/
def State.keptLatches (s : State) (k : Nat) : SMap W64 :=
  if (s.core (keyCore k)).primary = keyCtx k || (s.ctx k).keepLatch then (s.ctx k).live.b else []

/-- R167, R383: freeze a context with a cause. Its loops move to `csr.lcsv0` and `csr.lcsv1` and are disarmed; results in flight
stay with it as its replay buffer, for context time stops; its core chooses another primary (R20). A freeze asked for, or the end of a debug step, needs no
other one: who asked for it holds the context (`why`). -/
def State.freeze (s : State) (k cause : Nat) : State :=
  let s := s.giveBack k (s.ctx k).heldFor
  let s := s.updCtx k (fun c => { c with
    frozen := some cause, heldFor := 0, freezeReq := none, dbgStep := false, lcsv0 := c.live.lc0, lcsv1 := c.live.lc1,
    live := { c.live with b := s.keptLatches k, lc0 := { c.live.lc0 with armed := false }, lc1 := { c.live.lc1 with armed := false } } })
  s.updCore (keyCore k) (fun x => if x.primary = keyCtx k then { x with choosing := true } else x)

/-- R386, R391: the context goes on at its program counter; its loops are loaded unchanged and its latches are kept (R383). -/
def State.resume (s : State) (k : Nat) : State :=
  s.updCtx k (fun c => { c with
    frozen := none, keepLatch := true, live := { c.live with lc0 := c.lcsv0, lc1 := c.lcsv1 } })

/-- R383, R385, R402: freeze a context with cause 15 for a reason (0 pre-emption, 1 debug halt, 2 power, 3 supervisor fault): at its first
unissued bundle from cycle `due` on, once its branches have resolved. -/
def State.haltFor (s : State) (k reason due : Nat) : State :=
  let c := s.ctx k
  let s := s.updCtx k (fun c => { c with why := c.why ||| BitVec.ofNat 4 (2 ^ reason) })
  if c.frozen.isSome then s
  else s.updCtx k (fun c => { c with freezeReq := some (match c.freezeReq with
    | some (d, _) => min d due
    | none => due, 15) })

/-- R402: a supervisor fault freezes every context of the partition with cause 15 and marks the partition. -/
def State.supervisorFault (s : State) (k : Nat) : State :=
  match s.partOf (keyCore k) with
  | none => s.freeze k 15
  | some p =>
    let ks := (s.ctxs.filter (fun e => s.partOf (keyCore e.1) == some p && e.2.role != .free && !e.2.exiting)).map Prod.fst
    (ks.foldl (fun s k => s.haltFor k 3 (s.now + 1)) s).updPart p (fun x => { x with faulted := true })

/-- R380, R381: the event a context trap becomes. -/
def State.trapEvent (s : State) (k : Nat) (t : Trap) : PendEv :=
  { time := s.now, cls := 2, core := keyCore k, h := keyCtx k, cause := t.cause, widx := t.widx, src := 0, tval := t.tval,
    part := (s.partOf (keyCore k)).getD 0 }

/-- R401: a context calls the monitor: it is held at its bundle, with its registers as they are, and the call enters the monitor's queue. -/
def State.callMonitor (s : State) (k n : Nat) : State :=
  let s := (s.giveBack k (s.ctx k).heldFor).updCtx k (fun c => { c with frozen := some 8, heldFor := 0 })
  { (s.updCore (keyCore k) (fun x => if x.primary = keyCtx k then { x with choosing := true } else x)) with
    mon := { s.mon with calls := s.mon.calls ++ [(k, n)] } }

/-- R380, R401, R402: deliver a trap of a context that is not speculative. In a user context the context freezes at its bundle and
its event waits for the supervisor; `p.trap` 0x200 to 0x2FF of a supervisor is a monitor call; any other trap of a supervisor
is a supervisor fault. -/
def State.deliverTrap (s : State) (k : Nat) (t : Trap) : State :=
  if s.isSuper k then
    if t.cause = 8 ∧ 0x200 ≤ t.tval.toNat ∧ t.tval.toNat ≤ 0x2FF then s.callMonitor k (t.tval.toNat - 0x200)
    else s.supervisorFault k
  else (s.freeze k t.cause).updCtx k (fun c => { c with pend := some (s.trapEvent k t), syncTo := if t.cause = 11 then none else c.syncTo })

/-- Taking an exception at the bundle in hand (R112, R118): the bundle performs nothing and the program counter names it again. A
trap of a speculative bundle is held until its branches resolve. -/
def State.takeTrap (s : State) (t : Trap) : State :=
  let k := s.key
  let s := { s with iss := { s.iss with trap := some t } }
  let s := s.updLive (fun a => { a with pc := s.iss.pc })
  if (s.ctx k).speculative then s.updCtx k (fun c => { c with trapHold := some t }) else s.deliverTrap k t

/-- Raise a trap of row `ord` of R112 at the word in hand. -/
def State.raise (s : State) (ord cause : Nat) (tval : W64) : Out :=
  .next (s.takeTrap { ord := ord, widx := s.iss.widx, cause := cause, tval := tval })

/-- R379 code 1. -/
def causeIllegal : Nat := 1
/-- R379 code 2. -/
def causeBundle : Nat := 2
/-- R379 code 3. -/
def causeSchedule : Nat := 3
/-- R379 code 4. -/
def causeRegion : Nat := 4
/-- R379 code 5. -/
def causeAddress : Nat := 5
/-- R379 code 6. -/
def causeProtection : Nat := 6
/-- R379 code 7. -/
def causeTranslation : Nat := 7
/-- R379 code 8. -/
def causeUser : Nat := 8
/-- R379 code 9. -/
def causeBreak : Nat := 9
/-- R379 code 10. -/
def causeWatchdog : Nat := 10
/-- R379 code 11. -/
def causeSync : Nat := 11
/-- R379 code 12. -/
def causeToken : Nat := 12
/-- R379 code 13. -/
def causeHandler : Nat := 13
/-- R379 code 14. -/
def causeLink : Nat := 14

/-- Raise the illegal-instruction trap at issue with the word as `csr.tval` (R112 row 3, R379). -/
def State.illegal (s : State) : Out := s.raise 3 causeIllegal (s.iss.word.zeroExtend 64)

/-- R198, R390, R391: the illegal-instruction trap that a word names for what it finds at issue: the last row of R112, with the word as `csr.tval`. -/
def State.illegalHere (s : State) : Out := s.raise 6 causeIllegal (s.iss.word.zeroExtend 64)

/-! ### Results -/

/-- Put a result in flight (R115). A secondary bundle writes no latch (R23). -/
def State.pushFlight (s : State) (dst : Dest) (lat : Nat) (latch : Option Nat) (v : W64) (prio : Nat := 0) : State :=
  s.updLive (fun a => { a with flights := a.flights ++ [{ rem := lat, dst := dst, latch := if s.iss.sec then none else latch,
                                                          val := v, prio := prio }] })

/-- A word's result (R108, R115): in flight for its latency, unless it collides with one due in the same cycle, which raises the
illegal-schedule trap with the word's index (R112 row 5, R379). -/
def State.result (s : State) (dst : Dest) (lat : Nat) (latch : Option Nat) (v : W64) (prio : Nat := 0) : Out :=
  if s.cur.live.collides dst lat || (latch == some 4 && !s.iss.sec && s.b4Busy lat) then
    s.raise 5 causeSchedule (BitVec.ofNat 64 s.iss.widx)
  else .next (s.pushFlight dst lat latch v prio)

/-- A status in `b5`, two cycles after issue or release (R108, R115, R118). -/
def State.status (s : State) (prio : Nat) (v : W64) : State := s.pushFlight .none 2 (some 5) v prio

/-! ### Tokens (R185, R186) -/

/-- A token of a context. -/
def Ctx.token (c : Ctx) (k : Nat) : Token := look {} c.tok k
/-- R185: signalled while its count is 0. -/
def Token.signalled (t : Token) : Bool := t.cnt == 0
/-- R185: arm a token. -/
def State.armTok (s : State) (key k : Nat) : State :=
  s.updCtx key (fun c => { c with tok := put c.tok k { c.token k with cnt := (c.token k).cnt + 1 } })
/-- R185: a command that armed a token completes, with its status bits. -/
def State.endTok (s : State) (key k : Nat) (part nres err : Bool) : State :=
  s.updCtx key (fun c =>
    let t := c.token k
    { c with tok := put c.tok k { cnt := t.cnt - 1, part := t.part || part, nres := t.nres || nres, err := t.err || err } })
/-- Arm if `kw`. -/
def State.armIf (s : State) (key : Nat) (kw : Bool) (k : Nat) : State := if kw then s.armTok key k else s
/-- R184: a rejected word with `kw` arms its token, which is then signalled at once with `err`. -/
def State.rejectTok (s : State) (key : Nat) (kw : Bool) (k : Nat) : State :=
  if kw then (s.armTok key k).endTok key k false false true else s
/-- Signal the token of a command, if it has one. -/
def State.endCmdTok (s : State) (c : Cmd) (nres err : Bool) : State := match c.tok with
  | some k => s.endTok (ctxKey c.core c.h) k false nres err
  | none => s
/-- R186: the word `q.tokst` gives. -/
def Token.word (t : Token) : Nat :=
  t.cnt * 2 ^ 16 + (if t.part then 8 else 0) + (if t.nres then 4 else 0) + (if t.err then 2 else 0) + (if t.cnt = 0 then 1 else 0)

/-- The fields of a T, A or Q word. -/
def Instr.tq? (i : Instr) : Option TQ := match i with
  | .tMm f | .tMmg f | .tLdb f | .tZclr f | .tZld f | .tZst f | .tCop f | .tZadd f | .aFwd f | .aBwd f | .aUpd f
  | .aXfer f | .aSymw f | .aSymr f | .aProg f | .aCkpt f | .aGfwd f | .aGbwd f | .aGupd f | .aSeed f | .aScl f
  | .aStat f | .qCopy f | .qTokst f | .qDrain f | .qFence f | .qPut f | .qLaunch f | .qGlaunch f | .qCancel f
  | .qExit f | .qPgreq f | .qSortc f | .qCarm f | .qCtrig f | .qCstat f | .qHset f | .qOffer f | .qSrec f | .qWaitk f
  | .qKclr f => some f
  | _ => none

/-- R118: the T, A and Q words of a context that have issued and have not acted: held, or waiting behind one that waits. -/
def Ctx.unacted (c : Ctx) : List Instr := (c.rest ++ c.held).filterMap (fun h => match h with
  | .word i _ _ _ _ => some i
  | _ => none)

/-- R185, R118: the arms of a token that words make when they are released. -/
def Ctx.armsToCome (c : Ctx) (k : Nat) : Nat := (c.unacted.filter (fun i => match Sys2Proof.Machine.Instr.tq? i with
  | some f => f.kw && f.k.toNat == k
  | none => false)).length

/-- R185: an arm that would take the count above 65,535 raises the token-error trap; the arms of words not yet released count. -/
def State.tokFull (s : State) (kw : Bool) (k : Nat) : Bool := kw && 65535 ≤ (s.cur.token k).cnt + s.cur.armsToCome k

/-! ### Taking an event and returning from it (R380, R381, R391) -/

/-- R381: die, cluster and core packed as in `s.rdid.self` bits [15:7], at [15:7] of a register. -/
def dccBits (core : Nat) : Nat := core * 128

/-- R381: `csr.tcause`. -/
def PendEv.tcause (e : PendEv) : W64 := BitVec.ofNat 64 (e.widx * 2 ^ 24 + e.src * 2 ^ 16 + e.cause)
/-- R381: `csr.tsrc`. -/
def PendEv.tsrc (e : PendEv) : W64 :=
  BitVec.ofNat 64 (e.eidx * 2 ^ 32 + e.kind * 2 ^ 24 + e.tok * 2 ^ 16 + dccBits e.core + e.h * 16)

/-- R380: the supervisor takes an event: the frame registers are loaded, `csr.tsel` names the trapped context when it is on this
core, and the handler starts at `csr.tvec`. -/
def State.loadFrame (s : State) (k : Nat) (e : PendEv) : State :=
  let here := e.src = 0 ∧ e.core = keyCore k
  s.updCtx k (fun c => { c with
    frame := some e, halted := false, tcause := e.tcause, tval := e.tval, tsrc := e.tsrc,
    tpc := if e.src = 0 then (s.ctx (ctxKey e.core e.h)).live.pc else c.tpc,
    tselEn := decide here, tselCtx := if here then BitVec.ofNat 3 e.h else 0,
    live := { c.live with pc := c.tvec } })

/-- R391: a trapped context resumes at `csr.tpc`; its first bundle takes no breakpoint (R382). -/
def State.resumeAt (s : State) (k : Nat) (pc : BitVec 32) : State :=
  (s.resume k).updCtx k (fun c => { c with pend := none, noBrk := true, live := { c.live with pc := pc } })

end Sys2Proof.Machine
end

