-- ==== Sys2Proof/Machine/Operands.lean ====
section
/-! DEFINITION. Every operand form: six-bit sources, extended immediates, effective addresses, branch targets, record
addresses, descriptors. -/

namespace Sys2Proof.Machine

/-- R107: the operand a six-bit source field names. A queue head reads its oldest entry. -/
def Arch.source (a : Arch) (f : BitVec 6) : W64 :=
  let n := f.toNat
  if n < 32 then a.readG n
  else if n < 38 then a.readB (n - 32)
  else if 40 ≤ n ∧ n < 48 then (a.queue (n - 40)).headD 0
  else if n = 55 then BitVec.allOnes 64
  else if 48 ≤ n ∧ n < 55 then BitVec.ofNat 64 (2 ^ (n - 48))
  else 0

/-- R152, R103, R389: the registers the words of the bundle in hand read: as they were when it issued, before its header pops and its control
registers are written. -/
def State.srcs (s : State) : Arch := s.iss.src.getD s.cur.live

/-- R151: `value(f)` of the context whose word is in hand. -/
def State.value (s : State) (f : BitVec 6) : W64 := s.srcs.source f

/-- Does a six-bit source name a latch? -/
def readsLatch (f : BitVec 6) : Bool := 32 ≤ f.toNat && f.toNat ≤ 37
/-- The queue head a six-bit source names. -/
def headOf (f : BitVec 6) : Option Nat := if 40 ≤ f.toNat ∧ f.toNat ≤ 47 then some (f.toNat - 40) else none

/-- R109: the payloads of the EXT words, the later ones higher, over a field of `n` bits; the number and its width. -/
def extended (field n : Nat) : List (BitVec 27) → Nat × Nat
  | [] => (field, n)
  | p :: ps => extended (field + p.toNat * 2 ^ n) (n + 27) ps

/-- R109: the signed operand of an extendable field. -/
def extSigned (field n : Nat) (ps : List (BitVec 27)) : W64 :=
  let (v, w) := extended field n ps
  sextLow (BitVec.ofNat 64 v) w

/-- R109: the unsigned operand of an extendable field. -/
def extUnsigned (field n : Nat) (ps : List (BitVec 27)) : W64 := BitVec.ofNat 64 (extended field n ps).1

/-- R105: the access size of an MM word in bytes. -/
def accessBytes (f : MM) : Nat := 2 ^ f.sz.toNat

/-- R70, R109: the effective address of `m.ld`, `m.st`, `m.ldg` and `m.stg`. -/
def State.effAddr (s : State) (f : MM) : W64 :=
  s.value f.sa + extSigned f.off.toNat 5 s.iss.ext * BitVec.ofNat 64 (accessBytes f)

/-- R178: the address of `m.lda`: the index register is unsigned and scaled by the access size. -/
def State.indexAddr (s : State) (f : MM) : W64 := s.value f.sa + s.cur.live.readG f.off.toNat * BitVec.ofNat 64 (accessBytes f)

/-- R98: the packet that holds a word. -/
def packetOf (a : BitVec 32) : BitVec 32 := BitVec.ofNat 32 (a.toNat - a.toNat % 12)

/-- R117: the target of a taken `s.br` or `s.call`. -/
def branchTarget (pc : BitVec 32) (disp : BitVec 15) : BitVec 32 := packetOf pc + BitVec.ofInt 32 (12 * disp.toInt)

/-- R170: the return address: the smallest multiple of 12 at or after the word that follows the bundle. -/
def returnAddr (next : BitVec 32) : W64 := BitVec.ofNat 64 (ceilDiv next.toNat 12 * 12)

/-- R183, R109: the local offset of a record. -/
def State.recordAddr (s : State) (f : TQ) : W64 := s.value f.sp + extUnsigned 0 0 s.iss.ext

/-- R183: a record offset: bits [63:23] zero, below 0x400000, 8-byte aligned. -/
def recordAddrOk (a : W64) : Bool := a.toNat < 0x400000 && a.toNat % 8 == 0

/-- R211: a descriptor from its packed value. -/
def Desc.unpack (v : W64) : Desc :=
  { count := v.extractLsb' 39 16, stride := v.extractLsb' 23 16, base := v.extractLsb' 0 23 }
/-- R211: the packed value of a descriptor, reserved bits zero. -/
def Desc.pack (d : Desc) : W64 :=
  BitVec.ofNat 64 (d.count.toNat * 2 ^ 39 + d.stride.toNat * 2 ^ 23 + d.base.toNat)

/-- R167: the 128 bits of a loop register, as (bits [127:64], bits [63:0]). -/
def Loop.pack (l : Loop) : W64 × W64 :=
  (BitVec.ofNat 64 (l.n.toNat * 2 ^ 32 + l.e.toNat),
   BitVec.ofNat 64 (l.s.toNat * 2 ^ 32 + (if l.late then 4 else 0) + (if l.inner then 2 else 0) + (if l.armed then 1 else 0)))
/-- R167: the low half written. -/
def Loop.setLow (l : Loop) (v : W64) : Loop :=
  { l with s := v.extractLsb' 32 32, late := v.getLsbD 2, inner := v.getLsbD 1, armed := v.getLsbD 0 }
/-- R167: the high half written. -/
def Loop.setHigh (l : Loop) (v : W64) : Loop := { l with n := v.extractLsb' 32 32, e := v.extractLsb' 0 32 }

/-- R165: one step of the coin: its new state. -/
def coinStep (c : W64) : W64 :=
  let x := if c = 0 then 1 else c
  let x := x ^^^ (x <<< 13)
  let x := x ^^^ (x >>> 7)
  x ^^^ (x <<< 17)

/-- R165: the coin of the unit with linear index `i`. -/
def coinSeed (cseed : W64) (i : Nat) : W64 := cseed ^^^ BitVec.ofNat 64 ((i + 1) * 0xA3B195C47E2D6F19)

end Sys2Proof.Machine

namespace Sys2Proof

/-- The six-bit sources a word reads (R107). A field that must be 0 reads `g0`. -/
def Instr.sources (i : Instr) : List (BitVec 6) :=
  match i with
  | .sNop f | .sAdd f | .sSub f | .sMul f | .sMulh f | .sMulhu f | .sDiv f | .sDivu f | .sRem f | .sRemu f | .sAnd f
  | .sOr f | .sXor f | .sAndn f | .sShl f | .sShr f | .sSra f | .sMin f | .sMax f | .sMinu f | .sMaxu f | .sMov f
  | .sSel f | .sClz f | .sPopc f | .sBfx f | .sBfi f | .sSext f | .sJmp f | .sRet f | .sRdlc f | .sRdid f
  | .sRdtime f | .sRdcoin f | .sMfp f | .sMtp f => [f.sa, f.sb]
  | .sAddi f | .sAndi f | .sOri f | .sXori f | .sShli f | .sShri f | .sSrai f | .sLi f => [f.sa]
  | .sCmp f => [f.sa, f.sb]
  | .sCmpi f => [f.sa]
  | .sLoop f | .sLbrk f => [f.sn]
  | .mLd f | .mSt f | .mLdg f | .mStg f | .mSth f | .mAmo f | .mLda f => [f.sa]
  | .vDset f | .vDget f | .vScal f | .vAxpy f | .vFill f | .vShl f | .vShr f | .vIota f | .vRstat f | .vRscale f
  | .vSkinit f | .vSkqq f | .fExp f | .fLog f | .fExp2 f | .fLog2 f | .fRcp f | .fRsqrt f | .fSqrt f | .fTanh f
  | .fSigm f | .fGelu f | .fSilu f | .fSin f | .fCos f | .fErf f => [f.ss]
  | .tMm f | .tMmg f | .tLdb f | .tZclr f | .tZld f | .tZst f | .tCop f | .tZadd f | .aFwd f | .aBwd f | .aUpd f
  | .aXfer f | .aSymw f | .aSymr f | .aProg f | .aCkpt f | .aGfwd f | .aGbwd f | .aGupd f | .aSeed f | .aScl f
  | .aStat f | .qCopy f | .qTokst f | .qDrain f | .qFence f | .qPut f | .qLaunch f | .qGlaunch f | .qCancel f
  | .qExit f | .qPgreq f | .qSortc f | .qCarm f | .qCtrig f | .qCstat f | .qHset f | .qOffer f | .qSrec f | .qWaitk f
  | .qKclr f | .pTlbi f | .pCtxsv f | .pCtxld f | .pHalt f | .pPmt f => [f.sp]
  | .pCsrw f | .pCsrs f | .pCsrc f => [f.sa]
  | _ => []

/-- The guard bit of a word (R97); HDR, EXT and events have none. -/
def Instr.guarded (i : Instr) : Bool :=
  match i with
  | .sNop f | .sAdd f | .sSub f | .sMul f | .sMulh f | .sMulhu f | .sDiv f | .sDivu f | .sRem f | .sRemu f | .sAnd f
  | .sOr f | .sXor f | .sAndn f | .sShl f | .sShr f | .sSra f | .sMin f | .sMax f | .sMinu f | .sMaxu f | .sMov f
  | .sSel f | .sClz f | .sPopc f | .sBfx f | .sBfi f | .sSext f | .sJmp f | .sRet f | .sRdlc f | .sRdid f
  | .sRdtime f | .sRdcoin f | .sMfp f | .sMtp f => f.g
  | .sAddi f | .sAndi f | .sOri f | .sXori f | .sShli f | .sShri f | .sSrai f | .sLi f => f.g
  | .sCmp f | .sCmpi f | .sPlog f => f.g
  | .sBr f | .sCall f => f.g
  | .sLoop f | .sLbrk f => f.g
  | .mLd f | .mSt f | .mLdg f | .mStg f | .mSth f | .mAmo f | .mLda f => f.g
  | .vAdd f | .vSub f | .vMul f | .vFma f | .vMax f | .vMin f | .vAbs f | .vNeg f | .vCpy f | .vCvt f | .vCmp f
  | .vSel f | .vAnd f | .vOr f | .vXor f | .vClip f | .vGath f | .vScat f | .vPerm f | .vRsum f | .vRmax f | .vRmin f
  | .vRdot f | .vNfck f | .vPgen f | .vSkq f | .vSkh f | .vSkd f | .vSkm f | .vSkest f | .vSktop f | .xLd f | .xApp f
  | .xRot f | .xBc f | .xTr f | .xRev f => f.g
  | .vDset f | .vDget f | .vScal f | .vAxpy f | .vFill f | .vShl f | .vShr f | .vIota f | .vRstat f | .vRscale f
  | .vSkinit f | .vSkqq f | .fExp f | .fLog f | .fExp2 f | .fLog2 f | .fRcp f | .fRsqrt f | .fSqrt f | .fTanh f
  | .fSigm f | .fGelu f | .fSilu f | .fSin f | .fCos f | .fErf f => f.g
  | .tMm f | .tMmg f | .tLdb f | .tZclr f | .tZld f | .tZst f | .tCop f | .tZadd f | .aFwd f | .aBwd f | .aUpd f
  | .aXfer f | .aSymw f | .aSymr f | .aProg f | .aCkpt f | .aGfwd f | .aGbwd f | .aGupd f | .aSeed f | .aScl f
  | .aStat f | .qCopy f | .qTokst f | .qDrain f | .qFence f | .qPut f | .qLaunch f | .qGlaunch f | .qCancel f
  | .qExit f | .qPgreq f | .qSortc f | .qCarm f | .qCtrig f | .qCstat f | .qHset f | .qOffer f | .qSrec f | .qWaitk f
  | .qKclr f | .pTlbi f | .pCtxsv f | .pCtxld f | .pHalt f | .pPmt f => f.g
  | .pTrap f | .pEret f | .pCsrr f | .pCsrw f | .pCsrs f | .pCsrc f => f.g
  | _ => false

/-- The bits of the S, M and other classes (R97): the class code of a word; 16 for an event. -/
def Instr.cls (i : Instr) : Nat :=
  match i with
  | .hdr _ => 0
  | .ext _ => 10
  | .sNop _ | .sAdd _ | .sSub _ | .sMul _ | .sMulh _ | .sMulhu _ | .sDiv _ | .sDivu _ | .sRem _ | .sRemu _ | .sAnd _
  | .sOr _ | .sXor _ | .sAndn _ | .sShl _ | .sShr _ | .sSra _ | .sMin _ | .sMax _ | .sMinu _ | .sMaxu _ | .sAddi _
  | .sAndi _ | .sOri _ | .sXori _ | .sShli _ | .sShri _ | .sSrai _ | .sLi _ | .sMov _ | .sSel _ | .sCmp _ | .sCmpi _
  | .sPlog _ | .sClz _ | .sPopc _ | .sBfx _ | .sBfi _ | .sSext _ | .sBr _ | .sJmp _ | .sCall _ | .sRet _ | .sLoop _
  | .sLbrk _ | .sRdlc _ | .sRdid _ | .sRdtime _ | .sRdcoin _ | .sMfp _ | .sMtp _ => 1
  | .mLd _ | .mSt _ | .mLdg _ | .mStg _ | .mSth _ | .mAmo _ | .mLda _ => 2
  | .vDset _ | .vDget _ | .vAdd _ | .vSub _ | .vMul _ | .vFma _ | .vMax _ | .vMin _ | .vAbs _ | .vNeg _ | .vScal _
  | .vAxpy _ | .vFill _ | .vCpy _ | .vCvt _ | .vCmp _ | .vSel _ | .vAnd _ | .vOr _ | .vXor _ | .vShl _ | .vShr _
  | .vClip _ | .vIota _ | .vGath _ | .vScat _ | .vPerm _ | .vRsum _ | .vRmax _ | .vRmin _ | .vRdot _ | .vRstat _
  | .vNfck _ | .vPgen _ | .vRscale _ | .vSkinit _ | .vSkq _ | .vSkh _ | .vSkd _ | .vSkm _ | .vSkqq _ | .vSkest _
  | .vSktop _ => 3
  | .fExp _ | .fLog _ | .fExp2 _ | .fLog2 _ | .fRcp _ | .fRsqrt _ | .fSqrt _ | .fTanh _ | .fSigm _ | .fGelu _
  | .fSilu _ | .fSin _ | .fCos _ | .fErf _ => 4
  | .xLd _ | .xApp _ | .xRot _ | .xBc _ | .xTr _ | .xRev _ => 5
  | .tMm _ | .tMmg _ | .tLdb _ | .tZclr _ | .tZld _ | .tZst _ | .tCop _ | .tZadd _ => 6
  | .aFwd _ | .aBwd _ | .aUpd _ | .aXfer _ | .aSymw _ | .aSymr _ | .aProg _ | .aCkpt _ | .aGfwd _ | .aGbwd _
  | .aGupd _ | .aSeed _ | .aScl _ | .aStat _ => 7
  | .qCopy _ | .qTokst _ | .qDrain _ | .qFence _ | .qPut _ | .qLaunch _ | .qGlaunch _ | .qCancel _ | .qExit _
  | .qPgreq _ | .qSortc _ | .qCarm _ | .qCtrig _ | .qCstat _ | .qHset _ | .qOffer _ | .qSrec _ | .qWaitk _ | .qKclr _ => 8
  | .pTrap _ | .pEret _ | .pCsrr _ | .pCsrw _ | .pCsrs _ | .pCsrc _ | .pTlbi _ | .pCtxsv _ | .pCtxld _ | .pHalt _
  | .pPmt _ => 9
  | _ => 16

end Sys2Proof
end

