-- ==== Sys2Proof/Machine/Flags.lean ====
section
/-! DEFINITION. The bundle guard, predicate results, and the flags of `csr.vstat`. -/

namespace Sys2Proof.Machine

/-- R103: the guard a header names: p[gp] XOR gn; a bundle without a header has guard `p0`. -/
def Arch.guardOf (a : Arch) : Option HDR → Bool
  | some h => a.readP h.gp.toNat != h.gn
  | none => true

/-- R104: is a word with guard bit `g` annulled? -/
def State.annulled (s : State) (g : Bool) : Bool := g && !s.iss.guard

/-- R104, R106: the frame of a word's meaning. An illegal word raises the illegal-instruction trap; an annulled word does nothing. -/
def State.word (s : State) (legal g : Bool) (body : State → Out) : Out :=
  if !legal then s.illegal else if s.annulled g then .next s else body s

/-- R159, R160: a truth value as a result. -/
def boolWord (t : Bool) : W64 := if t then 1 else 0

/-- The slot latch of an S word (R108): `b0` from S0, `b1` from S1. -/
def State.sLatch (s : State) : Option Nat := some s.iss.slot
/-- The latch of a load (R108): `b2` from M0, `b3` from M1. -/
def State.mLatch (s : State) : Option Nat := some (2 + s.iss.slot)

/-- R152: an integer result of an S word: to `dst` unless `nw`, and to its latch. -/
def State.sResult (s : State) (dst : BitVec 5) (nw : Bool) (lat : Nat) (v : W64) : Out :=
  s.result (if nw then .none else .g dst.toNat) lat s.sLatch v

/-- R159, R160: a predicate result of an S word: to p[pd] and, as 1 or 0, to its latch. -/
def State.pResult (s : State) (pd : BitVec 3) (t : Bool) : Out := s.result (.p pd.toNat) 1 s.sLatch (boolWord t)

/-- R159: the conditions of `s.cmp` on two values of `n` bits. -/
def condHolds (cond n : Nat) (a b : W64) : Bool :=
  let x := toSigned n a.toNat
  let y := toSigned n b.toNat
  let u := a.toNat % 2 ^ n
  let v := b.toNat % 2 ^ n
  match cond with
  | 0 => u == v
  | 1 => u != v
  | 2 => decide (x < y)
  | 3 => decide (y ≤ x)
  | 4 => decide (u < v)
  | 5 => decide (v ≤ u)
  | 6 => u &&& v != 0
  | _ => u &&& v == 0

/-- R160: the operations of `s.plog`. -/
def plogOp (cond : Nat) (a b : Bool) : Bool := match cond with
  | 0 => a && b
  | 1 => a || b
  | 2 => a != b
  | 3 => a && !b
  | 4 => a || !b
  | 5 => !(a && b)
  | 6 => !(a || b)
  | _ => a == b

/-- R65: flags set in `csr.vstat` of a context, live and in what a squash would restore. -/
def Ctx.setFlags (c : Ctx) (fl : Flags) : Ctx := c.mapArch (fun a => { a with vstat := a.vstat ||| fl })

/-- R228: the flags a mask clears. -/
def clearFlags (v : Flags) (mask : W64) : Flags := v &&& ~~~(mask.extractLsb' 0 5)

end Sys2Proof.Machine
end

