-- ==== Sys2Proof/Machine/Access.lean ====
section
/-! DEFINITION. Accesses to the stores: checks of an address, the core window, loads and stores beside streaming commands,
remote accesses and their stages (R68 to R91, R178 to R182). -/

namespace Sys2Proof.Machine

/-! ### Elements still to be written by commands (R91, R215, R216) -/

/-- Do two byte intervals meet? -/
def overlaps (a n b m : Nat) : Bool := decide (a < b + m) && decide (b < a + n)

/-- Perform the first `p` of the element writes that a test picks: what is left, the store, and the flags they raise (R65). -/
def applyPrefix (hit : ElemW → Bool) : List ElemW → Nat → Memory → List ElemW × Memory × Flags
  | [], _, m => ([], m, 0)
  | w :: ws, p, m =>
    if hit w then
      match p with
      | 0 => (w :: ws, m, 0)
      | p + 1 =>
        let (r, m', fl) := applyPrefix hit ws p (m.writeN w.addr w.bytes)
        (r, m', fl ||| w.fl)
    else
      let (r, m', fl) := applyPrefix hit ws p m
      (w :: r, m', fl)

/-- R215: is a command one of those whose elements are performed in order? -/
def Cmd.isStream (c : Cmd) : Bool := match c.kind with
  | .stream _ _ _ => true
  | _ => false

/-- R65: a command after some of its element writes, with flags `fl`, have performed: what is left to write, and the flags still to set. A streaming
command counts the writes it has done (R384). -/
def Cmd.after65 (c : Cmd) (left : List ElemW) (fl : Flags) : Cmd :=
  { c with
    out := left, flags := left.foldl (fun f w => f ||| w.fl) (c.flags &&& ~~~fl),
    done := if c.isStream then c.done + (c.out.length - left.length) else c.done }

/-- R384: do the element writes of a command stand still with its context? -/
def State.standing (s : State) (c : Cmd) : Bool := c.stopped && (s.ctx (ctxKey c.core c.h)).frozen.isSome

/-- The pending writes of a command that an access to [a, a + n) may find performed: none unless one meets it; all of a streaming command, for it
performs them in element order (R215); of others those that meet it. -/
def Cmd.meets (c : Cmd) (a n : Nat) : List ElemW :=
  let hit := fun (w : ElemW) => overlaps a n w.addr w.bytes.length
  if c.held || !c.out.any hit then [] else c.out.filter (fun w => c.isStream || hit w)

/-- One command's pending writes meet an access: a free number of them, in element order, has been performed by now. The last part lists the
contexts with the flags set. -/
def State.touchCmd (s : State) (a n : Nat) (acc : List Cmd × Memory × Nat × List (Nat × Flags)) (c : Cmd) :
    List Cmd × Memory × Nat × List (Nat × Flags) :=
  let (cs, m, fr, fls) := acc
  let ws := c.meets a n
  if ws.isEmpty || s.standing c then (cs ++ [c], m, fr, fls)
  else
    let (r, m', fl) := applyPrefix (fun w => c.isStream || overlaps a n w.addr w.bytes.length) c.out (Config.freeNat fr % (ws.length + 1)) m
    (cs ++ [c.after65 r fl], m', fr + 1, fls ++ [(ctxKey c.core c.h, fl)])

/-- Set flags in the contexts named (R65). -/
def State.raiseFlags (s : State) (fls : List (Nat × Flags)) : State :=
  fls.foldl (fun s x => if x.2 = 0 then s else s.updCtx x.1 (fun c => c.setFlags x.2)) s

/-! ### Source elements a command still reads (R216, R284) -/

/-- R211: the store key of element `k`. -/
def Region.elem (r : Region) (esz k : Nat) : Nat := ((r.base : Int) + k * r.stride * esz).toNat
/-- The bytes a region spans: its lowest key and a length. -/
def Region.span (r : Region) : Nat × Nat :=
  if isRecFmt r.fmt then (r.base, r.count / 32 * recSize r.fmt)
  else
    let esz := eltSize r.fmt
    let last := r.elem esz (r.count - 1)
    if r.count = 0 then (r.base, 0) else (min r.base last, max r.base last + esz - min r.base last)
/-- The elements of a region that meet [a, a + n): a key and a length each; a record is one. -/
def Region.unitsIn (r : Region) (a n : Nat) : List (Nat × Nat) :=
  if !overlaps a n r.span.1 r.span.2 then []
  else if isRecFmt r.fmt then
    ((List.range (r.count / 32)).map (fun i => (r.base + i * recSize r.fmt, recSize r.fmt))).filter (fun u => overlaps a n u.1 u.2)
  else ((List.range r.count).map (fun k => (r.elem (eltSize r.fmt) k, eltSize r.fmt))).filter (fun u => overlaps a n u.1 u.2)

/-- Bytes of `count` contiguous elements. -/
def plainBytes (fmt count : Nat) : Nat := if isRecFmt fmt then count / 32 * recSize fmt else count * eltSize fmt

/-- The bytes of an element, of a record in a block format. -/
def inputUnit (fmt : Nat) : Nat := if isRecFmt fmt then recSize fmt else eltSize fmt

/-- A sampled bank format. -/
def bankFmt (fmts : List Nat) (off : Nat) : Nat := nth0 fmts (off / 0x40000)

/-- Steps of an entry and the cycles of each. -/
def AEntry.steps (e : AEntry) : Nat × Nat := match e.op with
  | .read _ _ _ _ _ _ _ _ _ => (e.ntok, 80)
  | .upd _ _ _ _ _ _ _ bl _ _ _ => (e.ntok, 20 * bl)
  | .xfer _ => (e.ncols, 20)
  | .symw _ => (1, ceilDiv e.ncols 64)
  | .symr _ => (1, ceilDiv e.ncols 64)
  | .prog _ _ _ => (e.nrows, 2000)
  | .ckpt wt _ _ nlog => (e.nrows, (if wt then 80 else 160) * 2 ^ nlog)
  | .seed _ => (1, 16)
  | .scl _ _ _ => (1, 4)

/-- R284, R287, R289, R291: the input regions of step `t`: local offset, bytes, and the bytes of an element (of a record in a block format). -/
def AEntry.inputs (e : AEntry) (t : Nat) : List (Nat × Nat × Nat) :=
  let tk := e.toff + t
  let reg := fun off n => (off, plainBytes (bankFmt e.fmts off) n, inputUnit (bankFmt e.fmts off))
  match e.op with
  | .read bwd _ _ xin _ xp _ _ _ => [reg (xin + tk * xp) (if bwd then e.ncols else e.nrows)]
  | .upd expl xin din xp dp _ _ bl rm cm mp =>
    [reg (xin + tk * xp) e.nrows, reg (din + tk * dp) e.ncols] ++
      (if expl then [(rm + tk * mp, ceilDiv bl 8 * e.nrows, 1), (cm + tk * mp, ceilDiv bl 8 * e.ncols, 1)] else [])
  | .symw loc => [(loc, e.ncols, 1)]
  | .prog sel fsrc ssrc =>
    (if sel % 2 = 1 then [(fsrc + t * e.ncols, e.ncols, 1)] else []) ++
      (if 2 ≤ sel then [(ssrc + 2 * t * e.ncols, 2 * e.ncols, 2)] else [])
  | _ => []

/-- R287: the old outputs that step `t` of an accumulating read adds to, as a region. -/
def AEntry.olds (e : AEntry) (t : Nat) : List (Nat × Nat × Nat) := match e.op with
  | .read bwd _ true _ yout _ yp _ _ =>
    let fmt := bankFmt e.fmts (yout + (e.toff + t) * yp)
    [(yout + (e.toff + t) * yp, plainBytes fmt (if bwd then e.nrows else e.ncols), inputUnit fmt)]
  | _ => []

/-- R284: the elements in [a, a + n) that a running entry may still have to read: of the steps that have not sampled, and the old outputs of its step. -/
def AEntry.unread (e : AEntry) (core a n : Nat) : List (Nat × Nat) :=
  if e.st != .running ∨ e.steps.1 ≤ e.done then [] else
  let from' := if e.early.isSome then e.done + 1 else e.done
  let regs := ((List.range (e.steps.1 - from')).flatMap (fun i => e.inputs (from' + i))) ++ e.olds e.done
  (regs.filter (fun r => overlaps a n (gsaOf core r.1) r.2.1)).flatMap (fun r =>
    ((List.range (r.2.1 / r.2.2)).map (fun i => (gsaOf core (r.1 + i * r.2.2), r.2.2))).filter (fun u => overlaps a n u.1 u.2))

/-- R216, R284: the elements in [a, a + n) that a streaming command, or an array command that runs, has not read yet. -/
def Cmd.unread (c : Cmd) (a n : Nat) : List (Nat × Nat) := match c.kind with
  | .stream _ j none => (([j.dd, j.da, j.db, j.dc].flatMap (fun r => r.unitsIn a n)).eraseDups).filter
      (fun u => !c.taken.any (fun w => w.addr == u.1 && w.bytes.length == u.2))
  | .array es => ((es.flatMap (fun e => e.unread c.core a n)).eraseDups).filter
      (fun u => !c.taken.any (fun w => w.addr == u.1 && w.bytes.length == u.2))
  | _ => []

/-! ### Atomics (R181) -/

/-- R181: the new value at the location. -/
def amoValue (af size : Nat) (old v cmp : W64) : W64 :=
  let n := 8 * size
  let o := toSigned n old.toNat
  let x := toSigned n v.toNat
  match af with
  | 0 => old + v
  | 1 => if x < o then v else old
  | 2 => if o < x then v else old
  | 3 => old &&& v
  | 4 => old ||| v
  | 5 => old ^^^ v
  | 6 => v
  | _ => if zextLow old n = zextLow v n then cmp else old

/-- R181: perform an atomic on a store: the old value and the store after. -/
def amoMemory (m : Memory) (addr size af : Nat) (v cmp : W64) : W64 × Memory :=
  let old := BitVec.ofNat 64 (m.num addr size)
  (old, m.writeN addr (bytesOf size (amoValue af size old v cmp).toNat))

/-! ### What a context sees (R118) -/

/-- Is the access a write? -/
def Msg.isStore (m : Msg) : Bool := match m.kind with
  | .store => true
  | .sth _ => true
  | _ => false

/-- R118: one held word as if it had performed. -/
def heldStore (core : Nat) (m : Memory) : Held → Memory
  | .store a n v => if gsaOff a < 0x700000 then m.writeN a (bytesOf n v.toNat) else m
  | .access x =>
    if gsaCore x.addr = core ∧ gsaOff x.addr < 0x700000 then
      match x.kind with
      | .amo af cmp => (amoMemory m x.addr x.size af x.data cmp).2
      | .sth _ => m.writeN x.addr (bytesOf x.size x.data.toNat)
      | .store => m.writeN x.addr (bytesOf x.size x.data.toNat)
      | .load => m
    else m
  | _ => m

/-- R118: the store as a local load of the context reads it: its held stores as if they had performed. -/
def State.view (s : State) (k : Nat) : Memory := ((s.ctx k).held).foldl (heldStore (keyCore k)) s.mem

/-- R216, R118: the store as a streaming command reads it: the held stores of its context before it as if performed. -/
def State.streamView (s : State) (c : Cmd) : Memory :=
  let x := s.ctx (ctxKey c.core c.h)
  if c.held then ((x.rest ++ x.held).takeWhile (fun h => h != .stream c.id)).foldl (heldStore c.core) s.mem else s.mem

/-- R216, R284: an element that is about to be written: the command has read it by now or not, freely. -/
def State.takeUnit (c : Cmd) (s : State) (u : Nat × Nat) : State :=
  let (b, s) := s.freeBit
  if b then s.updCmd c.id (fun x => { x with taken := x.taken ++ [{ addr := u.1, bytes := (s.streamView c).readN u.1 u.2 }] }) else s

/-- R216, R284: bytes [a, a + n) are about to be written: each element a command reads there is read before or after, freely. -/
def State.beforeWrite (s : State) (a n : Nat) : State :=
  if s.cmds.any (fun c => !(c.unread a n).isEmpty) then s.cmds.foldl (fun s c => (c.unread a n).foldl (State.takeUnit c) s) s else s

/-- R91, R215: an access made while commands are writing the bytes it covers finds, element by element, the old value or the
new one; the flags of the elements written are set with them (R65). A command stopped by a freeze writes nothing (R384). -/
def State.touch (s : State) (a n : Nat) : State :=
  if s.cmds.any (fun c => !(c.meets a n).isEmpty) then
    let ws := (s.cmds.filter (fun c => !s.standing c)).flatMap (fun c => c.meets a n)
    let s := ws.foldl (fun s w => s.beforeWrite w.addr w.bytes.length) s
    let (cs, m, fr, fls) := s.cmds.foldl (s.touchCmd a n) ([], s.mem, s.free, [])
    ({ s with cmds := cs, mem := m, free := fr } : State).raiseFlags fls
  else s

/-- R52, R53: the format of a bank of the context's core as its next command samples it. -/
def State.fmtOf (s : State) (k bank : Nat) : Nat :=
  let a := gsaOf (keyCore k) (0x7FD000 + 8 * bank)
  ((s.ctx k).held).foldl (fun f h => match h with
    | .store b _ v => if b = a then v.toNat % 16 else f
    | .access m => if m.addr = a ∧ m.isStore = true then m.data.toNat % 16 else f
    | _ => f) (look 0 (s.core (keyCore k)).fmt bank).toNat

/-! ### The core window (R71) -/

/-- R36: is a context a member that lags because of a line? -/
def Line.lags (l : Line) (k : Nat) : Bool := l.eps != 0 && decide (l.eps ≤ look 0 l.lag k)

/-- R36: the members of a line on a core. -/
def Line.membersOn (l : Line) (core : Nat) : List Nat := l.members.filter (fun k => keyCore k == core)

/-- R36, R38: a core is lagging while any of its members on any line is. -/
def State.coreLagging (s : State) (core : Nat) : Bool :=
  (List.range 16).any (fun l => ((s.line l).membersOn core).any (s.line l).lags)

/-- R37: the status word of a line as a core shows it. Between launches it shows `lagcyc` and `eps` of the last launch the line was bound to: the model's
choice, where the spec is silent (log 95). -/
def State.lineStatus (s : State) (core l : Nat) : Nat :=
  let x := s.line l
  let ks := x.membersOn core
  if ks.isEmpty then x.lagcyc * 2 ^ 48 + x.eps * 2 ^ 40
  else x.lagcyc * 2 ^ 48 + x.eps * 2 ^ 40 + ((ks.map (look 0 x.lag)).foldl max 0) * 2 ^ 24
    + (if ks.any x.lags then 2 ^ 23 else 0) + 2 ^ 22 + ((ks.map (look 0 x.lastOff)).foldl max 0)

/-- R37: one straggler halfword: line, context, place (newest first). -/
def State.straggler (s : State) (core l h i : Nat) : Nat := ((look [] (s.line l).offs (ctxKey core h)).getD i 0)

/-- Does a command name operand buffer `n` of a core as its B operand and still have to fetch it (R73)? -/
def Cmd.readsOb (c : Cmd) (core n : Nat) : Bool := c.core == core && !c.held && match c.kind with
  | .product p => p.ob == n && !p.fetched
  | _ => false

/-- R266, R384: a command of a frozen or saved context, which is out of its queue until its context resumes. -/
def State.parked (s : State) (c : Cmd) : Bool := !c.owned || (s.ctx (ctxKey c.core c.h)).frozen.isSome

/-- R73: the T commands that the reader count of operand buffer `n` of a core counts: those of a frozen context are in no queue (R384). -/
def State.readers (s : State) (core n : Nat) : List Cmd := s.cmds.filter (fun c => c.readsOb core n && !s.parked c)

/-- R191: how many transfers a copy makes. -/
def CopyRec.transfers (r : CopyRec) : Nat := (r.levels.map (fun l => l.1)).foldl (· * ·) 1

/-- R191: the indices of transfer `t`, level 0 fastest. -/
def copyIndices : List (Nat × Int × Int) → Nat → List Nat
  | [], _ => []
  | (b, _, _) :: ls, t => t % b :: copyIndices ls (t / b)

/-- R191: the source and destination addresses of transfer `t`, in 64 bits. -/
def CopyRec.addrs (r : CopyRec) (t : Nat) : Nat × Nat :=
  let ix := List.zip (copyIndices r.levels t) r.levels
  let go := fun (base : W64) (f : Nat × Int × Int → Int) =>
    fromSigned 64 (base.toNat + (ix.map (fun x => (x.1 : Int) * f x.2)).foldl (· + ·) 0)
  (go r.sbase (fun l => l.2.1), go r.dbase (fun l => l.2.2))

/-- R73: the operand buffer an operand-buffer address names: core and number. -/
def obOf (a : Nat) : Nat × Nat := (a / 2 ^ 23 % 512, a / 2 ^ 16 % 4)

/-- R73, R190, R196: the operand buffers a copy writes: those of its transfers; the one its base names when it makes none. -/
def CopyRec.obTargets (r : CopyRec) : List (Nat × Nat) :=
  if r.dspc ≠ 2 then []
  else if r.transfers = 0 then [obOf r.dbase.toNat]
  else ((List.range r.transfers).map (fun t => obOf (r.addrs t).2)).eraseDups

/-- R73: the status doubleword of an operand buffer. A copy waits at a buffer while a command it recorded still reads that buffer. -/
def State.obStatus (s : State) (core n : Nat) : Nat :=
  let fills := s.cmds.filter (fun c => !c.held && match c.kind with
    | .copy r _ => r.obTargets.contains (core, n)
    | _ => false)
  let waits : Cmd → Bool := fun c => match c.kind with
    | .copy _ rs => rs.any (fun i => match s.cmd? i with
      | some x => x.readsOb core n
      | none => false)
    | _ => false
  let starts : Cmd → Bool := fun c => match c.kind with
    | .copy _ rs => rs.isEmpty
    | _ => false
  (look 0 (s.core core).obSeq n).toNat * 2 ^ 32 + (s.readers core n).length % 256 * 2 ^ 8
    + (if fills.any waits then 4 else 0) + (if fills.any starts then 2 else 0)

/-- R5: the identification word. -/
def State.identification (s : State) (core : Nat) : Nat :=
  0x01C * 2 ^ 52 + 0x4800 * 2 ^ 36 + Config.stmin.toNat * 2 ^ 28 + (s.die (dieOf core)).fwlvl.toNat * 2 ^ 16 + core * 128

/-- R71: the doubleword of the core window that starts at an offset; `fmt` gives the format registers. -/
def State.windowWord (s : State) (core : Nat) (fmt : Nat → Nat) (off : Nat) : Nat :=
  if 0x7FB000 ≤ off ∧ off < 0x7FC000 then
    let l := (off - 0x7FB000) / 0x100
    let h := off % 0x100 / 0x20
    let i := off % 0x20 / 2
    s.straggler core l h i + s.straggler core l h (i + 1) * 2 ^ 16 + s.straggler core l h (i + 2) * 2 ^ 32
      + s.straggler core l h (i + 3) * 2 ^ 48
  else if 0x7FC000 ≤ off ∧ off < 0x7FC020 then s.obStatus core ((off - 0x7FC000) / 8)
  else if 0x7FD000 ≤ off ∧ off < 0x7FD080 then fmt ((off - 0x7FD000) / 8)
  else if 0x7FE000 ≤ off ∧ off < 0x7FE080 then s.lineStatus core ((off - 0x7FE000) / 8)
  else if 0x7FF000 ≤ off ∧ off < 0x7FF008 then s.identification core
  else 0

/-- R71: an aligned read of the core window. -/
def State.windowRead (s : State) (core : Nat) (fmt : Nat → Nat) (off n : Nat) : Nat :=
  s.windowWord core fmt (off / 8 * 8) / 2 ^ (8 * (off % 8)) % 2 ^ (8 * n)

/-! ### Checks of an address (R70, R180) -/

/-- What an M word does at its address. -/
inductive AccessOp where
  | load | store | atomic
deriving DecidableEq, Repr

/-- R52, R71: may a store or atomic act on an offset of the core window? Only a local 8-byte store of a defined code to a format
register. -/
def windowStoreOk (isLocal : Bool) (off n : Nat) (op : AccessOp) (v : W64) : Bool :=
  isLocal && op == .store && n == 8 && decide (0x7FD000 ≤ off) && decide (off < 0x7FD080) && decide (v.toNat % 16 ≤ 10)

/-- R70, R180: the cause of the trap an M word's address raises, if any. An address that breaks R70 or R71 and names a core of another partition raises
the address fault, and either comes before the illegal-instruction trap of an `m.sth` whose handler is bad: the model's choice, the spec does not rank them
(log 95). -/
def State.accessCause (s : State) (global : Bool) (core : Nat) (ea : W64) (n : Nat) (op : AccessOp) (v : W64) : Option Nat :=
  let a := ea.toNat
  let limit := if global then 2 ^ 32 else 2 ^ 23
  let target := if global then gsaCore a else core
  let isLocal := target == core
  let off := gsaOff a
  if limit ≤ a ∨ a % n ≠ 0 then some causeAddress
  else if !coreExists target then some causeAddress
  else if !isLocal && decide (0x400000 ≤ off) && decide (off < 0x700000) then some causeAddress
  else if decide (0x700000 ≤ off) && op != .load && !windowStoreOk isLocal off n op v then some causeAddress
  else if !s.sameParts core target then some causeProtection
  else none

/-- The store key of an effective address: a local offset names the issuing core (R70). -/
def accessKey (global : Bool) (core : Nat) (ea : W64) : Nat := if global then ea.toNat else gsaOf core ea.toNat

/-! ### Cover of drains (R87) -/

/-- The scope instance of a release: its scope (0 core, 1 cluster, 2 die, 3 package, 4 system) and the core it was made on. -/
def instKey (scope core : Nat) : Nat := scope * 512 + core

/-- R80: is a core in a scope instance? -/
def inInst (i core : Nat) : Bool := match i / 512 with
  | 0 => i % 512 == core
  | 1 => i % 512 / 8 == core / 8
  | 2 => dieOf (i % 512) == dieOf core
  | _ => true

/-- R87 item 3, R94, R95: the writes a read of a core inherits from what a writer had released: those whose release holds the reader's core in
its scope (log 84). -/
def inherited (core : Nat) (cov : List (Nat × Nat)) : List Nat := (cov.filter (fun x => inInst x.2 core)).map Prod.fst

/-- R87 item 3: the writes whose order a read of [a, a + n) by a core inherits. -/
def State.tagsOf (s : State) (core a n : Nat) : List Nat :=
  if s.tags.isEmpty then [] else (inherited core ((List.range n).flatMap (fun i => look [] s.tags (a + i)))).eraseDups

/-- R87 items 2, 3: a read that a context issued in cycle `t` returned these writes. -/
def State.observe (s : State) (k t : Nat) (ids : List Nat) : State :=
  if ids.isEmpty then s else s.updCtx k (fun c => { c with seen := (c.seen ++ ids.map (fun i => (i, t))).eraseDups })

/-- Mark the bytes of a write with the cover of its writer's drains. -/
def State.tagBytes (s : State) (a n : Nat) (cov : List (Nat × Nat)) : State :=
  if cov.isEmpty && s.tags.isEmpty then s
  else { s with tags := (List.range n).foldl (fun t i => if cov.isEmpty then drop1 t (a + i) else put t (a + i) cov) s.tags }

/-! ### Loads and stores that perform at a core -/

/-- A read performed at a core on its own stores or window: the bytes as a number. `mem` is the store as the reader sees it. -/
def State.readAt (s : State) (mem : Memory) (fmt : Nat → Nat) (a n : Nat) : W64 :=
  if 0x700000 ≤ gsaOff a then BitVec.ofNat 64 (s.windowRead (gsaCore a) fmt (gsaOff a) n) else BitVec.ofNat 64 (mem.num a n)

/-- R179: the value of a load of `n` bytes. -/
def loadValue (sx : Bool) (n : Nat) (v : W64) : W64 := if sx then sextLow v (8 * n) else zextLow v (8 * n)

/-- R85, R118: a local read by a context: the value, and the state after. -/
def State.localRead (s : State) (k a n : Nat) : W64 × State :=
  let s := (s.touch a n).observe k s.iss.when_ (s.tagsOf (keyCore k) a n)
  (s.readAt (s.view k) (s.fmtOf k) a n, s)

/-- Bytes are written to a store: commands that are writing or reading them have done so by now or not, freely (R91, R215, R216). -/
def State.writeAt (s : State) (a : Nat) (bs : List Byte) (cov : List (Nat × Nat)) : State :=
  let s := (s.touch a bs.length).beforeWrite a bs.length
  ({ s with mem := s.mem.writeN a bs }).tagBytes a bs.length cov

/-- A store performs at its target: a format register or bytes of a store (R52, R179). -/
def State.performStore (s : State) (a n : Nat) (v : W64) (cov : List (Nat × Nat)) : State :=
  if 0x700000 ≤ gsaOff a then
    s.updCore (gsaCore a) (fun x => { x with fmt := put x.fmt ((gsaOff a - 0x7FD000) / 8) (v.extractLsb' 0 4) })
  else
    s.writeAt a (bytesOf n v.toNat) cov

/-- R118: add to the commit buffer of the context in hand. -/
def State.hold (s : State) (h : Held) : State := s.updCur (fun c => { c with snaps := addHeld h c.snaps })

/-- R179, R118: a local store: at once, or held. -/
def State.localStore (s : State) (a n : Nat) (v : W64) : State :=
  if s.cur.speculative then s.hold (.store a n v) else s.performStore a n v s.cur.released

/-! ### Remote accesses (R81, R82, R14) -/

/-- The dies between two dies of the ring: 0, 1 or 2 hops (R9). -/
def hops (d e : Nat) : Nat := match (e + 4 - d) % 4 with
  | 0 => 0
  | 2 => 2
  | _ => 1

/-- R14: the figure for a load of another core: 40, 120, 400 or 560 cycles. -/
def loadFigure (core t : Nat) : Nat :=
  if core / 8 = t / 8 then 40 else match hops (dieOf core) (dieOf t) with
    | 0 => 120
    | 1 => 400
    | _ => 560

/-- R14: cycles from one stage to the next movement, for an access of `core` to `t`. -/
def stageDelay (core t : Nat) : Stage → Nat
  | .table => 20
  | .cluster => if dieOf core = dieOf t then 40 else 80
  | .ring => loadFigure core t / 2 - 100
  | .far => 0
  | .done => loadFigure core t - loadFigure core t / 2

/-- Two accesses share a stage: the request table of a core, the egress of a cluster, the ring egress of a die. -/
def sameStage (m x : Msg) : Bool := m.stage == x.stage && match m.stage with
  | .table => m.core == x.core
  | .cluster => m.core / 8 == x.core / 8
  | .ring => dieOf m.core == dieOf x.core
  | .far => dieOf m.core == dieOf x.core
  | .done => false

/-- Does the access return an entry to a queue? -/
def Msg.returns (m : Msg) : Bool := match m.kind with
  | .load => true
  | .amo _ _ => true
  | _ => false

/-- Accesses ahead of `m` in its stage that meet its bytes: all traffic to one location is in order (R82). -/
def State.aheadOf (s : State) (m : Msg) : List Msg :=
  (s.msgs.takeWhile (fun x => x.id != m.id)).filter (fun x => sameStage m x && overlaps m.addr m.size x.addr x.size)

/-- R82: a load that enters a stage is answered by the youngest buffered store there that meets it, when that store covers every
byte it reads; its value reaches the queue head after the figure of R14 all the same. Behind an atomic that meets it, it waits: all traffic to one location keeps one path (R83). -/
def State.forward (s : State) (m : Msg) : Msg :=
  match m.kind with
  | .load =>
    match ((s.aheadOf m).filter (fun x => x.kind != .load)).getLast? with
    | some x =>
      if x.isStore = true ∧ x.addr ≤ m.addr ∧ m.addr + m.size ≤ x.addr + x.size then
        { m with stage := .done, due := max (s.now + 1) (m.at_ + loadFigure m.core (gsaCore m.addr)), home := true, ids := x.id :: inherited m.core x.cov,
                 val := BitVec.ofNat 64 (x.data.toNat / 2 ^ (8 * (m.addr - x.addr)) % 2 ^ (8 * m.size)) }
      else m
    | none => m
  | _ => m

/-- An access enters a stage in cycle `t`, behind everything there; its next movement comes no earlier than the figure of R14, and on a quiet machine then. -/
def State.enterStage (s : State) (m : Msg) (st : Stage) (t : Nat) : State :=
  let m := { m with stage := st, due := t + stageDelay m.core (gsaCore m.addr) st }
  let rest := s.msgs.filter (fun x => x.id != m.id)
  let m := ({ s with msgs := rest ++ [m] }).forward m
  { s with msgs := rest ++ [m] }

/-- A local queue-returning access performs in its issue cycle under local order; its entry follows no earlier than 4 cycles
after issue (R179). -/
def State.performLocal (s : State) (m : Msg) (view : Memory) (fmt : Nat → Nat) : State × Msg :=
  match m.kind with
  | .load => (s, { m with stage := .done, val := s.readAt view fmt m.addr m.size, ids := s.tagsOf m.core m.addr m.size })
  | .amo af cmp =>
    let s := (s.touch m.addr m.size).beforeWrite m.addr m.size
    let (old, mem) := amoMemory s.mem m.addr m.size af m.data cmp
    let ids := s.tagsOf m.core m.addr m.size
    (({ s with mem := mem }).tagBytes m.addr m.size m.cov, { m with stage := .done, val := old, ids := ids })
  | _ => (s.performStore m.addr m.size m.data m.cov, { m with stage := .done })

/-- Send an access that is not held (R118, R179): a local one performs at once, a remote one enters the request table. The payload of an
`m.sth` to the own core performs at once too (R85); the figures of R14 count from issue, so those of an access that was held have begun; DEDUCED (log 85): its handler starts, or waits, by the event of R31. -/
def State.send (s : State) (m : Msg) : State :=
  let m := { m with cov := (s.ctx (ctxKey m.core m.h)).released }
  if gsaCore m.addr = m.core then
    let (j, s) := s.freeNat
    let m := { m with due := s.now + 4 + j, stage := .far }
    match m.kind with
    | .sth _ => { (s.performStore m.addr m.size m.data m.cov) with msgs := s.msgs ++ [{ m with due := s.now, paid := true }] }
    | .load =>
      let s := s.touch m.addr m.size
      let (s, m) := s.performLocal m s.mem (fun n => (look 0 (s.core m.core).fmt n).toNat)
      { s with msgs := s.msgs ++ [m] }
    | _ =>
      let (s, m) := s.performLocal m s.mem (fun _ => 0)
      { s with msgs := s.msgs ++ [m] }
  else s.enterStage m .table (min s.now m.at_)

/-- A new access of the context in hand. -/
def State.newMsg (s : State) (kind : MsgKind) (a n : Nat) (v : W64) (sx : Bool) (q : Nat) : Msg × State :=
  let (id, s) := s.freshId
  ({ id := id, core := s.iss.core, h := s.iss.h, kind := kind, addr := a, size := n, data := zextLow v (8 * n), sx := sx, queue := q,
     inc := (s.die (dieOf s.iss.core)).inc.toNat, stage := .table, due := s.now, dest := s.key, widx := s.iss.widx, at_ := s.iss.when_ }, s)

/-- R118, R179: issue an access: held while speculative, else sent. A local load reads at issue and only its delivery is held. -/
def State.issueAccess (s : State) (kind : MsgKind) (a n : Nat) (v : W64) (sx : Bool) (q : Nat) : State :=
  let (m, s) := s.newMsg kind a n v sx q
  if s.cur.speculative then
    if kind = .load ∧ gsaCore a = s.iss.core then
      let (v, s) := s.localRead s.key a n
      s.hold (.access { m with stage := .done, val := v, due := s.now + 4 })
    else s.hold (.access m)
  else s.send m

end Sys2Proof.Machine
end

