-- ==== Sys2Proof/Machine/Bundle.lean ====
section
/-! DEFINITION. Fetching a bundle and the traps found at decode (R97 to R112). -/

namespace Sys2Proof.Machine

/-- A word of a bundle other than an EXT word: its index, its bits, what it decodes to, the payloads of its EXT words, and its
slot among its class (R100). -/
structure BWord where
  idx : Nat
  raw : W32
  instr : Instr
  exts : List (BitVec 27)
  slot : Nat
deriving DecidableEq, Repr

/-- A bundle: the address of its first word, the address after its last, its header, its words. -/
structure Bundle where
  start : BitVec 32
  next : BitVec 32
  hdr : Option HDR
  words : List BWord
deriving DecidableEq, Repr

/-- What fetch and decode give: a bundle, or a trap at the address where the bundle would start. -/
inductive Fetched where
  | bundle (b : Bundle)
  | trap (start : BitVec 32) (t : Trap)
deriving DecidableEq, Repr

/-- R98: the word at an address of the code space of an image, if the loaded code holds it. -/
def State.codeWord (s : State) (img a : Nat) : Option W32 :=
  if a % 4 = 0 ∧ a + 4 ≤ (s.image img).codeLen then some (BitVec.ofNat 32 (s.mem.num (codeKey img a) 4)) else none

/-- R99: skip the pad words before a bundle. -/
def State.skipPads (s : State) (img : Nat) : Nat → Nat → Nat
  | 0, a => a
  | n + 1, a => if s.codeWord img a = some 0 then s.skipPads img n (a + 4) else a

/-- R99: the first address at or after `a` that is not a pad word. -/
def State.afterPads (s : State) (img : Nat) (a : BitVec 32) : BitVec 32 :=
  BitVec.ofNat 32 (s.skipPads img ((s.image img).codeLen / 4 + 1) a.toNat)

/-- R99: the first of the pad words that lead up to address `a`, or `a`. -/
def State.padsBefore (s : State) (img : Nat) : Nat → Nat → Nat
  | 0, a => a
  | n + 1, a => if 4 ≤ a ∧ s.codeWord img (a - 4) = some 0 then s.padsBefore img n (a - 4) else a

/-- R99: where the pad words that lead up to the bundle in hand begin. -/
def State.lead (s : State) : BitVec 32 :=
  BitVec.ofNat 32 (s.padsBefore s.cur.img ((s.image s.cur.img).codeLen / 4 + 1) s.iss.pc.toNat)

/-- R99, R383: the program counter of a context stands at the first word of its next bundle. -/
def State.atBundle (s : State) (k : Nat) : State :=
  s.updCtx k (fun c => { c with live := { c.live with pc := s.afterPads c.img c.live.pc } })

/-- R99: the words of the chain from an address, at most `n`; and the address where the code ended first, if it did. -/
def State.chain (s : State) (img : Nat) : Nat → Nat → List W32 × Option Nat
  | 0, _ => ([], none)
  | n + 1, a => match s.codeWord img a with
    | none => ([], some a)
    | some w => if chainBit w then (let (ws, x) := s.chain img n (a + 4); (w :: ws, x)) else ([w], none)

/-- The class of a word. -/
def clsN (w : W32) : Nat := (classOf w).toNat

/-- How many of the words satisfy a test of their class. -/
def countCls (ws : List W32) (p : Nat → Bool) : Nat := (ws.filter (fun w => p (clsN w))).length

/-- Is the class S or P? -/
def isSP (c : Nat) : Bool := c == 1 || c == 9

/-- R109: does the word before a run of EXT words allow its `k`-th? `before` are the words before it, nearest first. -/
def extAdmitted : List W32 → Nat → Bool
  | [], _ => false
  | w :: ws, k => if clsN w = 10 then extAdmitted ws (k + 1) else match decodeWord w with
    | .ok i => decide (k ≤ i.extLimit)
    | .error _ => false

/-- R100, R109: does a word stand where no word of its class may? DEDUCED (log 50): the two EXT words R100 allows are two to the word they
extend. -/
def misplaced (before : List W32) (w : W32) : Bool :=
  match clsN w with
  | 0 => !before.isEmpty
  | 1 => decide (2 ≤ countCls before isSP)
  | 9 => decide (2 ≤ countCls before isSP) || decide (1 ≤ countCls before (· == 9))
  | 2 => decide (2 ≤ countCls before (· == 2))
  | 3 => decide (3 ≤ countCls before (· == 3))
  | 10 => !extAdmitted before.reverse 1
  | c => decide (c ≤ 8) && decide (1 ≤ countCls before (· == c))

/-- R112 order 1: the first word that makes the bundle illegal. -/
def firstMisplaced (ws : List W32) : Option Nat :=
  (List.range ws.length).find? (fun i => misplaced (ws.take i) (ws.getD i 0))

/-- R112 order 1, R379 code 2: the illegal-bundle trap of a chain. -/
def bundleTrap (start : Nat) (ws : List W32) (missing : Option Nat) : Option Trap :=
  let late : Option Nat := if missing.isSome || decide (17 ≤ ws.length) then some (if missing.isSome then ws.length else 16) else none
  let at' : Option Nat := match firstMisplaced ws, late with
    | some i, some j => some (min i j)
    | some i, none => some i
    | none, x => x
  at'.map (fun i => { ord := 1, widx := i, cause := causeBundle, tval := BitVec.ofNat 64 (start + 4 * i) })

/-- R154: the payloads of the EXT words right after a word. -/
def extsAfter (ws : List W32) : List (BitVec 27) := (ws.takeWhile (fun w => clsN w == 10)).map (fun w => w.extractLsb' 0 27)

/-- R100: the slot of a word among its class; a P word takes S0 and an S word beside it S1. -/
def slotOf (ws : List W32) (i : Nat) : Nat :=
  let c := clsN (ws.getD i 0)
  if c = 9 then 0
  else if c = 1 then countCls (ws.take i) (· == 1) + countCls ws (· == 9)
  else countCls (ws.take i) (· == c)

/-- R112 order 2: is the word illegal at decode? -/
def illegalWord (w : W32) (exts : List (BitVec 27)) : Bool :=
  match decodeWord w with
  | .error _ => true
  | .ok i => !(i.wf && i.extOk exts)

/-- R112 order 2, R379 code 1: the illegal-instruction trap found at decode. -/
def decodeTrap (ws : List W32) : Option Trap :=
  ((List.range ws.length).find? (fun i => clsN (ws.getD i 0) != 10 && illegalWord (ws.getD i 0) (extsAfter (ws.drop (i + 1))))).map
    (fun i => { ord := 2, widx := i, cause := causeIllegal, tval := (ws.getD i 0).zeroExtend 64 })

/-- The decoded words of a legal chain. -/
def bundleWords (ws : List W32) : List BWord :=
  (List.range ws.length).filterMap (fun i =>
    let w := ws.getD i 0
    if clsN w = 10 then none else match decodeWord w with
      | .ok j => some { idx := i, raw := w, instr := j, exts := extsAfter (ws.drop (i + 1)), slot := slotOf ws i }
      | .error _ => none)

/-- The header of a bundle. -/
def headerOf : List BWord → Option HDR
  | { instr := .hdr f, .. } :: _ => some f
  | _ => none

/-- R98, R99, R112: fetch and decode the bundle of a context. -/
def State.fetch (s : State) (img : Nat) (pc : BitVec 32) : Fetched :=
  let start := s.afterPads img pc
  match s.chain img 17 start.toNat with
  | ([], _) => .trap start { ord := 0, widx := 0, cause := causeProtection, tval := start.zeroExtend 64 }
  | (ws, missing) =>
    match bundleTrap start.toNat ws missing with
    | some t => .trap start t
    | none => match decodeTrap ws with
      | some t => .trap start t
      | none =>
        let bs := bundleWords ws
        .bundle { start := start, next := BitVec.ofNat 32 (start.toNat + 4 * ws.length), hdr := headerOf bs, words := bs }

end Sys2Proof.Machine
end

