-- ==== Sys2Proof/Machine/Control.lean ====
section
/-! DEFINITION. Hardware loops and transfers of control (R116, R117, R167 to R177). -/

namespace Sys2Proof.Machine

/-- A loop register by its number (R167). -/
def Arch.loop (a : Arch) (l : Bool) : Loop := if l then a.lc1 else a.lc0
/-- Write a loop register. -/
def Arch.setLoop (a : Arch) (l : Bool) (x : Loop) : Arch := if l then { a with lc1 := x } else { a with lc0 := x }

/-- R175: disarm a loop and every loop armed inside it; `s`, `e` and `n` are kept. -/
def Arch.disarm (a : Arch) (l : Bool) : Arch :=
  let was := (a.loop l).armed
  let a := a.setLoop l { a.loop l with armed := false }
  let o := a.loop !l
  if was && o.armed && o.inner then a.setLoop (!l) { o with armed := false } else a

/-- R167: does an address lie in a loop's body? -/
def Loop.holds (l : Loop) (a : BitVec 32) : Bool := decide (l.s.toNat ≤ a.toNat) && decide (a.toNat ≤ l.e.toNat)

/-- R175: a taken transfer to `t` disarms an armed loop whose body does not hold `t`. -/
def Arch.leave (a : Arch) (l : Bool) (t : BitVec 32) : Arch :=
  if (a.loop l).armed && !(a.loop l).holds t then a.disarm l else a

/-- R175: a taken transfer, its target the next bundle. -/
def Arch.transfer (a : Arch) (t : BitVec 32) : Arch := { (a.leave false t).leave true t with pc := t }

/-- R174, R167: is the bundle that ends at `next` the end bundle of a loop, the first to end at or after `e`? `start` is where the pad
words that lead up to the bundle begin (log 51). -/
def Loop.endsIn (l : Loop) (start next : BitVec 32) : Bool :=
  l.armed && decide (start.toNat ≤ l.e.toNat) && decide (l.e.toNat < next.toNat)

/-- R174: one loop at a bundle end. `true` when it turned back: its `n` fell by one, and a start outside the other loop's body
disarms the other (R175). With `n` 1 the loop disarms and falls through; DESIGN CHOICE (log 83): also with `n` 0, which only a supervisor
can load into an armed loop. -/
def Arch.turnBack (a : Arch) (l : Bool) : Bool × Arch :=
  let x := a.loop l
  if 1 < x.n.toNat then
    let a := a.setLoop l { x with n := x.n - 1 }
    (true, { a.leave (!l) x.s with pc := x.s })
  else (false, a.setLoop l { x with n := 0, armed := false })

/-- R174: which loop is tested first when a bundle ends both: the one whose `late` bit is set; else `lc1`. -/
def Arch.lateLoop (a : Arch) : Bool := !(a.lc0.late && !a.lc1.late)

/-- R99, R174: the end of a bundle that transfers no control: on to the next bundle, unless a loop turns back. -/
def Arch.bundleEnd (a : Arch) (start next : BitVec 32) : Arch :=
  let f := a.lateLoop
  let a := { a with pc := next }
  let first := (a.loop f).endsIn start next
  let (back, b) := if first then a.turnBack f else (false, a)
  if back then b
  else if (b.loop !f).endsIn start next then (b.turnBack !f).2
  else b

/-- R173: arm loop `l` with a count and a body that starts at `start` and has `len` words. -/
def Arch.armLoop (a : Arch) (l : Bool) (c : W64) (start : BitVec 32) (len : Nat) : Arch :=
  let a := if (a.loop l).armed then a.disarm l else a
  let o := a.loop !l
  let e := start + BitVec.ofNat 32 (4 * (len - 1))
  if c.toInt ≤ 0 then a.setLoop l { a.loop l with s := start, e := e, n := 0, armed := false }
  else
    let x : Loop := { n := BitVec.ofNat 32 (min c.toNat (2 ^ 32 - 1)), s := start, e := e, armed := true, late := o.armed,
                      inner := o.armed && o.holds start && o.holds e }
    (a.setLoop l x).setLoop (!l) (if o.armed then { o with late := false } else o)

/-- The first transfer, in slot order, that a test picks: its target. -/
def pickTransfer (p : Nat × Bool × Bool × BitVec 32 → Bool) (xs : List (Nat × Bool × Bool × BitVec 32)) : Option (BitVec 32) :=
  ((sortBy (fun x y => decide (x.1 < y.1)) xs).find? p).map (fun x => x.2.2.2)

/-- The arm of a bundle: a transfer, or its end. -/
def Arch.arm (a : Arch) (start next : BitVec 32) : Option (BitVec 32) → Arch
  | some t => a.transfer t
  | none => a.bundleEnd start next

/-- R116, R172: a word of the bundle may transfer control. The bundle has one resolution, 3 cycles on; the predicted arm goes on
and the state of the correct arm is kept. -/
def State.branch (s : State) (taken pred : Bool) (target : BitVec 32) (link : Arch → Arch) : State :=
  let base := link (s.iss.base.getD s.cur.live)
  let xs := s.iss.xfs ++ [(s.iss.slot, taken, pred, target)]
  let actual := pickTransfer (fun x => x.2.1) xs
  let guess := pickTransfer (fun x => x.2.2.1) xs
  let right := base.arm s.lead s.iss.next actual
  let live := base.arm s.lead s.iss.next guess
  let snap : Snap := { rem := 3, mis := guess != actual, arch := right }
  let first := s.iss.base.isNone
  let s := { s with iss := { s.iss with xfs := xs, base := some base } }
  s.updCur (fun c => { c with live := live, snaps := (if first then c.snaps else c.snaps.dropLast) ++ [snap] })

/-- R172: is a transferring word annulled because S0 transferred? -/
def State.branchAnnulled (s : State) : Bool := s.iss.xfs.any (fun x => decide (x.1 < s.iss.slot) && x.2.1)

/-- R117, R171, R379: a target that is not a multiple of 12 raises the illegal-instruction trap at issue. -/
def State.badTarget (s : State) : Out := s.illegal

end Sys2Proof.Machine
end

