-- ==== Sys2Proof/Machine/Translate.lean ====
section
/-! DEFINITION. Virtual memory: frames, page-table walks, cached translations, compressed pages (R372 to R376). -/

namespace Sys2Proof.Machine

/-- R374: the store key of a physical byte. -/
def physKey (host : Bool) (pa : Nat) : Nat := if host then hostKey pa else hbmKey pa

/-- R374: bytes of HBM of a die. -/
def hbmSize : Nat := 192000000000
/-- R374: bytes of a pseudo-channel. -/
def channelSize : Nat := 750000000

/-- R374, R376: the size of the metadata region of a die: 128 bytes for each whole frame of 64 KiB of its HBM (log 5). -/
def metaSize : Nat := 128 * (hbmSize / 65536)

/-- R374: does a partition own every byte of a frame or table? -/
def State.ownsFrame (s : State) (p : Part) (host : Bool) (pa len : Nat) : Bool :=
  if host then decide (p.hwbase ≤ pa) && decide (pa + len ≤ p.hwbase + p.hwlen)
  else
    let d := pa / 2 ^ 38
    let o := pa % 2 ^ 38
    let c0 := o / channelSize
    let c1 := (o + len - 1) / channelSize
    decide (pa < 2 ^ 40) && decide (o + len ≤ hbmSize) &&
      (List.range (c1 + 1 - c0)).all (fun i => p.pchan.testBit (256 * d + c0 + i)) &&
      !overlaps o len (look 0 s.mon.metaBase d) metaSize

/-- A leaf found by a walk (R373). -/
structure Leaf where
  base : Nat
  size : Nat
  host : Bool
  pa : Nat
  cz : Bool
  res : Bool
  w : Bool
  r : Bool
deriving DecidableEq, Repr

/-- R372: the levels of a walk: the lowest bit a level indexes and how many bits. -/
def walkLevelsList : List (Nat × Nat) := [(43, 14), (30, 13), (21, 9), (16, 5)]

/-- R373, R375: walk from a table; `none` is a translation fault (no mapping, or format). -/
def State.walkFrom (s : State) (p : Part) (va : Nat) : List (Nat × Nat) → Bool → Nat → Option Leaf
  | [], _, _ => none
  | (lo, bits) :: rest, host, table =>
    let e := s.mem.num (physKey host table + 8 * (va / 2 ^ lo % 2 ^ bits)) 8
    let pa := natField e 51 8 * 2 ^ 8
    let h := e.testBit 5
    if !e.testBit 0 || natField e 62 52 != 0 || natField e 7 6 != 0 then none
    else if e.testBit 4 then
      if rest.length = 3 ∨ pa % 2 ^ lo ≠ 0 ∨ (e.testBit 63 ∧ (lo ≠ 16 ∨ h)) ∨ !s.ownsFrame p h pa (2 ^ lo) then none
      else some { base := va / 2 ^ lo * 2 ^ lo, size := 2 ^ lo, host := h, pa := pa, cz := e.testBit 63, res := e.testBit 3,
                  w := e.testBit 2, r := e.testBit 1 }
    else match rest with
      | [] => none
      | (_, nb) :: _ =>
        if pa % (8 * 2 ^ nb) ≠ 0 ∨ !s.ownsFrame p h pa (8 * 2 ^ nb) then none
        else s.walkFrom p va rest h pa

/-- R372, R375: the walk of a partition for a virtual address. The level-0 table is named by an HBM address, since no flag beside it says host: the model's
reading of R374 (log 97). -/
def State.walk (s : State) (part va : Nat) : Option Leaf :=
  let root := (s.part part).ptroot
  if 2 ^ 57 ≤ va ∨ root % (8 * 2 ^ 14) ≠ 0 ∨ !s.ownsFrame (s.part part) false root (8 * 2 ^ 14) then none
  else s.walkFrom (s.part part) va walkLevelsList false (s.part part).ptroot

/-- R374, R376: the dies in whose HBM the pages of `n` bytes of a virtual space lie. Pages are 64 KiB or more. -/
def State.pageDies (s : State) (part va n : Nat) : List Nat :=
  (List.range ((va % 65536 + n + 65535) / 65536)).filterMap (fun i => match s.walk part ((va / 65536 + i) * 65536) with
    | some l => if l.host then none else some (l.pa / 2 ^ 38)
    | none => none)

/-- The outcome of a translation (R375). -/
inductive Tr where
  | fault
  | nonres
  | ok (host : Bool) (pa : Nat) (cz : Bool)
deriving DecidableEq, Repr

/-- R375: what a leaf gives an access. -/
def Leaf.access (l : Leaf) (va : Nat) (read write : Bool) : Tr :=
  if (read && !l.r) || (write && !l.w) then .fault
  else if !l.res then .nonres
  else .ok l.host (l.pa + (va - l.base)) l.cz

/-- R376: a cached translation: its partition, page, size and leaf, packed as the entry would be. -/
def Leaf.pack (l : Leaf) : Nat :=
  l.pa + (if l.cz then 1 else 0) + (if l.host then 2 else 0) + (if l.w then 4 else 0) + (if l.r then 8 else 0)

/-- R376: the leaf a cached translation stands for. -/
def cachedLeaf (e : Nat × Nat × Nat × Nat) : Leaf :=
  let x := e.2.2.2
  { base := e.2.1, size := e.2.2.1, host := x.testBit 1, pa := x / 16 * 16, cz := x.testBit 0, res := true, w := x.testBit 2,
    r := x.testBit 3 }

/-- R376: the cached translation of a die that covers an address. -/
def Die.cached (d : Die) (part va : Nat) : Option (Nat × Nat × Nat × Nat) :=
  d.tlb.find? (fun e => e.1 == part && decide (e.2.1 ≤ va) && decide (va < e.2.1 + e.2.2.1))

/-- R374, R394: the stack of HBM a physical byte lies in, as 4·die + stack. -/
def stackOf (pa : Nat) : Nat := 4 * (pa / 2 ^ 38) + pa % 2 ^ 38 / channelSize / 64

/-- R394: an access must wait while its stack is in self-refresh. -/
def State.asleep (s : State) (host : Bool) (pa : Nat) : Bool := !host && look false s.selfRef (stackOf pa)

/-- R372, R373: where the entries lie that a walk reads: on the host or not, and the physical address. -/
def State.walkReads (s : State) (va : Nat) : List (Nat × Nat) → Bool → Nat → List (Bool × Nat)
  | [], _, _ => []
  | (lo, bits) :: rest, host, table =>
    let o := 8 * (va / 2 ^ lo % 2 ^ bits)
    let e := s.mem.num (physKey host table + o) 8
    (host, table + o) :: if !e.testBit 0 || e.testBit 4 then [] else s.walkReads va rest (e.testBit 5) (natField e 51 8 * 2 ^ 8)

/-- R394: does a walk reach a stack in self-refresh, for which it waits? -/
def State.walkAsleep (s : State) (part va : Nat) : Bool :=
  (s.walkReads va walkLevelsList false (s.part part).ptroot).any (fun x => s.asleep x.1 x.2)

/-- R394: does an access to `n` bytes of a virtual space wait for a stack in self-refresh, that of a page table or of a page? -/
def State.rangeAsleep (s : State) (part va n : Nat) : Bool :=
  (List.range ((va % 65536 + n + 65535) / 65536)).any (fun i =>
    let a := (va / 65536 + i) * 65536
    s.walkAsleep part a || (s.walk part a).any (fun l => s.asleep l.host (l.pa + (a - l.base))))

/-- R376, R394: an engine of a die translates: it walks, or takes a translation cached before, freely, and always while a walk would wait; only resident
leaves are cached. -/
def State.translate (s : State) (part die va : Nat) (read write : Bool) : Tr × State :=
  let fresh := s.walk part va
  match (s.die die).cached part va with
  | some e =>
    let (old, s) := s.freeBit
    if old || s.walkAsleep part va then ((cachedLeaf e).access va read write, s)
    else match fresh with
      | some l => (l.access va read write, s)
      | none => (.fault, s)
  | none => match fresh with
    | some l => (l.access va read write,
        if l.res then s.updDie die (fun d => { d with tlb := (part, l.base, l.size, l.pack) :: d.tlb }) else s)
    | none => (.fault, s)

/-- R390: forget cached translations of a partition: of the page that holds an address, or all. -/
def Die.invalidate (d : Die) (part : Nat) (va : Option Nat) : Die :=
  { d with tlb := d.tlb.filter (fun e => e.1 != part || (match va with
      | some a => !(decide (e.2.1 ≤ a) && decide (a < e.2.1 + e.2.2.1))
      | none => false)) }

/-- R376, R390: on every die, and on Causeway (die 4). -/
def State.invalidateAll (s : State) (part : Nat) (va : Option Nat) : State :=
  (List.range 5).foldl (fun s d => s.updDie d (fun x => x.invalidate part va)) s

/-- R376: the key of the bitmap byte that covers block `b` of the frame of a physical byte. -/
def State.bitmapKey (s : State) (pa : Nat) : Nat × Nat :=
  let d := pa / 2 ^ 38
  let o := pa % 2 ^ 38
  let b := o % 65536 / 64
  (hbmKey (d * 2 ^ 38 + look 0 s.mon.metaBase d + 128 * (o / 65536) + b / 8), b % 8)

/-- R376, R77: is the block of a byte of a compressed frame marked all zero? -/
def State.zeroBlock (s : State) (pa : Nat) : Bool := let (k, i) := s.bitmapKey pa; (s.mem.read k).getLsbD i

/-- R77: read a byte through a translation. -/
def State.readPhys (s : State) (host : Bool) (pa : Nat) (cz : Bool) : Byte :=
  if cz && s.zeroBlock pa then 0 else s.mem.read (physKey host pa)

/-- R77: write a byte through a translation; a block marked all zero is expanded first. -/
def State.writePhys (s : State) (host : Bool) (pa : Nat) (cz : Bool) (b : Byte) : State :=
  let m := if cz && s.zeroBlock pa then
      let (k, i) := s.bitmapKey pa
      (s.mem.clear (physKey host (pa / 64 * 64)) 64).write k (BitVec.ofNat 8 ((s.mem.read k).toNat &&& (255 - 2 ^ i)))
    else s.mem
  { s with mem := m.write (physKey host pa) b }

/-- Where the bytes of an element lie, each as (host, physical address, compressed), or why it cannot be reached: a translation fault at
an address, a page that is not resident, or a stack in self-refresh, for which it waits. -/
inductive Loc where
  | at_ (bs : List (Bool × Nat × Bool))
  | nonres
  | fault (va : Nat)
  | wait
deriving DecidableEq, Repr

/-- The bytes of `n` consecutive physical addresses. -/
def locsFrom (h : Bool) (pa : Nat) (cz : Bool) (n : Nat) : List (Bool × Nat × Bool) := (List.range n).map (fun i => (h, pa + i, cz))

/-- R375: the `n` bytes from a virtual address, which lie in at most two 64 KiB pages. -/
def State.locate (s : State) (part die va n : Nat) (rd wr : Bool) : Loc × State :=
  let next := (va / 65536 + 1) * 65536
  let waits := fun (x : Nat) => ((s.die die).cached part x).isNone && s.walkAsleep part x
  if waits va || (decide (next < va + n) && waits next) then (.wait, s)
  else
  let (a, s) := s.translate part die va rd wr
  let (b, s) := if next < va + n then s.translate part die next rd wr else (a, s)
  let bs := match a, b with
    | .ok h pa cz, .ok h2 pa2 cz2 =>
      if next < va + n then locsFrom h pa cz (next - va) ++ locsFrom h2 pa2 cz2 (va + n - next) else locsFrom h pa cz n
    | _, _ => []
  match a, b with
  | .fault, _ => (.fault va, s)
  | _, .fault => (.fault next, s)
  | .nonres, _ => (.nonres, s)
  | _, .nonres => (.nonres, s)
  | _, _ => (if bs.any (fun x => s.asleep x.1 x.2.1) then .wait else .at_ bs, s)

/-- R77: the bytes at located places. -/
def State.readLocs (s : State) (ls : List (Bool × Nat × Bool)) : List Byte := ls.map (fun x => s.readPhys x.1 x.2.1 x.2.2)
/-- R77: bytes written at located places. -/
def State.writeLocs (s : State) (ls : List (Bool × Nat × Bool)) (bs : List Byte) : State :=
  (List.zip ls bs).foldl (fun s x => s.writePhys x.1.1 x.1.2.1 x.1.2.2 x.2) s

end Sys2Proof.Machine
end

