-- ==== Sys2Proof/Machine/Interlock.lean ====
section
/-! DEFINITION. The interlocks of R114, the traps of a bundle's header and heads, and which contexts are ready (R20, R22). -/

namespace Sys2Proof.Machine

/-! ### Queue heads and lines -/

/-- R25, R107, R198: the pipe bound to head `n` (4 to 7) of a context: of the grid point it runs. -/
def State.pipeAt (s : State) (k n : Nat) : Option Pipe :=
  s.pipes.find? (fun p => p.cons == k && p.head == n && !p.consDone && ((s.ctx k).work.map (fun w => w.point)) == some p.point)

/-- R25, R107: a head from `q4` to `q7` that can never fill: no pipe, or an empty one whose producer has completed. -/
def State.deadHead (s : State) (k n : Nat) : Bool :=
  decide (4 ≤ n) && match s.pipeAt k n with
  | none => true
  | some p => p.prodDone && p.wait.isEmpty && ((s.ctx k).live.queue n).isEmpty

/-- R34: is the context a member of the line? -/
def State.bound (s : State) (k l : Nat) : Bool := (s.line l).members.contains k

/-- Is a word of the bundle annulled (R104)? -/
def BWord.annulled (w : BWord) (guard : Bool) : Bool := w.instr.guarded && !guard

/-- The words of a bundle that execute. -/
def Bundle.active (b : Bundle) (guard : Bool) : List BWord := b.words.filter (fun w => !w.annulled guard)

/-- The heads a bundle reads or pops, with the word concerned. -/
def Bundle.heads (b : Bundle) (guard : Bool) : List (Nat × BWord) :=
  (b.active guard).flatMap (fun w => match w.instr with
    | .hdr f => (bitsSet 8 f.pop.toNat).map (fun n => (n, w))
    | i => (i.sources.filterMap headOf).map (fun n => (n, w)))

/-- R22: does a bundle read a latch? -/
def Bundle.latches (b : Bundle) : Bool := b.words.any (fun w => w.instr.sources.any readsLatch)

/-- R112 row 3: a head with no pipe, or a sync on an unbound line. -/
def State.headerTrap (s : State) (k : Nat) (b : Bundle) (guard : Bool) : Option Trap :=
  let dead := ((b.heads guard).filter (fun x => s.deadHead k x.1)).map Prod.snd
  let sync := b.words.filter (fun w => match w.instr with
    | .hdr f => f.s && !s.bound k f.line.toNat
    | _ => false)
  match sortBy (fun x y : BWord => decide (x.idx < y.idx)) (sync ++ dead) with
  | [] => none
  | w :: _ => some { ord := 3, widx := w.idx, cause := causeIllegal, tval := w.raw.zeroExtend 64 }

/-! ### Streaming slots, queues, tables -/

/-- The tiles a T command reads or writes (R270, R277). -/
def Cmd.tiles (c : Cmd) : List Nat := match c.kind with
  | .product p => [p.z]
  | .move m => if m.op == .zadd then [m.z, m.loc] else [m.z]
  | _ => []

/-- Does a command stand in an engine queue or run (R266, R270)? One that a freeze has stopped or kept from starting does not, so that its tiles are not busy
while its context is frozen: the model's choice, R270 names entry and completion alone (log 55). -/
def State.queuedOrRuns (s : State) (c : Cmd) : Bool := !c.held && (c.st == .running || !s.parked c)

/-- R270, R72: is a tile's busy bit set? -/
def State.tileBusy (s : State) (core z : Nat) : Bool :=
  s.cmds.any (fun c => c.core == core && c.tiles.contains z && s.queuedOrRuns c)

/-- R214, R114: a V (0 to 2), F (3) or X (4) slot still streams an earlier command of a context that is not frozen. -/
def State.slotBusy (s : State) (core slot : Nat) : Bool :=
  s.cmds.any (fun c => c.core == core && (s.ctx (ctxKey c.core c.h)).frozen.isNone && match c.kind with
    | .stream sl _ _ => sl == slot && decide ((if slot = 3 then 10 else 6) < c.rem)
    | _ => false)

/-- Is a command one of the log matrix unit? -/
def Cmd.isT (c : Cmd) : Bool := match c.kind with
  | .product _ => true
  | .move _ => true
  | _ => false
/-- Is a command one of the arrays? -/
def Cmd.isA (c : Cmd) : Bool := match c.kind with
  | .array _ => true
  | _ => false
/-- R384: a grouped command. -/
def Cmd.isGrouped (c : Cmd) : Bool := match c.kind with
  | .product p => p.grouped
  | .array _ => decide (112 < c.raw.length)
  | _ => false

/-- R266: commands waiting in the log matrix queue of a core. -/
def State.tQueued (s : State) (core : Nat) : Nat := (s.cmds.filter (fun c => c.core == core && c.isT && !c.held && !s.parked c && c.st != .running)).length
/-- R266: commands waiting in an ADC group's queue: each takes one place while an entry of its group has not started. -/
def State.aQueued (s : State) (core grp : Nat) : Nat :=
  (s.cmds.filter (fun c => c.core == core && !c.held && !s.parked c && match c.kind with
    | .array es => es.any (fun e => e.grp == grp && e.st == .queued)
    | _ => false)).length

/-- R278: the pair a pair number names for a context. -/
def Ctx.mapPair (c : Ctx) (p : Nat) : Nat := match c.work with
  | some w => look p w.pairMap p
  | none => p

/-- The record address a word would read with its own EXT payloads. -/
def State.wordAddr (s : State) (k : Nat) (f : TQ) (exts : List (BitVec 27)) : Nat :=
  ((s.ctx k).live.source f.sp + extUnsigned 0 0 exts).toNat

/-- R266: the ADC groups a grouped word uses, as its tables stand: those of the entries with a nonzero count. -/
def State.groupedUses (s : State) (k : Nat) (a : Nat) : List Nat :=
  let m := s.view k
  let base := gsaOf (keyCore k) 0
  let cnts := m.num (base + a + 0x10) 4
  let gdesc := m.num (base + a + 0x18) 4
  let ng := m.num (base + a + 0x1C) 1
  ((List.range (min ng 64)).filter (fun g => m.num (base + cnts + 4 * g) 4 != 0)).map
    (fun g => (s.ctx k).mapPair (m.num (base + gdesc + 24 * g) 1 % 32) % 8)

/-- R266: the ADC groups whose queues an A word enters. -/
def State.aUses (s : State) (k : Nat) (w : BWord) : List Nat :=
  match w.instr with
  | .aFwd f | .aBwd f | .aUpd f | .aXfer f | .aSymw f | .aSymr f | .aProg f | .aCkpt f | .aSeed f | .aScl f =>
    [(s.ctx k).mapPair (subAp f).toNat % 8]
  | .aGfwd f | .aGbwd f | .aGupd f => s.groupedUses k (s.wordAddr k f w.exts)
  | _ => []

/-- Does a word take one of the 64 commands of a context (R384)? A scalar F word waits as if it did, though no engine command of it is counted: the model's
choice (log 102). -/
def takesCommand (i : Instr) : Bool := match i with
  | .vDset _ | .vDget _ | .vRstat _ | .tCop _ | .aStat _ => false
  | .qCopy _ | .qSortc _ => true
  | .qTokst _ | .qDrain _ | .qFence _ | .qPut _ | .qLaunch _ | .qGlaunch _ | .qCancel _ | .qExit _ | .qPgreq _ | .qCarm _
  | .qCtrig _ | .qCstat _ | .qHset _ | .qOffer _ | .qSrec _ | .qWaitk _ | .qKclr _ => false
  | i => decide (3 ≤ i.cls) && decide (i.cls ≤ 7)

/-- R384, R387: a command that a context holds for the limit of 64, and that the engine area holds. -/
def Cmd.inEngineArea (c : Cmd) : Bool := match c.kind with
  | .stream _ _ _ | .product _ | .move _ | .array _ | .copy _ _ | .sort _ => true
  | _ => false

/-- Is it a grouped word (R384)? -/
def isGroupedWord (i : Instr) : Bool := match i with
  | .tMmg _ | .aGfwd _ | .aGbwd _ | .aGupd _ => true
  | _ => false

/-- R179, R70: an `m.sth` to the issuing core, which is local. -/
def Msg.isLocalSth (m : Msg) : Bool := gsaCore m.addr == m.core && match m.kind with
  | .sth _ => true
  | _ => false

/-- R179: request-table entries of a core in use. -/
def State.requestsUsed (s : State) (core : Nat) : Nat :=
  (s.msgs.filter (fun m => m.core == core && !m.isLocalSth)).length +
  ((List.range 8).map (fun h => let c := s.ctx (ctxKey core h)
    ((List.range 4).map (fun q => (c.oldest.queue q).length)).foldl (· + ·) 0 +
    ((c.rest ++ c.held).filter (fun x => match x with
      | .access m => !m.isLocalSth
      | _ => false)).length)).foldl (· + ·) 0

/-- The address an M word names, as a store key, with its own EXT payloads; none where R70 makes it fault. -/
def State.wordKey (s : State) (k : Nat) (w : BWord) : Option Nat :=
  let core := keyCore k
  let s := { s with iss := { core := core, h := keyCtx k, ext := w.exts } }
  let at' := fun (f : MM) (limit : Nat) (a : W64) =>
    if limit ≤ a.toNat ∨ a.toNat % accessBytes f ≠ 0 then none else some (if limit = 2 ^ 23 then gsaOf core a.toNat else a.toNat)
  match w.instr with
  | .mLd f | .mSt f => at' f (2 ^ 23) (s.effAddr f)
  | .mLda f => at' f (2 ^ 23) (s.indexAddr f)
  | .mLdg f | .mStg f => at' f (2 ^ 32) (s.effAddr f)
  | .mSth f | .mAmo f => at' f (2 ^ 32) (s.value f.sa)
  | _ => none

/-- R72: an M word meets a busy tile of its core. -/
def State.meetsBusyTile (s : State) (k : Nat) (w : BWord) : Bool :=
  match s.wordKey k w with
  | some a => gsaCore a == keyCore k && decide (0x400000 ≤ gsaOff a) && decide (gsaOff a < 0x700000) &&
      s.tileBusy (keyCore k) ((gsaOff a - 0x400000) / 0x4000)
  | none => false

/-- R179, R70: does an M word take a request-table entry? A store to the issuing core is local and takes none. -/
def State.needsRequest (s : State) (k : Nat) (w : BWord) : Bool :=
  match w.instr with
  | .mLdg _ | .mAmo _ => true
  | .mStg _ | .mSth _ => match s.wordKey k w with
    | some a => gsaCore a != keyCore k
    | none => false
  | _ => false

/-- R118: does a word take a commit-buffer entry when its bundle is speculative? -/
def needsEntry (i : Instr) : Bool := match i with
  | .mLd _ | .mLda _ => false
  | i => decide (2 ≤ i.cls) && decide (i.cls ≤ 8)

/-- R394, R197: does the walk of a page request reach a stack in self-refresh, for which the request waits (log 100)? -/
def State.walkWaits (s : State) (k : Nat) (i : Instr) (va : Nat) : Bool := match i with
  | .qPgreq _ => s.walkAsleep ((s.partOf (keyCore k)).getD 16) va
  | _ => false

/-- R394: so does one that is to issue. -/
def State.requestWaits (s : State) (k : Nat) (i : Instr) : Bool := match i with
  | .qPgreq f => s.walkWaits k i ((s.ctx k).live.source f.sp).toNat
  | _ => false

/-- R114: the streaming-slot interlock of one word. `off` is how many slots of the word's class a primary takes (R101). -/
def State.wordBlocked (s : State) (k : Nat) (off : Nat → Nat) (w : BWord) : Bool :=
  let core := keyCore k
  match w.instr.cls with
  | 2 => s.meetsBusyTile k w
  | 3 => s.slotBusy core (w.slot + off 3)
  | 4 => s.slotBusy core 3
  | 5 => s.slotBusy core 4
  | 6 => (match w.instr with
    | .tCop _ => false
    | _ => decide (16 ≤ s.tQueued core))
  | 7 => (s.aUses k w).any (fun g => decide (8 ≤ s.aQueued core g))
  | 8 => (List.range 8).any (fun h => (s.ctx (ctxKey core h)).put.isSome || (s.ctx (ctxKey core h)).pgq.isSome) || s.requestWaits k w.instr
  | _ => false

/-- R114: the interlocks of a bundle as a whole. -/
def State.interlocked (s : State) (k : Nat) (off : Nat → Nat) (b : Bundle) (guard : Bool) : Bool :=
  let c := s.ctx k
  let ws := b.active guard
  let mine := s.cmds.filter (fun x => x.owned && x.inEngineArea && x.core == keyCore k && x.h == keyCtx k)
  let need := (ws.filter (fun w => takesCommand w.instr)).length
  let grouped := (ws.filter (fun w => isGroupedWord w.instr)).length
  let reqs := (ws.filter (s.needsRequest k)).length
  let entries := (ws.filter (fun w => needsEntry w.instr)).length
  (match b.hdr with
    | some f => (bitsSet 8 f.wait.toNat).any (fun n => !(c.token n).signalled)
    | none => false) ||
  (b.heads guard).any (fun x => (c.live.queue x.1).isEmpty) ||
  ws.any (s.wordBlocked k off) ||
  (decide (0 < need) && decide (64 < mine.length + (c.unacted.filter takesCommand).length + need)) ||
  (decide (0 < grouped) && decide (8 < (mine.filter Cmd.isGrouped).length + (c.unacted.filter isGroupedWord).length + grouped)) ||
  (decide (0 < reqs) && decide (3072 < s.requestsUsed (keyCore k) + reqs)) ||
  (c.speculative && decide (0 < entries) && decide (16 < c.heldCount + entries)) ||
  (c.speculative && b.words.any (fun w => w.instr.cls == 9))

/-! ### What a context would do next -/

/-- What the issue stage finds for a context. -/
inductive Plan where
  | blocked
  | trap (start : BitVec 32) (t : Trap)
  | sync (b : Bundle) (arrived : Bool)
  | issue (b : Bundle)
deriving DecidableEq, Repr

/-- R382: the context's time without a yield has reached its limit. -/
def Ctx.watchdogDue (c : Ctx) : Bool := c.wdog != 0 && decide (c.wdog.toNat * 1024 ≤ c.ctime - c.lastY)

/-- R383, R386: context time has reached the bundle at which the context is to freeze, though branches are still open. -/
def Ctx.holding (c : Ctx) (now : Nat) : Bool :=
  c.trapHold.isSome || c.freezeReq.any (fun x => decide (x.1 ≤ now)) || (c.later.isSome && decide (c.laterAt ≤ now)) || c.watchdogDue

/-- Does the context hold work that issues (R20)? A context that resumed in this cycle issues from the next on (R386). -/
def Ctx.runs (c : Ctx) : Bool :=
  (c.role == .unit || c.role == .handler || c.role == .supervisor) && c.frozen.isNone && !c.halted && !c.exiting && !c.thaw && c.wake == 0

/-- R187: the tokens of a wait that are signalled. -/
def Ctx.signalledOf (c : Ctx) (w : WaitK) : List Nat := (bitsSet 8 w.mask).filter (fun k => (c.token k).signalled)

/-- R187: is a wait over? An empty mask is over at once. -/
def Ctx.waitOver (c : Ctx) (w : WaitK) : Bool :=
  let sig := c.signalledOf w
  if w.any && w.mask != 0 then !sig.isEmpty else sig.length == (bitsSet 8 w.mask).length

/-- R187: the wait a `q.waitk` word starts. -/
def waitOf (f : TQ) (sec : Bool) : WaitK := { mask := f.sub.toNat % 256, any := f.sub.getLsbD 8, chk := f.sub.getLsbD 9, sec := sec }

/-- Something keeps every further bundle of the context from issuing: a trap held for its branches, a freeze whose time has come, a drain, a
token wait, words that wait for one of these, a trap about to be taken, a held `q.exit`, a held `q.waitk` whose tokens are not signalled or that checks
them, for its trap comes before the first bundle after it (R118, R187, R189, R382, R383). -/
def Ctx.stopped (c : Ctx) (now : Nat) : Bool :=
  c.trapHold.isSome || c.freezeReq.any (fun x => decide (x.1 ≤ now)) || c.drain.isSome || c.waitk.isSome || !c.rest.isEmpty || c.later.isSome ||
    c.watchdogDue || c.held.any (fun x => match x with
      | .word (.qExit _) _ _ _ _ => true
      | .word (.qWaitk f) _ _ _ _ => (waitOf f false).chk || !c.waitOver (waitOf f false)
      | _ => false)

/-- R382: an enabled breakpoint at an address. -/
def Ctx.breaksAt (c : Ctx) (a : BitVec 32) : Bool :=
  !c.noBrk && (List.range 4).any (fun i => (look {} c.brk i).en && (look {} c.brk i).addr == a.extractLsb' 2 30)

/-- R20, R103, R112, R114: what the next bundle of a context would do. A sync bundle whose resume has come and whose other interlocks fail again (a
secondary has taken its streaming slot) waits for them, R114: the model's choice, for R34 names the cycle alone (log 98). A sync bundle under unresolved
branches is not ready, and a trap of the header or heads comes before the bundle's interlocks are tested: choices of the model too (log 102). -/
def State.plan (s : State) (k : Nat) (off : Nat → Nat) : Plan :=
  let c := s.ctx k
  if !c.runs || c.stopped s.now then .blocked else
  match s.fetch c.img c.live.pc with
  | .trap a t => if c.breaksAt a then .trap a { ord := 0, widx := 255, cause := causeBreak, tval := a.zeroExtend 64 } else .trap a t
  | .bundle b =>
    let guard := c.live.guardOf b.hdr
    if c.breaksAt b.start then .trap b.start { ord := 0, widx := 255, cause := causeBreak, tval := b.start.zeroExtend 64 } else
    match c.syncTo with
    | some l => .trap b.start { ord := 6, widx := 0, cause := causeSync, tval := BitVec.ofNat 64 l }
    | none => match s.headerTrap k b guard with
      | some t => .trap b.start t
      | none =>
        if s.interlocked k off b guard then .blocked
        else match b.hdr with
          | some f =>
            if f.s && c.pendSync != some f.line.toNat then
              if c.speculative then .blocked
              else .sync b ((s.line f.line.toNat).arr.any (fun x => x.1 == k))
            else .issue b
          | none => .issue b

/-- No slot taken by a primary. -/
def noOffset (_ : Nat) : Nat := 0

/-- R20: a context is ready when it runs and its next bundle passes every interlock. -/
def State.ready (s : State) (k : Nat) : Bool := s.plan k noOffset != .blocked

/-- R20: the first ready context after `h`, wrapping, `h` itself last. -/
def State.chooseNext (s : State) (core h : Nat) : Option Nat :=
  (((List.range 8).map (fun i => (h + 1 + i) % 8))).find? (fun x => s.ready (ctxKey core x))

/-- R22: the merge candidate: the lowest-numbered ready context other than the primary. -/
def State.candidate (s : State) (core primary : Nat) : Option Nat :=
  (List.range 8).find? (fun x => x != primary && s.ready (ctxKey core x))

/-- R101: how many words of a class a bundle holds; a P word counts as S. -/
def Bundle.count (b : Bundle) (c : Nat) : Nat :=
  (b.words.filter (fun w => w.instr.cls == c || (c == 1 && w.instr.cls == 9))).length

/-- R101: slots of a class. -/
def classSlots (c : Nat) : Nat := match c with
  | 1 => 2
  | 2 => 2
  | 3 => 3
  | _ => 1

/-- R101: two bundles hold between them no more words of any class than it has slots. -/
def slotsFree (a b : Bundle) : Bool := ([1, 2, 3, 4, 5, 6, 7, 8]).all (fun c => decide (a.count c + b.count c ≤ classSlots c))

/-- R22: a header without `s` and without `y`. -/
def plainHeader (b : Bundle) : Bool := match b.hdr with
  | some f => !f.s && !f.y
  | none => true

/-- R22: the conditions on a candidate's own bundle. -/
def mayFollow (b : Bundle) : Bool := plainHeader b && !b.latches

end Sys2Proof.Machine
end

