-- ==== Sys2Proof/Machine/Vector.lean ====
section
/-! DEFINITION. Regions: their checks, rates, elements and encodings; what the V commands compute (R211 to R231). -/

namespace Sys2Proof.Machine

/-! ### Regions (R211, R213) -/

/-- R50: records that a bank holds. -/
def recsPerBank (fmt : Nat) : Nat := match fmt with
  | 7 => 15420
  | 8 => 10485
  | _ => 7943

/-- R213: the offset within its bank of the base of a descriptor. -/
def Desc.bankOff (d : Desc) : Nat := d.base.toNat % 0x40000

/-- R213: the first and the last element of a region lie in its bank. -/
def Desc.spanOk (d : Desc) (esz : Nat) : Bool :=
  let last : Int := d.bankOff + ((d.count.toNat : Int) - 1) * d.stride.toInt * esz
  d.base.toNat % esz == 0 && (d.count == 0 || (decide (0 ≤ last) && decide (last + esz ≤ 0x40000)))

/-- R50: a region of a record bank. -/
def Desc.recordsOk (d : Desc) (fmt : Nat) : Bool :=
  d.bankOff % recSize fmt == 0 && d.stride == 1 && d.count.toNat % 32 == 0 &&
    decide (d.bankOff / recSize fmt + d.count.toNat / 32 ≤ recsPerBank fmt) && decide (d.bankOff / recSize fmt < recsPerBank fmt)

/-- R213: the conditions on a region that do not depend on the instruction. -/
def Desc.regionOk (d : Desc) (fmt : Nat) : Bool :=
  decide (d.base.toNat < 0x400000) && (if isRecFmt fmt then d.recordsOk fmt else d.spanOk (eltSize fmt))

/-- R221: a raw side that moves whole records. -/
def Desc.rawRecordsOk (d : Desc) (fmt : Nat) : Bool :=
  decide (d.base.toNat < 0x400000) && d.stride == 1 && d.count.toNat % 32 == 0 &&
    decide (d.bankOff + d.count.toNat / 32 * recSize fmt ≤ 0x40000)

/-- R211, R53: the format of a descriptor's region, sampled for the context in hand. -/
def State.fmtOfDesc (s : State) (d : Desc) : Nat := s.fmtOf s.key (d.base.toNat / 0x40000)

/-- The region a descriptor of the context in hand names. -/
def State.region (s : State) (n : BitVec 4) : Region :=
  let d := s.cur.live.desc n.toNat
  { base := gsaOf s.iss.core d.base.toNat, stride := d.stride.toInt, count := d.count.toNat, fmt := s.fmtOfDesc d }

/-- What an instruction asks of a region: the count it must have, the formats it may have (R213, R218), conditions of its own, and,
of a raw side of a copy, the format of the other side (R221). -/
structure Need where
  d : BitVec 4
  count : Option Nat
  fmt : Nat → Bool := fun x => !isRawFmt x
  also : Desc → Bool := fun _ => true
  moves : Option Nat := none

/-- R213: does a descriptor of the context in hand meet a need? -/
def State.meets (s : State) (n : Need) : Bool :=
  let d := s.cur.live.desc n.d.toNat
  let fmt := s.fmtOfDesc d
  (match n.moves with
    | some x => if isRecFmt x then d.rawRecordsOk x else decide (d.base.toNat < 0x400000) && d.spanOk (eltSize x)
    | none => d.regionOk fmt) && n.fmt fmt && n.also d && (match n.count with
    | some c => d.count.toNat == c
    | none => true)

/-- R213, R379: the first region, in the order of the fields, that breaks a need raises the region-alignment trap with its packed
descriptor. -/
def State.regions (s : State) (ns : List Need) (body : State → Out) : Out :=
  match ns.find? (fun n => !s.meets n) with
  | some n => s.raise 6 causeRegion (s.cur.live.desc n.d.toNat).pack
  | none => body s

/-! ### Streaming time (R214) -/

/-- R214: the rate of a region and its extra start cycle. -/
def Region.rate (r : Region) : Nat × Nat :=
  let a := r.stride.natAbs
  if r.stride = 0 then (64, 0)
  else if r.stride = 1 ∧ r.base % 128 = 0 then (64, 0)
  else if a = 1 then (64, 1)
  else if a ≤ 16 then (64 / a, 1)
  else (4, 1)

/-- R214: cycles a region takes at its rate divided by `div` (R214 for F, R255 for `v.skh`). -/
def Region.time (r : Region) (div : Nat := 1) : Nat :=
  let (x, e) := r.rate
  e + ceilDiv r.count (max 1 (x / div))

/-- R214: cycles of the indexed side of `v.gath` and `v.scat`. -/
def Region.indexedTime (r : Region) : Nat := 1 + ceilDiv r.count 16

/-- R214: the streaming time: the largest of its regions', never less than 1. -/
def longest (ts : List Nat) : Nat := ts.foldl max 1

/-! ### Elements -/

/-- The stored bits of the elements. -/
def Region.bits (r : Region) (esz : Nat) (m : Memory) : List Nat := (List.range r.count).map (fun k => m.num (r.elem esz k) esz)
/-- The records of a region of records of a kind. -/
def Region.recs (r : Region) (fmt : Nat) (m : Memory) : List (List Byte) :=
  (List.range (r.count / 32)).map (fun i => m.readN (r.base + i * recSize fmt) (recSize fmt))
/-- R57: the decoded elements with the flags of each decode. -/
def Region.decoded (r : Region) (m : Memory) : List (Fp × Flags) :=
  if isRecFmt r.fmt then (r.recs r.fmt m).flatMap (decodeRec r.fmt) else (r.bits (eltSize r.fmt) m).map (decodeScalar r.fmt)
/-- The elements of an integer region. -/
def Region.ints (r : Region) (m : Memory) : List Int := (r.bits (eltSize r.fmt) m).map (intVal r.fmt)
/-- Writes of stored bits, in element order. -/
def Region.putBits (r : Region) (esz : Nat) (xs : List Nat) : List ElemW :=
  (List.zip (List.range xs.length) xs).map (fun x => { addr := r.elem esz x.1, bytes := bytesOf esz x.2 })
/-- Writes of whole records. -/
def Region.putRecs (r : Region) (fmt : Nat) (xs : List (List Byte)) : List ElemW :=
  (List.zip (List.range xs.length) xs).map (fun x => { addr := r.base + x.1 * recSize fmt, bytes := x.2 })

/-- R65: writes with the flags each raises. -/
def flagged (ws : List ElemW) (fls : List Flags) : List ElemW :=
  List.zipWith (fun w fl => { w with fl := w.fl ||| fl }) ws (fls ++ List.replicate ws.length 0)
/-- R65: writes into a region with the flags of its elements; a record raises those of its 32. -/
def Region.mark (r : Region) (ws : List ElemW) (fls : List Flags) : List ElemW :=
  flagged ws (if isRecFmt r.fmt then (chunksOf 32 (fls.length / 32 + 1) fls).map orFlags else fls)

/-- R63: values rounded once into a region: its writes and their flags. -/
def Region.encode (r : Region) (md : Rnd) (xs : List Fp) : List ElemW × Flags :=
  if isRecFmt r.fmt then
    let cs := (chunksOf 32 (xs.length / 32 + 1) xs).map (encodeRec r.fmt md)
    (flagged (r.putRecs r.fmt (cs.map Prod.fst)) (cs.map Prod.snd), orFlags (cs.map Prod.snd))
  else
    let cs := xs.map (encodeScalar r.fmt md)
    (flagged (r.putBits (eltSize r.fmt) (cs.map Prod.fst)) (cs.map Prod.snd), orFlags (cs.map Prod.snd))

/-- R63: exact integers in 64-bit two's complement, saturated to an integer region. -/
def Region.saturate (r : Region) (xs : List Int) : List ElemW × Flags :=
  let cs := xs.map (fun x => satInt r.fmt (toSigned 64 (fromSigned 64 x)))
  (flagged (r.putBits (eltSize r.fmt) (cs.map Prod.fst)) (cs.map Prod.snd), orFlags (cs.map Prod.snd))

/-- What a command computes: its writes in element order, its flags, its `b4` value, and a lane pattern to load. -/
structure VRes where
  out : List ElemW := []
  flags : Flags := 0
  b4 : W64 := 0
  pat : List Byte := []
deriving DecidableEq, Repr

/-- R64: the flags of consuming one decoded element. -/
def consumed1 (x : Fp × Flags) : Flags := x.2 ||| x.1.consume
/-- R64: the flags of consuming decoded elements. -/
def consumed (xs : List (Fp × Flags)) : Flags := orFlags (xs.map consumed1)

/-- Columns to rows; a row for each of `n` elements. -/
def zipCols {α : Type} (n : Nat) (cols : List (List α)) : List (List α) :=
  cols.foldr (fun c acc => List.zipWith (fun x xs => x :: xs) c acc) (List.replicate n [])

/-! ### Elementwise arithmetic (R219, R220, R63) -/

/-- The operations of R219 on integers; the operands in the order a, b, c, or a, s, d. -/
def intOp (i : Instr) (xs : List Int) : Int :=
  match i, xs with
  | .vAdd _, [a, b] => a + b
  | .vSub _, [a, b] => a - b
  | .vMul _, [a, b] => a * b
  | .vFma _, [a, b, c] => a * b + c
  | .vMax _, [a, b] => max a b
  | .vMin _, [a, b] => min a b
  | .vAbs _, [a] => (a.natAbs : Int)
  | .vNeg _, [a] => -a
  | .vScal _, [s, a] => a * s
  | .vAxpy _, [s, a, d] => s * a + d
  | .vFill _, [s] => s
  | .vClip _, [a, b, c] => min (max a b) c
  | _, _ => 0

/-- The operations of R219 on FP32 values, exact before the one rounding. -/
def fpOp (i : Instr) (xs : List Fp) : Fp :=
  match i, xs with
  | .vAdd _, [a, b] => a.add b
  | .vSub _, [a, b] => a.sub b
  | .vMul _, [a, b] => a.mul b
  | .vFma _, [a, b, c] => (a.mul b).add c
  | .vMax _, [a, b] => a.max b
  | .vMin _, [a, b] => a.min b
  | .vAbs _, [a] => a.abs
  | .vNeg _, [a] => a.neg
  | .vScal _, [s, a] => a.mul s
  | .vAxpy _, [s, a, d] => (s.mul a).add d
  | .vFill _, [s] => s
  | .vClip _, [a, b, c] => (a.max b).min c
  | _, _ => .nan

/-- The scalar of a VS form of R219: with `.i64` an integer, else an FP32 value. -/
inductive VScalar where
  | none
  | int (x : Int)
  | fp (v : Fp)
deriving DecidableEq, Repr

/-- R219: is the scalar one the integer domain takes? -/
def VScalar.integer : VScalar → Bool
  | .fp _ => false
  | _ => true

/-- R219: the scalar as a column of integers. -/
def VScalar.ints (n : Nat) : VScalar → List (List Int)
  | .int x => [List.replicate n x]
  | _ => []

/-- R219: the scalar as a column of FP32 values; an integer is rounded first, which may set `nx`. -/
def VScalar.fps (n : Nat) : VScalar → List (List (Fp × Flags))
  | .none => []
  | .int x => [List.replicate n (f32Of (Fp.ofInt x))]
  | .fp v => [List.replicate n (v, 0)]

/-- R219: an elementwise command of `n` elements. -/
def elementwise (i : Instr) (dd : Region) (n : Nat) (sc : VScalar) (srcs : List Region) (m : Memory) : VRes :=
  if sc.integer && (dd :: srcs).all (fun r => isIntFmt r.fmt) then
    let (o, fl) := dd.saturate ((zipCols n (sc.ints n ++ srcs.map (fun r => r.ints m))).map (intOp i))
    { out := o, flags := fl }
  else
    let cols := sc.fps n ++ srcs.map (fun r => r.decoded m)
    let (o, fl) := dd.encode .rne ((zipCols n (cols.map (fun c => c.map Prod.fst))).map (fpOp i))
    { out := dd.mark o ((zipCols n (cols.map (fun c => c.map consumed1))).map orFlags), flags := fl ||| orFlags (cols.map consumed) }

/-- R219: the scalar `md` selects. -/
def scalarOf (md : BitVec 6) (v : W64) : VScalar := if md.getLsbD 0 then .int v.toInt else .fp (f32Val (v.extractLsb' 0 32))

/-! ### Conversion, compare, select (R221 to R223) -/

/-- R60: one element moved between two formats that are not records on the destination side: its bits and flags. -/
def convertBits (df : Nat) (md : Rnd) (sf b : Nat) : Nat × Flags :=
  if sf = df then (b, 0)
  else if isIntFmt sf then encodeScalar df md (Fp.ofInt (intVal sf b))
  else
    let v := (ieeeOf sf).decode b
    let (x, fl) := encodeScalar df md v
    (x, fl ||| v.consume)

/-- R60: the elements of a region converted to a scalar format, each with its flags. -/
def Region.converted (r : Region) (df : Nat) (md : Rnd) (m : Memory) : List (Nat × Flags) :=
  if isRecFmt r.fmt then (r.decoded m).map (fun x =>
    let (b, fl) := encodeScalar df md x.1
    (b, fl ||| x.2 ||| x.1.consume))
  else (r.bits (eltSize r.fmt) m).map (convertBits df md r.fmt)

/-- R221: a copy; a raw side has been given the format of the other side, so equal formats move stored bits. -/
def copyRegion (dd da : Region) (md : Rnd) (m : Memory) : VRes :=
  if da.fmt = dd.fmt then
    if isRecFmt dd.fmt then { out := dd.putRecs dd.fmt (da.recs da.fmt m) }
    else { out := dd.putBits (eltSize dd.fmt) (da.bits (eltSize da.fmt) m) }
  else if isRecFmt dd.fmt then
    let xs := da.decoded m
    let (o, fl) := dd.encode md (xs.map Prod.fst)
    { out := dd.mark o (xs.map consumed1), flags := fl ||| consumed xs }
  else
    let cs := da.converted dd.fmt md m
    { out := flagged (dd.putBits (eltSize dd.fmt) (cs.map Prod.fst)) (cs.map Prod.snd), flags := orFlags (cs.map Prod.snd) }

/-- R222: the conditions of `v.cmp` on the order of two operands, `none` when one is NaN. -/
def cmpHolds (md : Nat) (o : Option Ordering) : Bool := match md with
  | 0 => o == some .eq
  | 1 => o != some .eq
  | 2 => o == some .lt
  | 3 => o == some .lt || o == some .eq
  | 4 => o == some .gt
  | 5 => o == some .gt || o == some .eq
  | 6 => o == none
  | _ => o != none

/-- 1 or 0. -/
def Fp.ofBool (b : Bool) : Fp := if b then .fin false 1 0 else .zero

/-- R222: no flag but `nf`, and those of an encode into a record. -/
def compareRegion (md : Nat) (dd da db : Region) (m : Memory) : VRes :=
  let (ts, fls) : List Bool × List Flags :=
    if isIntFmt da.fmt && isIntFmt db.fmt then
      (List.zipWith (fun a b => cmpHolds md (some (compare a b))) (da.ints m) (db.ints m), [])
    else
      let a := (da.decoded m).map Prod.fst
      let b := (db.decoded m).map Prod.fst
      (List.zipWith (fun a b => cmpHolds md (a.cmpNum b)) a b, List.zipWith (fun x y => x.consume ||| y.consume) a b)
  let (o, fe) := dd.encode .rne (ts.map Fp.ofBool)
  let o := if isRecFmt dd.fmt then o else o.map (fun w => { w with fl := 0 })
  { out := dd.mark o fls, flags := orFlags fls ||| (if isRecFmt dd.fmt then fe else 0) }

/-- R223: nonzero or NaN. -/
def Fp.selects (v : Fp) : Bool := !v.isZero

/-- R223: element by element, from the first list where the test holds, else from the second. -/
def pickBy {α : Type} (cs : List Fp) (a b : List α) : List α :=
  List.zipWith (fun c (x : α × α) => if c.selects then x.1 else x.2) cs (List.zip a b)

/-- R223: only the selected value's conversion and the tests set flags. -/
def selectRegion (dd da db dc : Region) (m : Memory) : VRes :=
  let cs := (dc.decoded m).map Prod.fst
  let fc := cs.map Fp.consume
  if isIntFmt da.fmt && isIntFmt db.fmt && isIntFmt dd.fmt then
    let (o, fl) := dd.saturate (pickBy cs (da.ints m) (db.ints m))
    { out := dd.mark o fc, flags := fl ||| orFlags fc }
  else
    let xs := pickBy cs (da.decoded m) (db.decoded m)
    let (o, fl) := dd.encode .rne (xs.map Prod.fst)
    { out := dd.mark o (List.zipWith (fun x f => consumed1 x ||| f) xs fc), flags := fl ||| consumed xs ||| orFlags fc }

/-! ### Bits, ramps, indices (R224 to R226) -/

/-- R224: a bitwise operation. -/
def bitsRegion (op : Nat → Nat → Nat) (dd da db : Region) (m : Memory) : VRes :=
  let e := eltSize dd.fmt
  { out := dd.putBits e (List.zipWith op (da.bits e m) (db.bits e m)) }

/-- R224: a shift of one element of `w` bits by `h`. -/
def shiftElem (left arith : Bool) (w h b : Nat) : Nat :=
  if left then (if w ≤ h then 0 else b * 2 ^ h % 2 ^ w)
  else if arith then fromSigned w (toSigned w b / 2 ^ (min h (w - 1)))
  else if w ≤ h then 0 else b / 2 ^ h

/-- R224: a shift. -/
def shiftRegion (left arith : Bool) (h : Nat) (dd da : Region) (m : Memory) : VRes :=
  let e := eltSize dd.fmt
  { out := dd.putBits e ((da.bits e m).map (shiftElem left arith (8 * e) h)) }

/-- R225: a ramp. -/
def iotaRegion (dd : Region) (v t : Int) : VRes :=
  let (o, fl) := dd.encode .rne ((List.range dd.count).map (fun k : Nat => Fp.ofInt (v + k * t)))
  { out := o, flags := fl }

/-- R226: elements of `da` picked by position (`none` gives zero) into `dd`. -/
def pickRegion (dd da : Region) (ps : List (Option Nat)) (m : Memory) : VRes :=
  if isRecFmt dd.fmt then
    let src := (da.decoded m)
    let xs : List (Fp × Flags) := ps.map (fun p => match p with
      | some j => src.getD j (.zero, 0)
      | none => (.zero, 0))
    let (o, fl) := dd.encode .rne (xs.map Prod.fst)
    { out := dd.mark o (xs.map consumed1), flags := fl ||| consumed xs }
  else
    let src := (da.converted dd.fmt .rne m)
    let cs : List (Nat × Flags) := ps.map (fun p => match p with
      | some j => src.getD j (0, 0)
      | none => (0, 0))
    { out := flagged (dd.putBits (eltSize dd.fmt) (cs.map Prod.fst)) (cs.map Prod.snd), flags := orFlags (cs.map Prod.snd) }

/-- An index within a count. -/
def indexIn (m : Nat) (j : Int) : Option Nat := if 0 ≤ j ∧ j < m then some j.toNat else none

/-- R226: a gather. -/
def gatherRegion (dd da db : Region) (m : Memory) : VRes := pickRegion dd da ((db.ints m).map (indexIn da.count)) m

/-- R226: a permutation within chunks of 64. -/
def permRegion (dd da db : Region) (m : Memory) : VRes :=
  let js := db.ints m
  pickRegion dd da ((List.zip (List.range js.length) js).map (fun x => indexIn da.count (64 * (x.1 / 64 : Nat) + x.2 % 64))) m

/-- R226: a scatter, in ascending order. -/
def scatterRegion (dd da db : Region) (m : Memory) : VRes :=
  let e := eltSize dd.fmt
  let xs := (List.zip (db.ints m) (da.converted dd.fmt .rne m)).filterMap (fun x => (indexIn dd.count x.1).map (fun j => (j, x.2)))
  { out := xs.map (fun x => { addr := dd.elem e x.1, bytes := bytesOf e x.2.1, fl := x.2.2 }), flags := orFlags (xs.map (fun x => x.2.2)) }

/-! ### Reductions and counts (R227, R229) -/

/-- R227: an exact integer sum saturated to 64 bits. -/
def satSum (x : Int) : VRes :=
  let y := clampInt x (-(2 ^ 63)) (2 ^ 63 - 1)
  { b4 := BitVec.ofInt 64 y, flags := if y = x then 0 else flagOf ||| flagNx }

/-- FP32 bits in a result word. -/
def fpWord (v : Fp) : W64 := (f32Bits v).zeroExtend 64

/-- R227: a sum in the order of R66. -/
def sumRegion (da : Region) (m : Memory) : VRes :=
  if isIntFmt da.fmt then satSum ((da.ints m).foldl (· + ·) 0)
  else
    let xs := da.decoded m
    let (v, fl) := reduceSum (xs.map Prod.fst)
    { b4 := fpWord v, flags := fl ||| consumed xs }

/-- R227: a dot product. -/
def dotRegion (da db : Region) (m : Memory) : VRes :=
  if isIntFmt da.fmt && isIntFmt db.fmt then satSum ((List.zipWith (· * ·) (da.ints m) (db.ints m)).foldl (· + ·) 0)
  else
    let a := da.decoded m
    let b := db.decoded m
    let ts := List.zipWith (fun x y => f32Of (x.1.mul y.1)) a b
    let (v, fl) := reduceSum (ts.map Prod.fst)
    { b4 := fpWord v, flags := fl ||| orFlags (ts.map Prod.snd) ||| consumed a ||| consumed b }

/-- The best of a list with the position of its first occurrence. -/
def bestOf {α : Type} (better : α → α → Bool) : List (Nat × α) → Option (Nat × α)
  | [] => none
  | x :: xs => some (xs.foldl (fun b y => if better y.2 b.2 then y else b) x)

/-- R227: a maximum (`mx`) or minimum, with the index in the high half when `idx`. -/
def extremeRegion (mx idx : Bool) (da : Region) (m : Memory) : VRes :=
  let pack := fun (v : W64) (k : Nat) => if idx then BitVec.ofNat 64 (v.toNat % 2 ^ 32 + k * 2 ^ 32) else v
  let none' : Nat := 0xFFFFFFFF
  if isIntFmt da.fmt then
    match bestOf (fun x y => if mx then decide (y < x) else decide (x < y)) (List.zip (List.range da.count) (da.ints m)) with
    | some (k, x) => { b4 := pack (BitVec.ofInt 64 x) k }
    | none => { b4 := pack (if mx then BitVec.ofInt 64 (-(2 ^ 63)) else BitVec.ofInt 64 (2 ^ 63 - 1)) none' }
  else
    let xs := da.decoded m
    let vs := List.zip (List.range da.count) (xs.map Prod.fst)
    let (k, v) : Nat × Fp := match vs.find? (fun x => x.2.isNan) with
      | some x => x
      | none => match bestOf (fun x y => if mx then y.lt x else x.lt y) vs with
        | some x => x
        | none => (none', .inf mx)
    { b4 := pack (fpWord v) k, flags := consumed xs }

/-- R229: count the non-finite elements; with `.m` mark them. -/
def nfCheck (mark : Bool) (dd da : Region) (m : Memory) : VRes :=
  let ts : List Bool := if isIntFmt da.fmt then List.replicate da.count false else (da.decoded m).map (fun x => x.1.nonFinite)
  let c := (ts.filter id).length
  { b4 := BitVec.ofNat 64 c, flags := if c = 0 then 0 else flagNf,
    out := if mark then dd.mark ((dd.encode .rne (ts.map Fp.ofBool)).1.map (fun w => { w with fl := 0 })) (ts.map (fun b => if b then flagNf else 0)) else [] }

/-! ### Pulse masks and rescaling (R230, R231) -/

/-- R230: the threshold of a probability. -/
def pulseThreshold (v : Fp) : Nat := match v with
  | .nan => 0
  | .inf _ => 256
  | v => (((v.abs.min (.fin false 1 0)).mul (.fin false 1 8)).toIntRnd .rne).toNat

/-- R230: one mask byte. -/
def pulseByte (t : Nat) (bs : List Nat) : Nat := maskOf ((List.range 8).filter (fun j => decide (bs.getD j 0 < t)))

/-- R230: pulse masks; no flag but `nf`. -/
def pulseRegion (dd da db : Region) (m : Memory) : VRes :=
  let vs := (da.decoded m).map Prod.fst
  let rows := chunksOf 8 (vs.length + 1) (db.bits 1 m)
  { out := flagged (dd.putBits 1 (List.zipWith (fun v r => pulseByte (pulseThreshold v) r) vs rows)) (vs.map Fp.consume),
    flags := orFlags (vs.map Fp.consume) }

/-- R231: does a record hold a nonzero element code? -/
def codesNonzero (fmt : Nat) (r : List Byte) : Bool := (recCodes fmt r).any (fun c => match fmt with
  | 7 => c % 8 != 0
  | 8 => c % 32 != 0
  | _ => c != 0)

/-- R231: one record rescaled. -/
def rescaleRec (fmt : Nat) (δ : Int) (r : List Byte) : List Byte × Flags :=
  let S := recScale r
  let blank := List.replicate (recSize fmt - 1) (0 : Byte)
  if S = 0 ∨ S = 255 then (r, 0)
  else if 254 < S + δ then (255 :: blank, flagOf ||| flagNx ||| flagNf)
  else if S + δ < 1 then (0 :: blank, if codesNonzero fmt r then flagUf ||| flagNx else 0)
  else (BitVec.ofInt 8 (S + δ) :: r.drop 1, 0)

/-- R231: records rescaled. -/
def rescaleRegion (δ : Int) (dd da : Region) (m : Memory) : VRes :=
  let rs := (da.recs da.fmt m).map (rescaleRec da.fmt δ)
  { out := flagged (dd.putRecs dd.fmt (rs.map Prod.fst)) (rs.map Prod.snd), flags := orFlags (rs.map Prod.snd) }

end Sys2Proof.Machine
end

