-- ==== Sys2Proof/Machine/Engine.lean ====
section
/-! DEFINITION. What T, A and Q words share: their records, their traps, their status, their command (R183 to R185, R264 to R266,
R384); regions named by an address field; results that wait in a command. -/

namespace Sys2Proof.Machine

/-! ### Records -/

/-- A field of `n` bytes at offset `o` of sampled bytes (R1). -/
def fld (bs : List Byte) (o n : Nat) : Nat := ofBytes ((bs.drop o).take n)
/-- A signed field. -/
def sfld (bs : List Byte) (o n : Nat) : Int := toSigned (8 * n) (fld bs o n)
/-- Are `n` bytes at offset `o` all zero? -/
def zeros (bs : List Byte) (o n : Nat) : Bool := fld bs o n == 0

/-- The bytes of a local offset of the context in hand, its held stores as if performed (R118). -/
def State.localBytes (s : State) (off n : Nat) : List Byte := (s.view s.key).readN (gsaOf s.iss.core off) n

/-- R183, R264: a word that takes a record of `n` bytes: the address fault, and the overflow of the token it would arm (R185). A record that starts below
0x400000 and runs past it reads on in the accumulators: the model's choice, R183 tests where it starts (log 98). -/
def State.withRecord (s : State) (f : TQ) (n : Nat) (body : List Byte → State → Out) : Out :=
  let a := s.recordAddr f
  if !recordAddrOk a then s.raise 6 causeAddress a
  else if s.tokFull f.kw f.k.toNat then s.raise 6 causeToken (BitVec.ofNat 64 (2 ^ f.k.toNat))
  else
    let a := a.toNat
    let s := s.touch (gsaOf s.iss.core a) n
    body (s.localBytes a n) (s.observe s.key s.iss.when_ (s.tagsOf s.iss.core (gsaOf s.iss.core a) n))

/-- R185: a word without a record that may arm its token. -/
def State.withToken (s : State) (f : TQ) (body : State → Out) : Out :=
  if s.tokFull f.kw f.k.toNat then s.raise 6 causeToken (BitVec.ofNat 64 (2 ^ f.k.toNat)) else body s

/-- R118: a T, A or Q word acts at once, or waits in the commit buffer with what it sampled. -/
def State.act (s : State) (i : Instr) (val : W64) (recs : List (List Byte)) (perform : W64 → List (List Byte) → State → State) : Out :=
  .next (if s.cur.speculative then s.hold (.word i val recs s.iss.sec s.iss.when_) else perform val recs s)

/-- A table of `n` entries of `sz` bytes lies wholly below 0x400000 and is aligned (R275, R294). -/
def tableOk (a n sz al : Nat) : Bool := a % al == 0 && decide (a + n * sz ≤ 0x400000)

/-- R265: a barrier field whose reserved bits are 0. -/
def barOk (b : Nat) : Bool := b / 8 % 16 == 0
/-- R265: the token a barrier names. -/
def barTok (b : Nat) : Option Nat := if b.testBit 7 then some (b % 8) else none

/-- The priorities of statuses in `b5` (R108). -/
def prioT : Nat := 0
/-- R108. -/
def prioA : Nat := 1
/-- R108. -/
def prioQ : Nat := 2
/-- R108. -/
def prioP : Nat := 3

/-- R184, R264: a rejected word: its status, and its token armed and signalled with `err`. -/
def State.reject (s : State) (f : TQ) (prio status : Nat) : State :=
  (s.rejectTok s.key f.kw f.k.toNat).status prio (BitVec.ofNat 64 status)

/-- R217: the V, F and X commands of the context in hand that issued before the word in hand and are not complete. -/
def State.earlierStreams (s : State) : List Nat :=
  (s.cmds.filter (fun c => c.core == s.iss.core && c.h == s.iss.h && decide (c.born < s.iss.when_) && match c.kind with
    | .stream _ _ _ => true
    | _ => false)).map (fun c => c.id)

/-- R264, R184: an accepted word's command: it enters its queue in this cycle, its token is armed, its status is 0;
one that reads scratchpad waits for earlier V, F and X commands (R217). -/
def State.accept (s : State) (f : TQ) (prio : Nat) (kind : CmdKind) (bar : Option Nat) (reads : Bool) (raw : List Byte) : State :=
  let (id, s) := s.freshId
  let s := s.armIf s.key f.kw f.k.toNat
  let cmd : Cmd := { id := id, core := s.iss.core, h := s.iss.h, kind := kind, tok := if f.kw then some f.k.toNat else none,
                     bar := bar, born := s.now, after := if reads then s.earlierStreams else [], raw := raw }
  ({ s with cmds := s.cmds ++ [cmd] }).status prio 0

/-- May a queued command start: not in its entry cycle, its barrier satisfied, the commands it waits for complete (R265, R269,
R282, R217)? -/
def State.mayStart (s : State) (c : Cmd) : Bool :=
  decide (c.born < s.now) && c.bar.isNone && c.after.all (fun i => (s.cmd? i).isNone)

/-- The first `n` bytes of a list, padded with zero bytes. -/
def padTo (n : Nat) (bs : List Byte) : List Byte := (bs ++ List.replicate n 0).take n

/-- R387: the sampled record and tables of a grouped command: 112 bytes, then counts, offsets and descriptors. -/
def groupedRaw (b cnts offs descs : List Byte) : List Byte := padTo 112 b ++ padTo 256 cnts ++ padTo 256 offs ++ padTo 1536 descs

/-! ### Regions named by an address field (R213, R268, R284) -/

/-- R213, R50, R54: a contiguous region of `count` elements at a local offset, in a bank of format `fmt`. -/
def plainOk (fmt base count : Nat) : Bool :=
  decide (base < 0x400000) && !isRawFmt fmt &&
    (if isRecFmt fmt then
      base % 0x40000 % recSize fmt == 0 && count % 32 == 0 && decide (base % 0x40000 / recSize fmt + count / 32 ≤ recsPerBank fmt)
    else base % eltSize fmt == 0 && decide (base % 0x40000 + count * eltSize fmt ≤ 0x40000))

/-- R57: the elements in contiguous bytes. -/
def plainDecode (fmt : Nat) (bs : List Byte) : List (Fp × Flags) :=
  if isRecFmt fmt then (chunksOf (recSize fmt) (bs.length + 1) bs).flatMap (decodeRec fmt)
  else (chunksOf (eltSize fmt) (bs.length + 1) bs).map (fun e => decodeScalar fmt (ofBytes e))

/-- R58, R60, R63: contiguous elements encoded, block by block for records. -/
def plainEncode (fmt : Nat) (xs : List Fp) : List (List Byte) × Flags :=
  if isRecFmt fmt then
    let cs := (chunksOf 32 (xs.length / 32 + 1) xs).map (encodeRec fmt .rne)
    (cs.map Prod.fst, orFlags (cs.map Prod.snd))
  else
    let cs := xs.map (encodeScalar fmt .rne)
    (cs.map (fun c => bytesOf (eltSize fmt) c.1), orFlags (cs.map Prod.snd))

/-- R63, R64, R65: contiguous values encoded: the bytes of each element, of each record in a block format, with the flags its write raises. -/
def encodePieces (fmt : Nat) (xs : List Fp) : List (List Byte × Flags) :=
  if isRecFmt fmt then (chunksOf 32 (xs.length / 32 + 1) xs).map (fun r =>
    let (b, fl) := encodeRec fmt .rne r
    (b, fl ||| orFlags (r.map Fp.consume)))
  else xs.map (fun x =>
    let (b, fl) := encodeScalar fmt .rne x
    (bytesOf (eltSize fmt) b, fl ||| x.consume))

/-- Consecutive element writes from a store key. -/
def writesFrom : Nat → List (List Byte) → List ElemW
  | _, [] => []
  | a, b :: bs => { addr := a, bytes := b } :: writesFrom (a + b.length) bs

/-- R53: the formats of the 16 banks of the context in hand, sampled, as one byte each. -/
def State.bankFmts (s : State) : List Byte := (List.range 16).map (fun b => BitVec.ofNat 8 (s.fmtOf s.key b))
/-! ### Reads of an engine, and results that wait -/

/-- An engine of a core reads local bytes (R89): elements that other commands are writing are old or new. -/
def State.engineRead (s : State) (core off n : Nat) : List Byte × State :=
  let s := s.touch (gsaOf core off) n
  (s.mem.readN (gsaOf core off) n, s)

/-- Element writes a command will perform. -/
def State.publish (s : State) (id : Nat) (ws : List ElemW) : State := s.updCmd id (fun c => { c with out := c.out ++ ws })

/-- What a command read before a write stays read, but where its own writes came after it. -/
def Cmd.keepTaken (c d : Cmd) : Cmd :=
  { d with taken := c.taken.filter (fun w => !c.out.any (fun x => overlaps x.addr x.bytes.length w.addr w.bytes.length)) }

/-- Perform what a command has published, and set its flags in `csr.vstat` (R65). -/
def State.flush (s : State) (id : Nat) : State :=
  match s.cmd? id with
  | some c =>
    let k := ctxKey c.core c.h
    let s := s.updCmd id (fun c => { c with out := [], flags := 0 })
    let s := (c.out.foldl (fun s w => s.writeAt w.addr w.bytes (s.ctx k).released) s).updCmd id c.keepTaken
    if c.flags = 0 then s else s.updCtx k (fun x => x.setFlags c.flags)
  | none => s

/-- R185, R64: a command completes: its writes, its flags, its token. -/
def State.complete (s : State) (id : Nat) : State :=
  let s := s.flush id
  match s.cmd? id with
  | some c => (s.endCmdTok c c.nres c.err).dropCmd id
  | none => s

end Sys2Proof.Machine
end

