-- ==== Sys2Proof/Machine/Network.lean ====
section
/-! DEFINITION. Remote accesses on their way: routing between dies, stages, performing at the target, responses, acknowledgements,
arrival handlers (R30 to R32, R81, R82, R179, R182, R301 to R303, R310, R315, R316). -/

namespace Sys2Proof.Machine

/-! ### Links between dies -/

/-- R312: the other end of a link: (die, end). A spoke's other end is on Causeway, die 4 here. -/
def otherEnd (d n : Nat) : Option (Nat × Nat) :=
  if d = 4 then (if n < 4 then some (n, 2) else none)
  else match n with
    | 0 => some ((d + 1) % 4, 1)
    | 1 => some ((d + 3) % 4, 0)
    | 2 => some (4, d)
    | _ => none

/-- R199: 1 launch, 2 graph, 3 phase, 4 job. -/
def handleKind (h : Nat) : Nat := h / 2 ^ 28
/-- R199: the die of the scheduler that holds the record. -/
def handleDie (h : Nat) : Nat := h / 2 ^ 26 % 4

/-- R302, R310: are the `n` ring links clockwise from a die up? -/
def State.clockwiseUp (s : State) (d n : Nat) : Bool := (List.range n).all (fun i => (s.link ((d + i) % 4) 0).up)
/-- R302, R310: are the `n` ring links counter-clockwise from a die up? -/
def State.counterUp (s : State) (d n : Nat) : Bool := (List.range n).all (fun i => (s.link ((d + 4 - i) % 4) 1).up)

/-- R302, R310: the ring end by which traffic of die `d` for die `e` leaves: the direction with fewer hops, clockwise for a request and
counter-clockwise for a response when both take two, the other one while that path is down. -/
def State.route (s : State) (rsp : Bool) (d e : Nat) : Option Nat :=
  let c := (e + 4 - d) % 4
  let cw := s.clockwiseUp d c
  let cc := s.counterUp d (4 - c)
  if c < 2 || (c == 2 && !rsp) then (if cw then some 0 else if cc then some 1 else none)
  else (if cc then some 1 else if cw then some 0 else none)

/-- A virtual channel of a link end. -/
def LinkEnd.vc (l : LinkEnd) (v : Nat) : Vc := look {} l.vcs v
/-- Change a virtual channel. -/
def LinkEnd.setVc (l : LinkEnd) (v : Nat) (f : Vc → Vc) : LinkEnd := { l with vcs := put l.vcs v (f (l.vc v)) }

/-- The die an access, or its response, is bound for. -/
def Msg.bound (m : Msg) : Nat := if m.stage = .done then dieOf m.core else dieOf (gsaCore m.addr)
/-- The die an access, or its response, sets out from. -/
def Msg.source (m : Msg) : Nat := if m.stage = .done then dieOf (gsaCore m.addr) else dieOf m.core
/-- R310: the die where an access, or its response, stands while it is held for want of a path: the one it set out from, or one on its way. -/
def Msg.heldAt (m : Msg) : Nat := m.here.getD m.source

/-- R310: the die whose spoke carries the Causeway traffic of a die: its own, or its clockwise neighbour's, or its counter-clockwise neighbour's. -/
def State.spokeOf (s : State) (d : Nat) : Option Nat := [d, (d + 1) % 4, (d + 3) % 4].find? (fun e => (s.link e 2).up)

/-- R302, R310: the link end by which a packet of die `src` that stands at die `d` goes on to die `e`; Causeway is die 4, its ends the spokes. What a die
sends to Causeway uses the spoke of that die wherever it stands. -/
def State.nextEnd (s : State) (rsp : Bool) (src d e : Nat) : Option Nat :=
  if d = 4 then s.spokeOf e
  else if e = 4 then match s.spokeOf src with
    | some x => if x = d then some 2 else s.route rsp d x
    | none => none
  else s.route rsp d e

/-- R310: is there a working path for requests between two dies? -/
def State.hasPath (s : State) (d e : Nat) : Bool := d == e || (s.nextEnd false d d e).isSome

/-- Put packet `id` on a channel of a link end. -/
def State.putPacket (s : State) (vc : Nat) (rsp : Bool) (id d n : Nat) : State :=
  s.updLink d n (fun l => l.setVc vc (fun v => { v with outq := v.outq ++ [(rsp, id)] }))

/-- R303: how a packet leaves its die: by ring end 0 or 1 (1, 2), by its spoke (3), or from Causeway by spoke `n` (10 + n). -/
def wayCode (d n : Nat) : Nat := if d = 4 then 10 + n else n + 1

/-- R303: the way of a packet that goes on by an end: the one it left by, or 9 once it has had to turn on the ring. -/
def nextWay (way code : Nat) : Nat := if way = 0 then code else if 3 ≤ way ∨ code = 3 ∨ way = code then way else 9

/-- R303: is a packet of VC0 between two dies, of either sub-queue, on its way by another path than `w`? One that would leave by `w` waits for it, so that they
arrive in the order in which they left. -/
def State.strays (s : State) (src dst w : Nat) : Bool :=
  s.msgs.any (fun x => !x.home && x.way != 0 && x.way != w && x.source == src && x.bound == dst) ||
    s.mbs.any (fun x => x.src == src && x.to_ == dst && x.at_ != x.to_ && x.way != 0 && x.way != w)

/-- R303: does a packet of an access between the same dies, older than `m`, still wait at its egress? -/
def State.behind (s : State) (m : Msg) : Bool :=
  (s.msgs.takeWhile (fun x => x.id != m.id)).any (fun x => !x.home && x.way == 0 && x.source == m.source && x.bound == m.bound)

/-- R301 to R303, R310: put an access (or its response) that stands at die `d` on the link toward its die; it is held while there is no path, or while
an earlier one is on another path. -/
def State.onward (s : State) (m : Msg) (d : Nat) : State :=
  let rsp := m.stage == .done
  match s.nextEnd rsp m.source d m.bound with
  | none => s
  | some n =>
    let w := nextWay m.way (wayCode d n)
    if m.way = 0 ∧ (s.strays m.source m.bound w ∨ s.behind m) then s
    else (s.updMsg m.id (fun x => { x with way := w })).putPacket 0 rsp m.id d n

/-- R27, R301: put a micro-batch token that stands at die `d` on the link toward its die, unless it is there. A token from or for a die that has failed, whose
links stay down, is there at once, so that the phase there refuses its launches: the model's choice, R416 names no way (log 101). -/
def State.tokenOn (s : State) (m : MbMove) (d : Nat) : State :=
  if m.to_ = d then s
  else if (s.die m.to_).failed ∨ (s.die d).failed then { s with mbs := s.mbs.map (fun x : MbMove => if x.id = m.id then { x with at_ := x.to_ } else x) }
  else match s.nextEnd false m.src d m.to_ with
  | none => s
  | some n =>
    let w := nextWay m.way (wayCode d n)
    if m.way = 0 ∧ s.strays m.src m.to_ w then s
    else ({ s with mbs := s.mbs.map (fun x : MbMove => if x.id = m.id then { x with way := w } else x) }).putPacket 0 false m.id d n

/-- R301, R303: put a packet of VC1 to VC3 that stands at a die on the link toward its die. -/
def State.pktOn (s : State) (p : Packet) (d : Nat) : State := match s.nextEnd p.rsp p.src d p.to_ with
  | none => s
  | some n =>
    let w := nextWay p.way (wayCode d n)
    if p.way = 0 ∧ s.pkts.any (fun x => x.vc == p.vc && x.src == p.src && x.to_ == p.to_ && x.way != 0 && x.way != w) then s
    else ({ s with pkts := s.pkts.map (fun x : Packet => if x.id = p.id then { x with way := w } else x) }).putPacket p.vc p.rsp p.id d n

/-- R301: a packet of VC1 to VC3 sets out from a die for another. -/
def State.sendPacket (s : State) (vc : Nat) (rsp : Bool) (src to_ : Nat) : State :=
  if src = to_ then s
  else
    let (id, s) := s.freshId
    let p : Packet := { id := id, vc := vc, rsp := rsp, src := src, at_ := src, to_ := to_ }
    ({ s with pkts := s.pkts ++ [p] }).pktOn p src

/-- Is an access on a link, or waiting for one? -/
def State.onLink (s : State) (id : Nat) : Bool :=
  s.links.any (fun e => e.2.vcs.any (fun v => v.2.outq.any (fun x => x.2 == id) || v.2.resend.any (fun x => x.2.2.contains id) ||
    v.2.unacked.any (fun x => x.2.2.contains id)))

/-- R303: the dies between which a packet on a link travels: first, last. -/
def State.flowOf (s : State) (id : Nat) : Nat × Nat := match s.msg? id with
  | some m => (m.source, m.bound)
  | none => match s.mbs.find? (fun m => m.id == id) with
    | some m => (m.src, m.to_)
    | none => match s.pkts.find? (fun p => p.id == id) with
      | some p => (p.src, p.to_)
      | none => (5, 5)

/-- R303, R307: may a packet of a channel be the next one its end sends? In transit not before an older one between the same dies, of either sub-queue; at
its first die the order in which packets leave is what R307 makes it. -/
def State.inTurn (s : State) (d : Nat) (v : Vc) (id : Nat) : Bool :=
  (s.flowOf id).1 == d || !(v.outq.takeWhile (fun x => x.2 != id)).any (fun x => s.flowOf x.2 == s.flowOf id)

/-- R310: a token held for want of a path goes on when there is one. -/
def State.retryToken (s : State) (m : MbMove) : State := if s.onLink m.id then s else s.tokenOn m m.at_
/-- R310: a packet of VC1 to VC3 held for want of a path goes on when there is one. -/
def State.retryPacket (s : State) (p : Packet) : State := if s.onLink p.id then s else s.pktOn p p.at_

/-- R27, R366: a die sends a micro-batch token to another, or to itself. -/
def State.sendToken (s : State) (src die : Nat) (t : MbToken) : State :=
  let (id, s) := s.freshId
  let m : MbMove := { id := id, src := src, at_ := src, to_ := die, tok := t }
  ({ s with mbs := s.mbs ++ [m] }).tokenOn m src

/-- R303, R365, R366: the tokens that enter their die's queue now: tokens of one die arrive in the order sent. -/
def State.arrivedTokens (s : State) : List MbMove :=
  s.mbs.filter (fun m => m.at_ == m.to_ && !s.mbs.any (fun x => x.src == m.src && x.to_ == m.to_ && decide (x.id < m.id)))

/-! ### At the target (R81, R82) -/

/-- Nothing keeps the access in its last stage: it has arrived, its time has come, and nothing ahead meets its bytes. -/
def State.atTarget (s : State) (m : Msg) : Bool :=
  let t := gsaCore m.addr
  decide (m.due ≤ s.now + 1) && m.home && (s.aheadOf m).isEmpty && match m.stage with
    | .table => m.core / 8 == t / 8
    | .cluster => dieOf m.core == dieOf t
    | .ring => false
    | .far => true
    | .done => false

/-- R14, R315: the access has performed: its response, or the acknowledgement, returns. -/
def State.respond (s : State) (m : Msg) : State :=
  let t := gsaCore m.addr
  let away := dieOf t != dieOf m.core
  let m := { m with stage := .done, due := s.now + 1 + (if t = m.core then 3 else stageDelay m.core t .done), home := !away, way := 0, here := none }
  let s := s.updMsg m.id (fun _ => m)
  if away then s.onward m (dieOf t) else s

/-- R81, R82, R91: an access performs at its target; a load of bytes a command is writing finds, element by element, old or new values. -/
def execRemoteAccessAtTarget (id : Nat) (s : State) : Out :=
  match s.msg? id with
  | some m => (match m.kind with
    | .sth _ => .next s
    | _ =>
      if s.atTarget m then
        let s := s.touch m.addr m.size
        let (s, m) := s.performLocal m s.mem (fun n => (look 0 (s.core (gsaCore m.addr)).fmt n).toNat)
        .next (s.respond m)
      else .next s)
  | none => .next s

/-! ### Stages and acknowledgements (R81, R179) -/

/-- R316: an access to a die that is reset, or has failed, ends: a load or atomic gives all ones, a store is acknowledged; the issuing die
counts it. -/
def State.endAccess (s : State) (m : Msg) : State :=
  let (j, s) := s.freeNat
  (s.updMsg m.id (fun m => { m with stage := .done, home := true, size := 8, val := BitVec.allOnes 64, due := s.now + 1 + j })).updDie
    (dieOf m.core) (fun x => { x with rloss := min (x.rloss + 1) (2 ^ 32 - 1) })

/-- R315: a response or acknowledgement of another incarnation of its die is dropped and counted. -/
def State.staleResponse (s : State) (m : Msg) : State :=
  (s.dropMsg m.id).updDie (dieOf m.core) (fun x => { x with stale := min (x.stale + 1) (2 ^ 32 - 1) })

/-- May an access leave its stage for the next egress stage, or the ring egress, where those for one die leave in the order in which they entered (R303)? -/
def State.mayLeave (s : State) (m : Msg) : Bool :=
  (s.aheadOf m).isEmpty && match m.stage with
    | .table => decide (m.due ≤ s.now + 1) && m.core / 8 != gsaCore m.addr / 8
    | .cluster => decide (m.due ≤ s.now + 1) && dieOf m.core != dieOf (gsaCore m.addr)
    | .ring => !(s.msgs.takeWhile (fun x => x.id != m.id)).any (fun x => x.stage == .ring && dieOf x.core == dieOf m.core && x.bound == m.bound)
    | _ => false

/-- R31, R182: the acknowledgement of an `m.sth` that found no handler raises the handler-overflow trap at its sender. -/
def State.overflow (s : State) (m : Msg) : State :=
  let c := s.ctx m.dest
  if m.noHandler && c.role != .free && !c.exiting then
    s.updCtx m.dest (fun c => { c with
      laterAt := s.now + 1, later := some { ord := 6, widx := m.widx, cause := causeHandler, tval := BitVec.ofNat 64 m.addr } })
  else s

/-- R81, R179, R310: an access enters the next egress stage, which acknowledges it; one held for want of a path goes on when there is
one; the acknowledgement of a performed store returns and frees its request-table entry. -/
def execStageAcknowledgement (id : Nat) (s : State) : Out :=
  match s.msg? id with
  | some m =>
    if (s.die (dieOf (gsaCore m.addr))).failed && dieOf (gsaCore m.addr) != dieOf m.core && (m.stage != .done || !m.home) then
      .next (s.endAccess m)
    else if m.stage == .done then
      if !m.home then .next (if s.onLink id then s else s.onward m m.heldAt)
      else if m.isStore && decide (m.due ≤ s.now + 1) then
        .next (if m.inc = (s.die (dieOf m.core)).inc.toNat then (s.overflow m).dropMsg id else s.staleResponse m)
      else .next s
    else if m.stage == .far then .next (if m.home || s.onLink id then s else s.onward m m.heldAt)
    else if !s.mayLeave m then .next s
    else match m.stage with
      | .table => .next (s.enterStage m .cluster (s.now + 1))
      | .cluster => .next (s.enterStage m .ring (s.now + 1))
      | _ =>
        let m := { m with stage := .far, home := false, way := 0, here := none }
        .next (({ s with msgs := s.msgs.filter (fun x : Msg => x.id != id) ++ [m] }).onward m (dieOf m.core))
  | none => .next s

/-- R179: does one access of a context come before another in issue order: in an earlier bundle, or as an earlier word of one bundle? -/
def Msg.issuedBefore (x m : Msg) : Bool := decide (x.at_ < m.at_) || (x.at_ == m.at_ && decide (x.widx < m.widx))

/-- R179: is the result of an access the next one its queue takes? -/
def State.nextInQueue (s : State) (m : Msg) : Bool :=
  !s.msgs.any (fun x => x.core == m.core && x.dest == m.dest && x.queue == m.queue && x.returns && x.issuedBefore m) &&
  !((s.ctx m.dest).held.any (fun h => match h with
    | .access x => x.queue == m.queue && x.returns && x.issuedBefore m
    | _ => false))

/-- R179, R315, R87: the value of a remote load or atomic reaches its queue head, in issue order per queue; a response of another
incarnation is dropped and counted. -/
def execRemoteResponseArrival (id : Nat) (s : State) : Out :=
  match s.msg? id with
  | some m =>
    if m.stage == .done && m.home && m.returns && decide (m.due ≤ s.now + 1) then
      if m.inc ≠ (s.die (dieOf m.core)).inc.toNat then .next (s.staleResponse m)
      else if !s.nextInQueue m then .next s
      else
        let s := s.dropMsg id
        if has s.ctxs m.dest then
          .next ((s.updCtx m.dest (fun c => c.mapArch (fun a => a.enqueue m.queue (loadValue m.sx m.size m.val)))).observe m.dest m.at_ m.ids)
        else .next s
    else .next s
  | none => .next s

/-! ### Arrival handlers (R30 to R32, R182) -/

/-- The contexts of a core that a unit has set aside, ascending: those a handler run may use. -/
def State.handlerCtxs (s : State) (core : Nat) : List Nat :=
  ((List.range 8).map (ctxKey core)).filter (fun k => let c := s.ctx k
    c.asg.isSome && (c.role == .dormant || c.role == .handler))

/-- R32: does the unit that assigned the context still run? One that has executed `q.exit` does not, so that an arrival before its completion finds no
context: the model's choice, R32's words fit either (log 95). -/
def State.assignerRuns (s : State) (k : Nat) : Bool := match (s.ctx k).asg with
  | some a => !(s.ctx a).exiting
  | none => false

/-- R19: the state of a context as it is at dispatch, with what its caller sets. -/
def State.dispatchState (s : State) (core : Nat) : Ctx :=
  { wdog := match (s.supersOf core).head? with
      | some k => (s.ctx k).wdog
      | none => 0 }

/-- R30: start a handler run in a dormant context; one that is held, or is to be, stays so (R385, R413). -/
def State.startHandler (s : State) (k : Nat) (x : Arrival) : State :=
  let c := s.ctx k
  let w := match c.asg with
    | some a => ((s.ctx a).work.getD {})
    | none => {}
  let live : Arch := { pc := BitVec.ofNat 32 x.pc, coin := c.live.coin,
                       g := [(1, BitVec.ofNat 64 x.off), (2, BitVec.ofNat 64 x.sender)] }
  s.setCtx k { s.dispatchState (keyCore k) with
    role := .handler, asg := c.asg, img := c.img, origin := keyCore k, live := live,
    frozen := c.frozen, why := c.why, freezeReq := c.freezeReq, pmtWait := c.pmtWait,
    work := some { uid := w.uid, launch := w.launch, pairMap := w.pairMap, img := w.img } }

/-- R182: every earlier store and atomic of the sender to the same core has performed. -/
def State.sthReleased (s : State) (m : Msg) : Bool :=
  !s.msgs.any (fun x => x.core == m.core && x.h == m.h && decide (x.id < m.id) && gsaCore x.addr == gsaCore m.addr && x.stage != .done &&
    x.kind != .load)

/-- May the handler of an `m.sth` start: at its target, or on its own core, where its payload has performed? -/
def State.sthReady (s : State) (m : Msg) : Bool :=
  s.sthReleased m && (s.atTarget m || m.paid)

/-- R30, R31: an arrival: its payload performs; a handler starts, or it waits in the handler queue; with no context set aside the
acknowledgement says so; with a full queue it is refused and tried again. -/
def execHandlerArrival (id : Nat) (s : State) : Out :=
  match s.msg? id with
  | some m => (match m.kind with
    | .sth pc =>
      if !s.sthReady m then .next s
      else
        let t := gsaCore m.addr
        let ks := (s.handlerCtxs t).filter s.assignerRuns
        let x : Arrival := { pc := pc, off := gsaOff m.addr, sender := m.core + m.h * 512 }
        let go := fun (s : State) => if m.paid then (s, m) else s.performLocal m s.mem (fun _ => 0)
        let waiting := (s.core t).arrivals
        if ks.isEmpty then
          let (s, m) := go s
          .next (s.respond { m with noHandler := true })
        else if waiting.isEmpty && ks.any (fun k => (s.ctx k).role == .dormant) then
          let (s, m) := go s
          let s := s.respond m
          .next (match ks.find? (fun k => (s.ctx k).role == .dormant) with
            | some k => s.startHandler k x
            | none => s)
        else if waiting.length < 16 then
          let (s, m) := go s
          .next ((s.respond m).updCore t (fun c => { c with arrivals := c.arrivals ++ [x] }))
        else
          let (j, s) := s.freeNat
          .next (s.updMsg id (fun m => { m with due := s.now + 1 + j }))
    | _ => .next s)
  | none => .next s

/-- R31: the oldest queued arrival starts in the lowest free dormant context. -/
def execHandlerQueueStart (core : Nat) (s : State) : Out :=
  match (s.core core).arrivals with
  | x :: xs => (match (s.handlerCtxs core).find? (fun k => (s.ctx k).role == .dormant) with
    | some k => .next ((s.updCore core (fun c => { c with arrivals := xs })).startHandler k x)
    | none => .next s)
  | [] => .next s

/-! ### Drains and fences (R87 to R89, R189) -/

/-- R81, R87, R189: is a write performed, by cycle `now`, with respect to every agent of the scope instance of a core (0 core, 1 cluster, 2 die, 3
package, 4 system)? Its final acknowledgement is waited for where the target's is the one that counts: not at core scope, not at cluster scope for a
target outside the cluster, not at die scope for a target on another die. The acknowledgement of an atomic is its old value, back at the issuer. The payload
of an `m.sth` to the own core has performed. -/
def Msg.covered (m : Msg) (now scope core : Nat) : Bool :=
  m.paid || match m.stage with
  | .table => scope == 0 && m.core == core
  | .cluster => decide (scope ≤ 1) && m.core / 8 == core / 8
  | .ring | .far => decide (scope ≤ 2) && dieOf m.core == dieOf core
  | .done => m.core != core || (!m.isStore && (gsaCore m.addr == m.core || (m.home && decide (m.due ≤ now)))) || scope == 0 || (scope == 1 && gsaCore m.addr / 8 != core / 8) ||
      (scope == 2 && dieOf (gsaCore m.addr) != dieOf core)

/-- R87: the writes a drain of a context covers that are not yet out of the network: of bundles before the drain's, and those its earlier reads
returned. -/
def State.cover (s : State) (k : Nat) (d : DrainW) : List Msg :=
  let c := s.ctx k
  s.msgs.filter (fun m => m.kind != .load && ((m.dest == k && decide (m.at_ < d.at_)) || c.seen.any (fun x => x.1 == m.id && decide (x.2 < d.at_))))

/-- R87, R88: may the drain or fence of a context complete? A fence waits for every load and atomic of earlier bundles too; a local `m.ld` has returned
its value when it has issued, though its register follows in 4 cycles: the model's choice (log 98). -/
def State.drained (s : State) (k : Nat) (d : DrainW) : Bool :=
  (s.cover k d).all (fun m => m.covered s.now d.scope (keyCore k)) &&
    (!d.fence || !s.msgs.any (fun m => m.dest == k && m.returns && decide (m.at_ < d.at_)))

/-- R87: the drain or fence completes; later writes of the context carry its cover, as a release of its scope. -/
def State.endDrain (s : State) (k : Nat) : State :=
  let ids := match (s.ctx k).drain with
    | some d => ((s.cover k d).filter (fun m => m.stage != .done)).map (fun m => (m.id, instKey d.scope (keyCore k)))
    | none => []
  let old := (s.ctx k).released.filter (fun x => match s.msg? x.1 with
    | some m => m.stage != .done
    | none => false)
  s.updCtx k (fun c => { c with drain := none, released := (old ++ ids).eraseDups, seen := c.seen.filter (fun x => (s.msg? x.1).isSome) })

end Sys2Proof.Machine
end

