-- ==== Sys2Proof/Machine/Quiet.lean ====
section
/-! DEFINITION. What is on the paths of the package, and when the machine is quiet for an example (R13 to R15, R301). -/

namespace Sys2Proof.Machine

/-! ### Traffic (R301) -/

/-- The die of the HBM a virtual address is mapped to, or Causeway (4) for the host's memory; the die given when it is not mapped. -/
def State.homeOf (s : State) (part va d : Nat) : Nat := match s.walk part va with
  | some l => if l.host then 4 else l.pa / 2 ^ 38
  | none => d

/-- A place on a path, by number: a cluster (its first core / 8). -/
def clusterPlace (core : Nat) : Nat := core / 8
/-- A place on a path: the HBM of a die, or host memory (die 4). -/
def memPlace (d : Nat) : Nat := 200 + d
/-- A place on a path: a link end. -/
def linkPlace (d n : Nat) : Nat := 100 + 3 * d + n

/-- R301: what a command moves now: channel, the die of its engine, the die at the other side (Causeway is 4), the place there. -/
def State.carries (s : State) (c : Cmd) : List (Nat × Nat × Nat × Nat) :=
  let d := dieOf c.core
  let at' := fun (d core va : Nat) => let h := s.homeOf ((s.partOf core).getD 16) va d; (h, memPlace h)
  match c.kind with
  | .copy r _ => if c.st == .running then
      let (sa, da) := r.addrs (c.done / r.tlen)
      [(r.sspc, sa), (r.dspc, da)].map (fun x =>
        if x.1 = 1 then (1, d, at' d c.core x.2) else (1, d, dieOf (gsaCore x.2), clusterPlace (gsaCore x.2)))
    else []
  | .ctxmove _ _ core _ va _ => if c.st == .running then [(1, dieOf core, dieOf core, clusterPlace core), (1, dieOf core, at' (dieOf core) core va)] else []
  | .array es => es.filterMap (fun e => match e.op with
    | .ckpt _ va _ _ => if e.st == .running then some (2, d, at' d c.core va) else none
    | _ => none)
  | _ => []

/-- R310: does a command find a path to every side it moves bytes to or from now? -/
def State.hasWay (s : State) (c : Cmd) : Bool := (s.carries c).all (fun x => s.hasPath x.2.1 x.2.2.1)

/-- R301: where a transfer of a collective is written: by Causeway's engine, on a die, or at Causeway where it goes outside or waits. -/
def State.xferSide (s : State) (t : CollTransfer) : Nat × Nat × Nat := (2, 4, match t.kind with
  | .away _ | .held _ => 4
  | _ => if t.virt then s.homeOf t.part t.addr 4 else dieOf (gsaCore t.addr))

/-- R301: what VC1 to VC3 carry: copies, saves and loads on 1; checkpoints and collectives, which pass Causeway's engine, on 2; units, counts and cancels
between schedulers on 3. Each with the die that asks and the other. -/
def State.bulk (s : State) : List (Nat × Nat × Nat) :=
  s.cmds.flatMap (fun c => (s.carries c).map (fun x => (x.1, x.2.1, x.2.2.1))) ++
  s.xfers.flatMap (fun t => s.xferSide t :: t.dies.map (fun d => (2, 4, d))) ++
  (s.units.filter (fun e => e.2.st == .moving)).map (fun e => (3, handleDie e.2.launch, dieOf e.2.owner)) ++
  (s.units.filter (fun e => e.2.st == .counting)).map (fun e => (3, dieOf e.2.owner, handleDie e.2.launch)) ++
  s.cancels.map (fun x => (3, handleDie x.2, x.1))

/-! ### A quiet machine (R13 to R15) -/

/-- R302: the link ends of the rest of a path from die `src` to another, those of the reverse path too. -/
def State.wayFrom (s : State) (src : Nat) : Nat → Nat → Nat → List Nat
  | 0, _, _ => []
  | fuel + 1, d, e => if d = e then [] else match s.nextEnd false src d e with
    | none => []
    | some n => match otherEnd d n with
      | some (x, m) => linkPlace d n :: linkPlace x m :: s.wayFrom src fuel x e
      | none => []

/-- R302: the link ends of a path from a die to another. -/
def State.wayTo (s : State) (fuel d e : Nat) : List Nat := s.wayFrom d fuel d e

/-- The places an access passes. -/
def State.msgWay (s : State) (m : Msg) : List Nat :=
  let t := gsaCore m.addr
  [clusterPlace m.core, clusterPlace t] ++ s.wayTo 4 (dieOf m.core) (dieOf t)

/-- The places a command's traffic passes. -/
def State.cmdWay (s : State) (c : Cmd) : List Nat :=
  let xs := s.carries c
  if xs.isEmpty then [] else clusterPlace c.core :: xs.flatMap (fun x => x.2.2.2 :: s.wayTo 4 x.2.1 x.2.2.1)

/-- The contexts whose tokens a launch, graph or job will signal, and those of the levels above it. -/
def State.waiters (s : State) : Nat → Nat → List Nat
  | 0, _ => []
  | n + 1, h => match s.level? h with
    | some l => l.toks.map Prod.fst ++ s.waiters n l.parent
    | none => []

/-- R317, R327: the contexts whose words a transfer of a collective comes from: those whose tokens its firing signals, or that started it. -/
def State.firedBy (s : State) (t : CollTransfer) : List Nat := match t.own with
  | some (n, _) => (s.slot n).toks.map Prod.fst ++ (s.slot n).sent.map Prod.fst
  | none => []

/-- R301: what the schedulers send one another: whose it is, and between which dies: units, completion counts, cancels, micro-batch tokens. -/
def State.schedTraffic (s : State) : List (List Nat × Nat × Nat) :=
  (s.units.filter (fun e => e.2.st == .moving)).map (fun e => (s.waiters 4 e.2.launch, handleDie e.2.launch, dieOf e.2.owner)) ++
  (s.units.filter (fun e => e.2.st == .counting)).map (fun e => (e.2.keys ++ s.waiters 4 e.2.launch, dieOf e.2.owner, handleDie e.2.launch)) ++
  s.cancels.map (fun x => (s.waiters 4 x.2, handleDie x.2, x.1)) ++
  s.mbs.map (fun m => ((s.levels.filter (fun e => handleKind e.1 == 4 && e.1 % 2 ^ 16 == m.tok.toNat / 2 ^ 48)).flatMap (fun e => e.2.toks.map Prod.fst),
    m.at_, m.to_))

/-- R13, R356, R365: the places that loads of images' data and fetches of launch records pass. -/
def State.loads (s : State) : List (List Nat × List Nat) :=
  (s.cores.filter (fun e => e.2.loading.isSome)).map (fun e => ([], [clusterPlace e.1, memPlace (dieOf e.1)])) ++
  s.levels.filterMap (fun e => e.2.fetch.map (fun f => (s.waiters 4 e.1,
    let d := handleDie e.1; let h := s.homeOf e.2.part f.2 d; memPlace h :: s.wayTo 4 d h)))

/-- R13: what is in flight: the contexts whose operation it is, if any, and the places it passes. -/
def State.traffic (s : State) : List (List Nat × List Nat) :=
  s.msgs.map (fun m => ([ctxKey m.core m.h], s.msgWay m)) ++
  (s.cmds.filter (fun c => !(s.carries c).isEmpty)).map (fun c => ([ctxKey c.core c.h], s.cmdWay c)) ++
  s.xfers.map (fun t => (s.firedBy t, (match t.kind with
    | .away _ | .held _ => []
    | _ => [if t.virt then memPlace (s.homeOf t.part t.addr 4) else clusterPlace (gsaCore t.addr)]) ++
      s.wayTo 4 4 (s.xferSide t).2.2 ++ t.dies.flatMap (s.wayTo 4 4))) ++
  s.schedTraffic.map (fun x => (x.1, s.wayTo 4 x.2.1 x.2.2)) ++ s.loads

/-- R13: are the operations of two contexts those of one example? -/
def oneExample (k h : Nat) : Bool := k == h || (Config.inExample k && Config.inExample h)

/-- R13: a link end at 32 GT/s and full width, with no replay. -/
def LinkEnd.calm (l : LinkEnd) : Bool :=
  l.rate == 2 && l.widths.all (· == 2) && l.train == 0 && l.modTrain.isEmpty && l.vcs.all (fun v => v.2.resend.isEmpty)

/-- R13: is a place of a path as a quiet machine has it: a link end calm, a cluster in P0, no stack of an HBM in self-refresh? -/
def State.placeCalm (s : State) (p : Nat) : Bool :=
  if 200 ≤ p then s.selfRef.all (fun e => e.1 / 4 != p - 200 || !e.2)
  else if 100 ≤ p then (look {} s.links (p - 100)).calm
  else look 0 s.power (clusterIndex (8 * p)) == 0

/-- R13: is the machine quiet for an example of which context `k` is part, with `own` more places on its paths: the paths are as they are on a quiet
machine, and nothing else is in flight on them? -/
def State.quietFor (s : State) (k : Nat) (own : List Nat) : Bool :=
  let mine := fun (x : List Nat × List Nat) => x.1.any (oneExample k)
  let way := (own ++ (s.traffic.filter mine).flatMap Prod.snd).eraseDups
  way.all s.placeCalm && (s.traffic.filter (fun x => !mine x)).all (fun x => !x.2.any way.contains)

/-- R13, R356: is the machine quiet for the load of an image's data to a core: nothing but that load is on its path? -/
def State.quietLoad (s : State) (core : Nat) : Bool := (s.updCore core (fun c => { c with loading := none })).quietFor (2 ^ 40) [clusterPlace core, memPlace (dieOf core)]

/-- R14, R15: an added delay of an agent that is no context: none while nothing else is on its path, else free (log 2). -/
def State.slack (s : State) (own : List Nat) : Nat × State := if s.quietFor (2 ^ 40) own then (0, s) else s.freeNat

end Sys2Proof.Machine
end

