-- ==== Sys2Proof/Machine/Array.lean ====
section
/-! DEFINITION. The analogue arrays at work: cells, reads, updates, the steps of an entry and the ADC groups' events (R278 to
R300). -/

namespace Sys2Proof.Machine

/-! ### Cells and scales (R279) -/

/-- A pair of a core. -/
def State.pair (s : State) (core p : Nat) : Pair := look {} (s.core core).pairs p
/-- Change a pair. -/
def State.updPair (s : State) (core p : Nat) (f : Pair → Pair) : State :=
  s.updCore core (fun x => { x with pairs := put x.pairs p (f (look {} x.pairs p)) })
/-- An ADC group of a core. -/
def State.adcOf (s : State) (core g : Nat) : Adc := look {} (s.core core).adc g
/-- Change an ADC group. -/
def State.updAdc (s : State) (core g : Nat) (f : Adc → Adc) : State :=
  s.updCore core (fun x => { x with adc := put x.adc g (f (look {} x.adc g)) })

/-- The fast level of a cell. -/
def Pair.fast (p : Pair) (i j : Nat) : Int := look 0 p.f (512 * i + j)
/-- The slow level of a cell. -/
def Pair.slow (p : Pair) (i j : Nat) : Int := look 0 p.s (512 * i + j)
/-- The symmetry point of a column. -/
def Pair.sym (p : Pair) (j : Nat) : Int := look 0 p.sigma j
/-- Write a fast level. -/
def Pair.setFast (p : Pair) (i j : Nat) (v : Int) : Pair := { p with f := put p.f (512 * i + j) v }
/-- Write a slow level. -/
def Pair.setSlow (p : Pair) (i j : Nat) (v : Int) : Pair := { p with s := put p.s (512 * i + j) v }

/-- R279: the nominal weight a mode reads: 0 both, 1 fast, 2 slow. -/
def Pair.weight (p : Pair) (mode i j : Nat) : Fp :=
  let x := (f32Val p.aF).mul (Fp.ofInt (p.fast i j - p.sym j))
  let y := (f32Val p.aS).mul (Fp.ofInt (p.slow i j))
  match mode with
  | 0 => x.add y
  | 1 => x
  | _ => y

/-- R281. -/
def adcDac : BitVec 4 := 1
/-- R281. -/
def adcClip : BitVec 4 := 2
/-- R281. -/
def adcNfin : BitVec 4 := 4

/-! ### Quantised reads (R280, R287) -/

/-- R280: an input taken in steps of `a`, with the group flags it sets. -/
def qin (a x : Fp) : Fp × BitVec 4 :=
  if x.nonFinite then (.zero, adcNfin)
  else
    let u := (x.divSticky a).toIntRnd .rne
    let v := clampInt u (-127) 127
    ((Fp.ofInt v).mul a, if v = u then 0 else adcDac)

/-- R280: a column sum given out in steps of `b`. -/
def qout (b y : Fp) : Fp × BitVec 4 :=
  let u := (y.divSticky b).toIntRnd .rne
  let v := clampInt u (-511) 511
  (if v = 0 then .zero else (Fp.ofInt v).mul b, if v = u then 0 else adcClip)

/-- An exact sum. -/
def exactSum (xs : List Fp) : Fp := xs.foldl Fp.add .zero

/-- R287: the outputs of one token before encoding: inputs, old outputs when `acc`. -/
def readToken (p : Pair) (e : AEntry) (bwd : Bool) (mode : Nat) (a b : Fp) (xs : List Fp) (old : Option (List Fp)) :
    List Fp × BitVec 4 :=
  let qs := xs.map (qin a)
  let n := if bwd then e.nrows else e.ncols
  let w := fun i k => if bwd then p.weight mode (e.row0 + i) (e.col0 + k) else p.weight mode (e.row0 + k) (e.col0 + i)
  let outs := (List.range n).map (fun i =>
    qout b (exactSum ((List.zip (List.range qs.length) qs).map (fun x => x.2.1.mul (w i x.1)))))
  let ys := match old with
    | some os => List.zipWith (fun o y => o.add y.1) os outs
    | none => outs.map Prod.fst
  (ys, (qs.map Prod.snd ++ outs.map Prod.snd).foldl (· ||| ·) 0)

/-! ### Pulses (R289, R290, R296) -/

/-- R242 mode 2: one step of a 32-bit generator. -/
def laneStep (x : W32) : W32 :=
  let x := x ^^^ (x <<< 13)
  let x := x ^^^ (x >>> 17)
  x ^^^ (x <<< 5)

/-- R296: the generator of lane `l` after a seed. -/
def laneSeed (v : W64) (l : Nat) : W32 :=
  let x : W32 := (v.extractLsb' 0 32 ^^^ v.extractLsb' 32 32) ^^^ BitVec.ofNat 32 ((l + 1) * 0xB5297A4D)
  if x = 0 then 1 else x

/-- The state of a lane generator. -/
def Adc.lane (g : Adc) (l : Nat) : W32 := look (laneSeed g.seed l) g.lanes l

/-- `n` steps of a lane: the new states in order. -/
def laneRun : Nat → W32 → List W32
  | 0, _ => []
  | n + 1, x => laneStep x :: laneRun n (laneStep x)

/-- R289: the threshold of a value under a scale. -/
def lineThreshold (v scale : Fp) : Nat :=
  match v.abs with
  | .nan => 0
  | .inf _ => if scale.isZero then 0 else 256
  | x =>
    let y := x.mul scale
    let one := Fp.fin false 1 0
    (((if y.lt one then y else one).mul (.fin false 256 0)).toIntRnd .rne).toNat

/-- R289: the slots, as bits, in which a line pulses from its generator. -/
def internalPulses (bl thr : Nat) (x : W32) : List Bool := (laneRun bl x).map (fun y => decide (y.toNat % 256 < thr))

/-- R289: the slots in which line `i` of `n` pulses from its mask bytes. -/
def maskPulses (bl n : Nat) (mask : List Byte) (i : Nat) : List Bool :=
  (List.range bl).map (fun m => (mask.getD (m / 8 * n + i) 0).getLsbD (m % 8))

/-- How many slots both lines pulse in. -/
def coincidences (a b : List Bool) : Nat := ((List.zipWith (· && ·) a b).filter id).length

/-- R290: the sign of a decoded value. -/
def sgn (v : Fp) : Int := if v.isNan ∨ v.isZero then 0 else if v.sign then -1 else 1

/-- R289, R290: does a value set `nfin`? -/
def lineNfin (expl : Bool) (scale v : Fp) : Bool := match v with
  | .nan => true
  | .inf _ => !expl && scale.isZero
  | _ => false

/-- A cell-wise change of a window. -/
def Pair.mapWindow (p : Pair) (e : AEntry) (f : Pair → Nat → Nat → Pair) : Pair :=
  (List.range e.nrows).foldl (fun p i => (List.range e.ncols).foldl (fun p j => f p i j) p) p

/-- R290: one burst on a pair, from the pulses of rows and columns. -/
def Pair.burst (p : Pair) (e : AEntry) (xs ds : List Fp) (rows cols : List (List Bool)) : Pair :=
  p.mapWindow e (fun p i j =>
    let n := coincidences (rows.getD i []) (cols.getD j [])
    let step := sgn (xs.getD i .nan) * sgn (ds.getD j .nan) * n
    if step = 0 then p else p.setFast (e.row0 + i) (e.col0 + j) (clampInt (p.fast (e.row0 + i) (e.col0 + j) - step) (-127) 127))

/-! ### The steps of an entry (R287 to R297) -/

/-- R283: is the entry a read? -/
def AEntry.isRead (e : AEntry) : Bool := match e.op with
  | .read _ _ _ _ _ _ _ _ _ => true
  | _ => false
/-- R384: does a freeze stop the entry between steps? -/
def AEntry.stops (e : AEntry) : Bool := match e.op with
  | .symw _ => false
  | .symr _ => false
  | .seed _ => false
  | .scl _ _ _ => false
  | _ => true
/-- Does the entry occupy its ADC group? -/
def AEntry.occupies (e : AEntry) : Bool := e.st == .running && decide (e.done < e.steps.1)

/-- R217: does the entry read scratchpad? -/
def AEntry.readsSpad (e : AEntry) : Bool := match e.op with
  | .xfer _ => false
  | .symr _ => false
  | .ckpt _ _ _ _ => false
  | .seed _ => false
  | .scl _ _ _ => false
  | _ => true

/-- R284: contiguous bytes as a command reads them: an element it has read before a write keeps what it read. -/
def State.takenRead (s : State) (id core off n : Nat) : List Byte × State :=
  let (bs, s) := s.engineRead core off n
  match s.cmd? id with
  | some c => if c.taken.isEmpty then (bs, s) else ((c.taken.foldl (fun m w => m.writeN w.addr w.bytes) s.mem).readN (gsaOf core off) n, s)
  | none => (bs, s)

/-- Sample the inputs of step `t`. -/
def State.sampleInputs (s : State) (id core : Nat) (e : AEntry) (t : Nat) : List (List Byte) × State :=
  (e.inputs t).foldl (fun acc x => let (b, s) := acc.2.takenRead id core x.1 x.2.1; (acc.1 ++ [b], s)) ([], s)

/-- Change an entry of a command. -/
def Cmd.updEntry (c : Cmd) (n : Nat) (f : AEntry → AEntry) : Cmd := match c.kind with
  | .array es => { c with kind := .array ((List.zip (List.range es.length) es).map (fun x => if x.1 = n then f x.2 else x.2)) }
  | _ => c
/-- The entries of a command. -/
def Cmd.entries (c : Cmd) : List AEntry := match c.kind with
  | .array es => es
  | _ => []

/-- R292: the cells of a window row written through virtual addresses until one faults; whether one met a page that is not resident; the
address of the fault. -/
def State.ckptRow (s : State) (c : Cmd) (part : Nat) : List (Nat × List Byte) → State × Bool × Option Nat
  | [] => (s, false, none)
  | (va, bs) :: rest =>
    match s.locate part (dieOf c.core) va bs.length false true with
    | (.fault x, t) => (t, false, some x)
    | (.at_ ls, t) => (t.writeLocs ls bs).ckptRow c part rest
    | (_, t) => let (u, _, x) := t.ckptRow c part rest; (u, true, x)

/-- R394: must a row's cells wait for a stack in self-refresh, before any of them is written? Those behind a fault do not count. -/
def State.cellsWait (s : State) (c : Cmd) (part : Nat) : List (Nat × List Byte) → Bool
  | [] => false
  | (va, bs) :: rest => match s.locate part (dieOf c.core) va bs.length false true with
    | (.fault _, _) => false
    | (.wait, _) => true
    | (_, t) => t.cellsWait c part rest

/-- R292: the four bytes of a cell: levels, or the weight rounded to FP32. -/
def ckptCell (wt : Bool) (p : Pair) (i j : Nat) : List Byte :=
  if wt then bytesOf 4 (f32Bits (p.weight 0 i j)).toNat
  else bytesOf 1 (fromSigned 8 (p.fast i j)) ++ [0] ++ bytesOf 2 (fromSigned 16 (p.slow i j))

/-- R292: the cells of step `t` of a checkpoint, with their addresses. -/
def State.ckptCells (s : State) (core : Nat) (e : AEntry) (t : Nat) : List (Nat × List Byte) := match e.op with
  | .ckpt wt vaddr vpitch _ =>
    (List.range e.ncols).map (fun j => (vaddr + t * vpitch + 4 * j, ckptCell wt (s.pair core e.pair) (e.row0 + t) (e.col0 + j)))
  | _ => []

/-- The effect at the end of step `t` of entry `n` of a command, on the inputs it sampled. -/
def State.aEffect (s : State) (c : Cmd) (n : Nat) (e : AEntry) (t : Nat) (ins : List (List Byte)) : State :=
  let core := c.core
  let p := s.pair core e.pair
  let tk := e.toff + t
  let flag := fun (s : State) (x : BitVec 4) => if x = 0 then s else s.updAdc core e.grp (fun g => { g with flags := g.flags ||| x })
  match e.op with
  | .read bwd mode acc xin yout xp yp a b =>
    let yo := yout + tk * yp
    let fmt := bankFmt e.fmts yo
    let ny := if bwd then e.nrows else e.ncols
    let (olds, s) := s.takenRead c.id core yo (plainBytes fmt ny)
    let xs := (plainDecode (bankFmt e.fmts (xin + tk * xp)) (ins.getD 0 [])).map Prod.fst
    let (ys, fl) := readToken p e bwd mode (f32Val a) (f32Val b) xs
      (if acc then some ((plainDecode fmt olds).map Prod.fst) else none)
    (flag s fl).publish c.id (writesFrom (gsaOf core yo) (plainEncode fmt ys).1)
  | .upd expl xin din xp dp rs cs bl _ _ _ =>
    let xs := (plainDecode (bankFmt e.fmts (xin + tk * xp)) (ins.getD 0 [])).map Prod.fst
    let ds := (plainDecode (bankFmt e.fmts (din + tk * dp)) (ins.getD 1 [])).map Prod.fst
    let nf := xs.any (lineNfin expl (f32Val rs)) || ds.any (lineNfin expl (f32Val cs))
    let s := flag s (if nf then adcNfin else 0)
    if expl then
      let rows := (List.range e.nrows).map (maskPulses bl e.nrows (ins.getD 2 []))
      let cols := (List.range e.ncols).map (maskPulses bl e.ncols (ins.getD 3 []))
      s.updPair core e.pair (fun p => p.burst e xs ds rows cols)
    else
      let g := s.adcOf core e.grp
      let rl := (List.range e.nrows).map (fun i => e.row0 + i)
      let cl := (List.range e.ncols).map (fun j => 512 + e.col0 + j)
      let rows := List.zipWith (fun l x => internalPulses bl (lineThreshold x (f32Val rs)) (g.lane l)) rl xs
      let cols := List.zipWith (fun l x => internalPulses bl (lineThreshold x (f32Val cs)) (g.lane l)) cl ds
      let s := s.updAdc core e.grp (fun g =>
        { g with lanes := (rl ++ cl).foldl (fun m l => put m l ((laneRun bl (g.lane l)).getLastD (g.lane l))) g.lanes })
      s.updPair core e.pair (fun p => p.burst e xs ds rows cols)
  | .xfer rst =>
    let j := e.col0 + t
    s.updPair core e.pair (fun p => (List.range e.nrows).foldl (fun p i =>
      let i := e.row0 + i
      let d := p.fast i j - p.sym j
      let p := p.setSlow i j (clampInt (p.slow i j + ((f32Val p.beta).mul (Fp.ofInt d)).toIntRnd .rne) (-1023) 1023)
      if rst then p.setFast i j (p.sym j) else p) p)
  | .symw _ =>
    let bs := ins.getD 0 []
    s.updPair core e.pair (fun p => (List.range e.ncols).foldl (fun p j =>
      { p with sigma := put p.sigma (e.col0 + j) (max (-127) (toSigned 8 (bs.getD j 0).toNat)) }) p)
  | .symr loc =>
    s.publish c.id (writesFrom (gsaOf core loc) ((List.range e.ncols).map (fun j => bytesOf 1 (fromSigned 8 (p.sym (e.col0 + j))))))
  | .prog sel _ _ =>
    let i := e.row0 + t
    let fs := if sel % 2 = 1 then ins.getD 0 [] else []
    let ss := if 2 ≤ sel then ins.getD (if sel % 2 = 1 then 1 else 0) [] else []
    s.updPair core e.pair (fun p =>
      let p := (List.range e.ncols).foldl (fun p j =>
        let p := if sel % 2 = 1 then p.setFast i (e.col0 + j) (clampInt (toSigned 8 (fld fs j 1)) (-127) 127) else p
        if 2 ≤ sel then p.setSlow i (e.col0 + j) (clampInt (toSigned 16 (fld ss (2 * j) 2)) (-1023) 1023) else p) p
      { p with pvf := 0, born := s.now + 1 })
  | .ckpt _ _ _ _ =>
    (match s.ckptRow c ((s.partOf core).getD 16) (s.ckptCells core e t) with
      | (s, nr, none) => if nr then s.updCmd c.id (fun c => { c with nres := true }) else s
      | (s, nr, some va) =>
        s.updCmd c.id (fun c =>
          { (c.updEntry n (fun e => { e with done := e.nrows - 1 })) with err := true, nres := c.nres || nr, fault := some va }))
  | .seed v => s.updAdc core e.grp (fun g => { g with seed := v, lanes := [] })
  | .scl a b g => s.updPair core e.pair (fun p => { p with aF := a, aS := b, beta := g })

/-! ### Time (R282 to R297) -/

/-- R384, R391: stop a running entry at a step boundary when its context is frozen; for good when its run was killed. -/
def State.aStop (s : State) (c : Cmd) (n : Nat) (e : AEntry) : State :=
  if e.occupies && e.stops && (c.doomed || (s.ctx (ctxKey c.core c.h)).frozen.isSome) && e.rem == e.steps.2 * (e.steps.1 - e.done) + 6 then
    let s := (s.flush c.id).updCmd c.id (fun c =>
      c.updEntry n (fun e => { e with st := if c.doomed then .ended else .queued, rem := 0, early := none }))
    match s.cmd? c.id with
    | some c =>
      if c.entries.all (fun e => e.st == .ended) then s.dropCmd c.id
      else if c.entries.any (fun e => e.st == .running) then s
      else s.updCmd c.id (fun c => { c with st := .queued, taken := [] })
    | none => s
  else s

/-- One cycle of a running entry: it may sample its step's inputs as the step begins, or element by element before a write (R284); at the step's
last cycle the step takes effect, a checkpoint's once no page of it waits (R394) and each has a path (R310); what it published is written within 6 cycles of that (R287). -/
def State.aCycle (s : State) (c : Cmd) (n : Nat) (e : AEntry) : State :=
  if e.st != .running then s else
  let (steps, cyc) := e.steps
  let begins := decide (e.done < steps) && e.rem == cyc * (steps - e.done) + 6
  let s := if begins then
      let (b, s) := s.freeBit
      if b then
        let (ins, s) := s.sampleInputs c.id c.core e e.done
        s.updCmd c.id (fun c => c.updEntry n (fun e => { e with early := some ins }))
      else s
    else s
  let rem := e.rem - 1
  let ends := decide (e.done < steps) && rem == cyc * (steps - e.done - 1) + 6
  if ends && (!s.hasWay c || s.cellsWait c ((s.partOf c.core).getD 16) (s.ckptCells c.core e e.done)) then s else
  let s := s.updCmd c.id (fun c => c.updEntry n (fun e => { e with rem := rem }))
  if ends then
    let now := ((s.cmd? c.id).bind (fun c => c.entries[n]?)).getD e
    let (ins, s) := match now.early with
      | some i => (i, s)
      | none => s.sampleInputs c.id c.core e e.done
    let s := s.aEffect c n e e.done ins
    let s := s.updCmd c.id (fun c => c.updEntry n (fun e => { e with done := e.done + 1, early := none }))
    match e.op with
    | .ckpt _ _ _ _ =>
      let (x, s) := s.freeNat
      s.updCmd c.id (fun c => c.updEntry n (fun e => if e.done < steps then e else { e with rem := 1 + x }))
    | _ => s
  else if rem == cyc * (steps - e.done) + 1 then s.flush c.id
  else s

/-- One cycle of every array command. -/
def State.arrays (s : State) : State :=
  s.cmds.foldl (fun s c =>
    (List.zip (List.range c.entries.length) c.entries).foldl (fun s x =>
      let s := s.aStop c x.1 x.2
      match (s.cmd? c.id).bind (fun c => c.entries[x.1]?) with
      | some e => s.aCycle c x.1 e
      | none => s) s) s

/-! ### Events -/

/-- The queued entries of an ADC group in the order of its queue, with their commands. -/
def State.aQueue (s : State) (core g : Nat) : List (Cmd × Nat × AEntry) :=
  (s.cmds.filter (fun c => c.core == core && c.isA && !c.held && !s.parked c)).flatMap (fun c =>
    ((List.zip (List.range c.entries.length) c.entries).filter (fun x => x.2.grp == g && x.2.st == .queued)).map
      (fun x => (c, x.1, x.2)))

/-- R282, R347: is the group free, of entries and of the monitor's scrubs? -/
def State.aFree (s : State) (core g : Nat) : Bool :=
  decide ((s.adcOf core g).scrub ≤ s.now) && !s.cmds.any (fun c => c.core == core && c.entries.any (fun e => e.grp == g && e.occupies))

/-- R282: the entry a free group starts. -/
def State.aChoice (s : State) (core g : Nat) : Option (Cmd × Nat × AEntry) :=
  let q := s.aQueue core g
  let may := fun x : Cmd × Nat × AEntry => s.mayStart x.1
  let read := if q.any (fun x => x.2.2.expired) then q.find? (fun x => x.2.2.isRead) else none
  match read with
  | some r => if may r then some r else q.head?.filter may
  | none => q.head?.filter may

/-- R282: a free ADC group starts the entry R282 chooses. -/
def execAdcGroupCommandStart (core grp : Nat) (s : State) : Out :=
  if !coreExists core ∨ 8 ≤ grp then .fault .noSuchAgent else
  .next (if s.aFree core grp then
      (match s.aChoice core grp with
        | some (c, n, _) =>
          s.updCmd c.id (fun c => { (c.updEntry n (fun e => { e with st := .running, rem := e.steps.2 * (e.steps.1 - e.done) + 6 })) with
            st := .running })
        | none => s)
    else s)

/-- R283: has the bound of a queued read passed? -/
def AEntry.expires (e : AEntry) (now : Nat) : Bool :=
  e.isRead && e.st == .queued && !e.expired && decide (0 < e.lbnd) && decide (e.issued + e.lbnd ≤ now)

/-- R283: a queued read expires. -/
def execReadLatencyExpiry (id entry : Nat) (s : State) : Out :=
  match s.cmd? id with
  | some c => .next (s.updCmd id (fun _ => c.updEntry entry (fun e => if e.expires s.now then { e with expired := true } else e)))
  | none => .next s

/-- R287, R294: an entry ends on its group; when every entry has ended the command completes. One that has met a translation fault ends after its event
has been posted (R377). -/
def execArrayCommandCompletion (id entry : Nat) (s : State) : Out :=
  match s.cmd? id with
  | some c => (match c.entries[entry]? with
    | some e =>
      if e.st == .running && decide (e.rem ≤ 1) && decide (e.steps.1 ≤ e.done) && c.fault.isNone then
        let s := (s.flush id).updCmd id (fun c => c.updEntry entry (fun e => { e with st := .ended }))
        .next (match s.cmd? id with
          | some c => if c.entries.all (fun e => e.st == .ended) then s.complete id else s
          | none => s)
      else .next s
    | none => .next s)
  | none => .next s

end Sys2Proof.Machine
end

