-- ==== Sys2Proof/Machine/ArrayWords.lean ====
section
/-! DEFINITION. The A words: records, tables, what each queues (R264, R285 to R298). -/

namespace Sys2Proof.Machine

/-! ### Fields -/

/-- R286: a window at an offset of a record: first row, first column, rows, columns. -/
def window (b : List Byte) (o : Nat) : Nat × Nat × Nat × Nat := (fld b o 2, fld b (o + 2) 2, fld b (o + 4) 2, fld b (o + 6) 2)
/-- R286: is a window in range? -/
def windowOk (w : Nat × Nat × Nat × Nat) : Bool :=
  decide (1 ≤ w.2.2.1) && decide (w.2.2.1 ≤ 512) && decide (w.1 + w.2.2.1 ≤ 512) && decide (1 ≤ w.2.2.2) && decide (w.2.2.2 ≤ 512) &&
    decide (w.2.1 + w.2.2.2 ≤ 512)
/-- FP32 bits of a field. -/
def fpFld (b : List Byte) (o : Nat) : W32 := BitVec.ofNat 32 (fld b o 4)
/-- R280: a finite scale above zero. -/
def scalePos (v : W32) : Bool := !(f32Val v).nonFinite && !(f32Val v).isZero && !(f32Val v).sign
/-- R288: a finite scale that is not negative; −0 is not negative (log 30). -/
def scaleNonNeg (v : W32) : Bool := !(f32Val v).nonFinite && (!(f32Val v).sign || (f32Val v).isZero)

/-- R278: the pair an A word names, after the pair map. -/
def State.apOf (s : State) (f : TQ) : Nat := s.cur.mapPair (subAp f).toNat
/-- R278: does the partition of the issuing context own a pair of its core? -/
def State.ownsPair (s : State) (p : Nat) : Bool := (s.apown s.iss.core).testBit p

/-- R278: an A word that names a pair not owned raises the protection trap. -/
def State.withPair (s : State) (f : TQ) (body : Nat → State → Out) : Out :=
  let p := s.apOf f
  if !s.ownsPair p then s.raise 6 causeProtection (BitVec.ofNat 64 p) else body p s

/-- The first region, with the field that names it, that breaks its rule. -/
def firstBad (rs : List (Bool × Nat)) : Option Nat := (rs.find? (fun r => !r.1)).map Prod.snd

/-- R379: raise the region-alignment trap of an address field. -/
def State.regionTrap (s : State) (bad : Option Nat) (body : State → Out) : Out :=
  match bad with
  | some v => s.raise 6 causeRegion (BitVec.ofNat 64 v)
  | none => body s

/-- The sampled formats of a record list. -/
def fmtsOf (bs : List Byte) : List Nat := bs.map (fun b => b.toNat)

/-- R287, R288: token rows of `n` elements from `base` in the formats of their banks. -/
def tokensOk (fmts : List Nat) (base pitch toff ntok n : Nat) : Bool :=
  (List.range ntok).all (fun t => plainOk (bankFmt fmts (base + (toff + t) * pitch)) (base + (toff + t) * pitch) n)

/-- R289: mask rows lie in N8 banks. -/
def masksOk (fmts : List Nat) (base pitch toff ntok n : Nat) : Bool :=
  (List.range ntok).all (fun t =>
    let a := base + (toff + t) * pitch
    bankFmt fmts a == 6 && plainOk 6 a n)

/-- An entry of a window on a pair. -/
def entryOn (s : State) (p : Nat) (w : Nat × Nat × Nat × Nat) (fmts : List Nat) (op : ArrayOp) : AEntry :=
  { grp := p % 8, pair := p, row0 := w.1, col0 := w.2.1, nrows := w.2.2.1, ncols := w.2.2.2, issued := s.iss.when_, fmts := fmts, op := op }

/-- R286 to R297: an entry of a single-pair command with the window, the places and the scales of a record; what the word itself says stays. -/
def AEntry.ofRecord (e : AEntry) (b : List Byte) : AEntry :=
  let at' := fun (w : Nat × Nat × Nat × Nat) (op : ArrayOp) => { e with row0 := w.1, col0 := w.2.1, nrows := w.2.2.1, ncols := w.2.2.2, op := op }
  match e.op with
  | .read bwd md acc _ _ _ _ _ _ =>
    { at' (window b 0x10) (.read bwd md acc (fld b 0 4) (fld b 4 4) (fld b 8 4) (fld b 0xC 4) (fpFld b 0x18) (fpFld b 0x1C)) with
      ntok := fld b 0x20 2, lbnd := fld b 0x24 4 }
  | .upd expl _ _ _ _ _ _ _ _ _ _ =>
    { at' (window b 0x10) (.upd expl (fld b 0 4) (fld b 4 4) (fld b 8 4) (fld b 0xC 4) (fpFld b 0x18) (fpFld b 0x1C) (fld b 0x23 1)
        (fld b 0x24 4) (fld b 0x28 4) (fld b 0x2C 4)) with ntok := fld b 0x20 2 }
  | .xfer r => at' (window b 0) (.xfer r)
  | .symw _ => at' (0, fld b 4 2, 1, fld b 6 2) (.symw (fld b 0 4))
  | .symr _ => at' (0, fld b 4 2, 1, fld b 6 2) (.symr (fld b 0 4))
  | .prog sel _ _ => at' (window b 8) (.prog sel (fld b 0 4) (fld b 4 4))
  | .ckpt wt _ _ _ => at' (window b 0x10) (.ckpt wt (fld b 0 8) (fld b 8 4) (fld b 0xC 1))
  | .scl _ _ _ => { e with op := .scl (fpFld b 0) (fpFld b 4) (fpFld b 8) }
  | .seed _ => e

/-- An entry on a pair, before its record. -/
def entryFor (s : State) (f : TQ) (fmts : List Nat) (op : ArrayOp) : AEntry := entryOn s (s.apOf f) (0, 0, 1, 1) fmts op

/-- Queue an array command, or complete it at once when no entry has work. -/
def State.acceptA (s : State) (f : TQ) (es : List AEntry) (bar : Option Nat) (raw : List Byte) : State :=
  if es.isEmpty then ((s.armIf s.key f.kw f.k.toNat).status prioA 0) |> (fun s => if f.kw then s.endTok s.key f.k.toNat false false false else s)
  else s.accept f prioA (.array es) bar (es.any AEntry.readsSpad) raw

/-- A single-pair A word: the pair's owner, its record of `n` bytes, its regions unless the record is rejected. -/
def State.aWord (s : State) (i : Instr) (f : TQ) (n : Nat) (ok : List Byte → Bool) (bad : List Byte → List Nat → Option Nat)
    (perform : W64 → List (List Byte) → State → State) : Out :=
  s.word i.wf f.g (fun s => s.withPair f (fun _ s => s.withRecord f n (fun b s =>
    let fm := s.bankFmts
    s.regionTrap (if ok b then bad b (fmtsOf fm) else none) (fun s => s.act i 0 [b, fm] perform))))

/-- What a single-pair A word does when it acts. -/
def performA (f : TQ) (recs : List (List Byte)) (ok : List Byte → Bool) (bar : Nat) (entry : List Byte → List Nat → State → AEntry)
    (s : State) : State :=
  let b := recs.getD 0 []
  if !ok b then s.reject f prioA 1
  else s.acceptA f [entry b (fmtsOf (recs.getD 1 [])) s] (barTok (fld b bar 1)) b

/-! ### Reads (R286, R287) -/

/-- R286. -/
def readOk (b : List Byte) : Bool :=
  windowOk (window b 0x10) && scalePos (fpFld b 0x18) && scalePos (fpFld b 0x1C) && decide (1 ≤ fld b 0x20 2) && barOk (fld b 0x22 1) &&
    zeros b 0x23 1 && zeros b 0x28 8

/-- R286, R287: the regions of a read. -/
def readBad (bwd : Bool) (b : List Byte) (fmts : List Nat) : Option Nat :=
  let (_, _, nr, nc) := window b 0x10
  let n := fld b 0x20 2
  firstBad [(tokensOk fmts (fld b 0 4) (fld b 8 4) 0 n (if bwd then nc else nr), fld b 0 4),
            (tokensOk fmts (fld b 4 4) (fld b 0xC 4) 0 n (if bwd then nr else nc), fld b 4 4)]

/-- R287: the entry of a read. -/
def readEntry (f : TQ) (bwd : Bool) (b : List Byte) (fmts : List Nat) (s : State) : AEntry :=
  (entryFor s f fmts (.read bwd ((subMd f).toNat % 4) ((subMd f).getLsbD 2) 0 0 0 0 0 0)).ofRecord b

/-- R287. -/
def performAFwd (f : TQ) (_ : W64) (recs : List (List Byte)) (s : State) : State := performA f recs readOk 0x22 (readEntry f false) s
/-- R287. -/
def performABwd (f : TQ) (_ : W64) (recs : List (List Byte)) (s : State) : State := performA f recs readOk 0x22 (readEntry f true) s
/-- R286, R287. -/
def execAFwd (f : TQ) (s : State) : Out := s.aWord (.aFwd f) f 48 readOk (readBad false) (performAFwd f)
/-- R286, R287. -/
def execABwd (f : TQ) (s : State) : Out := s.aWord (.aBwd f) f 48 readOk (readBad true) (performABwd f)

/-! ### Updates (R288 to R290) -/

/-- R288. -/
def updOk (b : List Byte) : Bool :=
  windowOk (window b 0x10) && scaleNonNeg (fpFld b 0x18) && scaleNonNeg (fpFld b 0x1C) && decide (1 ≤ fld b 0x20 2) &&
    barOk (fld b 0x22 1) && decide (1 ≤ fld b 0x23 1) && decide (fld b 0x23 1 ≤ 32)

/-- R288, R289: the regions of an update. -/
def updBad (expl : Bool) (b : List Byte) (fmts : List Nat) : Option Nat :=
  let (_, _, nr, nc) := window b 0x10
  let n := fld b 0x20 2
  let g := ceilDiv (fld b 0x23 1) 8
  firstBad ([(tokensOk fmts (fld b 0 4) (fld b 8 4) 0 n nr, fld b 0 4), (tokensOk fmts (fld b 4 4) (fld b 0xC 4) 0 n nc, fld b 4 4)] ++
    (if expl then [(masksOk fmts (fld b 0x24 4) (fld b 0x2C 4) 0 n (g * nr), fld b 0x24 4),
                   (masksOk fmts (fld b 0x28 4) (fld b 0x2C 4) 0 n (g * nc), fld b 0x28 4)] else []))

/-- R290: the entry of an update. -/
def updEntryOf (f : TQ) (b : List Byte) (fmts : List Nat) (s : State) : AEntry :=
  (entryFor s f fmts (.upd ((subMd f).getLsbD 0) 0 0 0 0 0 0 0 0 0 0)).ofRecord b

/-- R290. -/
def performAUpd (f : TQ) (_ : W64) (recs : List (List Byte)) (s : State) : State :=
  performA f recs updOk 0x22 (updEntryOf f) s
/-- R288 to R290. -/
def execAUpd (f : TQ) (s : State) : Out :=
  s.aWord (.aUpd f) f 48 updOk (updBad ((subMd f).getLsbD 0)) (performAUpd f)

/-! ### Transfer, symmetry points, programming, checkpoint (R291, R292) -/

/-- R291: `a.xfer`. -/
def xferOk (b : List Byte) : Bool := windowOk (window b 0) && barOk (fld b 8 1) && zeros b 9 7
/-- R291. -/
def performAXfer (f : TQ) (_ : W64) (recs : List (List Byte)) (s : State) : State :=
  performA f recs xferOk 8 (fun b fm s => (entryFor s f fm (.xfer ((subMd f).getLsbD 0))).ofRecord b) s
/-- R291. -/
def execAXfer (f : TQ) (s : State) : Out := s.aWord (.aXfer f) f 16 xferOk (fun _ _ => none) (performAXfer f)

/-- R291: `a.symw` and `a.symr`. -/
def symOk (b : List Byte) : Bool := windowOk (0, fld b 4 2, 1, fld b 6 2) && barOk (fld b 8 1) && zeros b 9 7
/-- R291: the bytes lie in an I8 bank. -/
def symBad (b : List Byte) (fmts : List Nat) : Option Nat :=
  firstBad [(bankFmt fmts (fld b 0 4) == 5 && plainOk 5 (fld b 0 4) (fld b 6 2), fld b 0 4)]
/-- R291. -/
def performASymw (f : TQ) (_ : W64) (recs : List (List Byte)) (s : State) : State :=
  performA f recs symOk 8 (fun b fm s => (entryFor s f fm (.symw 0)).ofRecord b) s
/-- R291. -/
def performASymr (f : TQ) (_ : W64) (recs : List (List Byte)) (s : State) : State :=
  performA f recs symOk 8 (fun b fm s => (entryFor s f fm (.symr 0)).ofRecord b) s
/-- R291. -/
def execASymw (f : TQ) (s : State) : Out := s.aWord (.aSymw f) f 16 symOk symBad (performASymw f)
/-- R291. -/
def execASymr (f : TQ) (s : State) : Out := s.aWord (.aSymr f) f 16 symOk symBad (performASymr f)

/-- R291: `a.prog`. -/
def progOk (b : List Byte) : Bool := windowOk (window b 8) && barOk (fld b 0x10 1) && zeros b 0x11 7
/-- R291: fast levels from an I8 bank, slow levels from an I16 bank. -/
def progBad (sel : Nat) (b : List Byte) (fmts : List Nat) : Option Nat :=
  let (_, _, nr, nc) := window b 8
  firstBad ((if sel % 2 = 1 then [(bankFmt fmts (fld b 0 4) == 5 && plainOk 5 (fld b 0 4) (nr * nc), fld b 0 4)] else []) ++
    (if 2 ≤ sel then [(bankFmt fmts (fld b 4 4) == 4 && plainOk 4 (fld b 4 4) (nr * nc), fld b 4 4)] else []))
/-- R291. -/
def performAProg (f : TQ) (_ : W64) (recs : List (List Byte)) (s : State) : State :=
  performA f recs progOk 0x10 (fun b fm s => (entryFor s f fm (.prog ((subMd f).toNat % 4) 0 0)).ofRecord b) s
/-- R291. -/
def execAProg (f : TQ) (s : State) : Out :=
  s.aWord (.aProg f) f 24 progOk (progBad ((subMd f).toNat % 4)) (performAProg f)

/-- R291, R292: `a.ckpt`. -/
def ckptOk (b : List Byte) : Bool :=
  decide (fld b 0 8 < 2 ^ 57) && decide (fld b 0xC 1 ≤ 6) && barOk (fld b 0xD 1) && zeros b 0xE 2 && windowOk (window b 0x10) &&
    zeros b 0x18 8 && decide (4 * fld b 0x16 2 ≤ fld b 8 4)
/-- R292. -/
def performACkpt (f : TQ) (_ : W64) (recs : List (List Byte)) (s : State) : State :=
  performA f recs ckptOk 0xD (fun b fm s => (entryFor s f fm (.ckpt ((subMd f).getLsbD 0) 0 0 0)).ofRecord b) s
/-- R292. -/
def execACkpt (f : TQ) (s : State) : Out := s.aWord (.aCkpt f) f 32 ckptOk (fun _ _ => none) (performACkpt f)

/-! ### Grouped forms (R293 to R295) -/

/-- The grouped forms. -/
inductive Grouped where
  | fwd | bwd | upd
deriving DecidableEq, Repr

/-- R293: a grouped record whose own fields are in range. -/
def groupedOk (k : Grouped) (b : List Byte) : Bool :=
  decide (1 ≤ fld b 0x1C 1) && decide (fld b 0x1C 1 ≤ 64) && barOk (fld b 0x1D 1) && zeros b 0x1F 1 &&
    (match k with
      | .upd => decide (1 ≤ fld b 0x1E 1) && decide (fld b 0x1E 1 ≤ 32)
      | _ => zeros b 0x1E 1)

/-- R293, R295: is a group's descriptor in range under R286 or R288? Its reserved bytes are ignored (R3). -/
def gdescOk (k : Grouped) (d : List Byte) : Bool :=
  decide (fld d 0 1 ≤ 31) && windowOk (window d 2) &&
    (match k with
      | .upd => scaleNonNeg (fpFld d 0xC) && scaleNonNeg (fpFld d 0x10)
      | _ => scalePos (fpFld d 0xC) && scalePos (fpFld d 0x10))

/-- The tables of a grouped form: group `g`'s count, offset and descriptor. -/
def groupAt (recs : List (List Byte)) (g : Nat) : Int × Int × List Byte :=
  (sfld (recs.getD 2 []) (4 * g) 4, sfld (recs.getD 3 []) (4 * g) 4, (recs.getD 4 []).drop (24 * g) |>.take 24)

/-- R295: the first group of a grouped form that is out of range or names a pair that `owns` does not hold. -/
def badGroups (k : Grouped) (ng : Nat) (recs : List (List Byte)) (owns : Nat → Bool) : Option Nat :=
  (List.range ng).find? (fun g =>
    let (n, o, d) := groupAt recs g
    decide (n < 0) || (decide (0 < n) && (decide (o < 0) || !gdescOk k d || !owns (fld d 0 1))))

/-- R295: the first group that makes a grouped form rejected with status 2. -/
def State.badEntry (s : State) (k : Grouped) (ng : Nat) (recs : List (List Byte)) : Option Nat :=
  badGroups k ng recs (fun v => s.ownsPair (s.cur.mapPair v))

/-- R294: the operation of an entry of a grouped form: places from its record, scales from the group's descriptor; what the word itself says stays. -/
def ArrayOp.ofGroup (op : ArrayOp) (b d : List Byte) : ArrayOp := match op with
  | .upd expl _ _ _ _ _ _ _ _ _ _ => .upd expl (fld b 0 4) (fld b 4 4) (fld b 8 4) (fld b 0xC 4) (fpFld d 0xC) (fpFld d 0x10) (fld b 0x1E 1)
      (fld b 0x24 4) (fld b 0x28 4) (fld b 0x2C 4)
  | .read bwd md acc _ _ _ _ _ _ => .read bwd md acc (fld b 0 4) (fld b 4 4) (fld b 8 4) (fld b 0xC 4) (fpFld d 0xC) (fpFld d 0x10)
  | x => x

/-- R294: the operation that a grouped word itself says. -/
def groupedOp (f : TQ) (k : Grouped) : ArrayOp := match k with
  | .upd => .upd ((subMd f).getLsbD 0) 0 0 0 0 0 0 0 0 0 0
  | x => .read (x == .bwd) ((subMd f).toNat % 4) ((subMd f).getLsbD 2) 0 0 0 0 0 0

/-- R294: the entries of a grouped form, one for each group with a nonzero count, made from `e`; `pairOf` is the pair map of the context. -/
def AEntry.ofGroups (e : AEntry) (pairOf : Nat → Nat) (recs : List (List Byte)) : List AEntry :=
  let b := recs.getD 0 []
  (List.range (fld b 0x1C 1)).filterMap (fun g =>
    let (n, o, d) := groupAt recs g
    if n ≤ 0 then none
    else
      let p := pairOf (fld d 0 1)
      let w := window d 2
      some { e with
        grp := p % 8, pair := p, row0 := w.1, col0 := w.2.1, nrows := w.2.2.1, ncols := w.2.2.2, op := e.op.ofGroup b d,
        ntok := n.toNat, toff := o.toNat, lbnd := match e.op with
          | .upd _ _ _ _ _ _ _ _ _ _ _ => 0
          | _ => fld b 0x20 4 })

/-- R294: the entries of a grouped word. -/
def State.groupedEntries (s : State) (f : TQ) (k : Grouped) (recs : List (List Byte)) : List AEntry :=
  (entryFor s f (fmtsOf (recs.getD 1 [])) (groupedOp f k)).ofGroups s.cur.mapPair recs

/-- The grouped form whose entries do an operation. -/
def ArrayOp.form (op : ArrayOp) : Grouped := match op with
  | .upd _ _ _ _ _ _ _ _ _ _ _ => .upd
  | .read bwd _ _ _ _ _ _ _ _ => if bwd then .bwd else .fwd
  | _ => .fwd

/-- R295: the region checks of the entries, the first failing one deciding. -/
def groupedBad (k : Grouped) (es : List AEntry) : Option Nat :=
  es.findSome? (fun e => match e.op with
    | .read _ _ _ xin yout xp yp _ _ =>
      firstBad [(tokensOk e.fmts xin xp e.toff e.ntok (if k = .bwd then e.ncols else e.nrows), xin),
                (tokensOk e.fmts yout yp e.toff e.ntok (if k = .bwd then e.nrows else e.ncols), yout)]
    | .upd expl xin din xp dp _ _ bl rm cm mp =>
      firstBad ([(tokensOk e.fmts xin xp e.toff e.ntok e.nrows, xin), (tokensOk e.fmts din dp e.toff e.ntok e.ncols, din)] ++
        (if expl then [(masksOk e.fmts rm mp e.toff e.ntok (ceilDiv bl 8 * e.nrows), rm),
                       (masksOk e.fmts cm mp e.toff e.ntok (ceilDiv bl 8 * e.ncols), cm)] else []))
    | _ => none)

/-- R294, R295: a grouped form acts. -/
def performGrouped (k : Grouped) (f : TQ) (recs : List (List Byte)) (s : State) : State :=
  let b := recs.getD 0 []
  if !groupedOk k b then s.reject f prioA 1
  else match s.badEntry k (fld b 0x1C 1) recs with
    | some g => s.reject f prioA (2 + 256 * g)
    | none => s.acceptA f (s.groupedEntries f k recs) (barTok (fld b 0x1D 1))
        (groupedRaw b (recs.getD 2 []) (recs.getD 3 []) (recs.getD 4 []))

/-- R294, R295: a grouped form: its record, then its tables, then its regions. -/
def State.groupedWord (s : State) (k : Grouped) (i : Instr) (f : TQ) (perform : W64 → List (List Byte) → State → State) : Out :=
  s.word i.wf f.g (fun s => s.withRecord f 48 (fun b s =>
    if !groupedOk k b then s.act i 0 [b] perform
    else
      let ng := fld b 0x1C 1
      let t := [(fld b 0x10 4, 4, 4), (fld b 0x14 4, 4, 4), (fld b 0x18 4, 24, 8)]
      match t.find? (fun x => !tableOk x.1 ng x.2.1 x.2.2) with
      | some x => s.raise 6 causeAddress (BitVec.ofNat 64 x.1)
      | none =>
        let s := t.foldl (fun s x => s.touch (gsaOf s.iss.core x.1) (ng * x.2.1)) s
        let fm := s.bankFmts
        let recs := [b, fm] ++ t.map (fun x => s.localBytes x.1 (ng * x.2.1))
        s.regionTrap (if (s.badEntry k ng recs).isSome then none else groupedBad k (s.groupedEntries f k recs)) (fun s =>
          s.act i 0 recs perform)))

/-- R294. -/
def performAGfwd (f : TQ) (_ : W64) (recs : List (List Byte)) (s : State) : State := performGrouped .fwd f recs s
/-- R294. -/
def performAGbwd (f : TQ) (_ : W64) (recs : List (List Byte)) (s : State) : State := performGrouped .bwd f recs s
/-- R294. -/
def performAGupd (f : TQ) (_ : W64) (recs : List (List Byte)) (s : State) : State := performGrouped .upd f recs s
/-- R293 to R295. -/
def execAGfwd (f : TQ) (s : State) : Out := s.groupedWord .fwd (.aGfwd f) f (performAGfwd f)
/-- R293 to R295. -/
def execAGbwd (f : TQ) (s : State) : Out := s.groupedWord .bwd (.aGbwd f) f (performAGbwd f)
/-- R293 to R295. -/
def execAGupd (f : TQ) (s : State) : Out := s.groupedWord .upd (.aGupd f) f (performAGupd f)

/-- R347: the pairs that an A word of a context names which has issued and not acted, with what it sampled. -/
def Held.pairs (c : Ctx) (h : Held) : List Nat := match h with
  | .word (.aFwd f) _ _ _ _ | .word (.aBwd f) _ _ _ _ | .word (.aUpd f) _ _ _ _ | .word (.aXfer f) _ _ _ _ | .word (.aSymw f) _ _ _ _
  | .word (.aSymr f) _ _ _ _ | .word (.aProg f) _ _ _ _ | .word (.aCkpt f) _ _ _ _ | .word (.aSeed f) _ _ _ _ | .word (.aScl f) _ _ _ _
  | .word (.aStat f) _ _ _ _ => [c.mapPair (subAp f).toNat]
  | .word (.aGfwd _) _ recs _ _ | .word (.aGbwd _) _ recs _ _ | .word (.aGupd _) _ recs _ _ =>
    (List.range 64).filterMap (fun g => let (n, _, d) := groupAt recs g; if 0 < n then some (c.mapPair (fld d 0 1)) else none)
  | _ => []

/-! ### Seeds, scales, status (R296 to R298) -/

/-- R296: the seed enters the queue of the group. -/
def performASeed (f : TQ) (v : W64) (_ : List (List Byte)) (s : State) : State :=
  s.acceptA f [entryOn s (s.apOf f) (0, 0, 1, 1) [] (.seed v)] none []
/-- R296. -/
def execASeed (f : TQ) (s : State) : Out :=
  s.word (Instr.aSeed f).wf f.g (fun s => s.withPair f (fun _ s => s.act (.aSeed f) (s.value f.sp) [] (performASeed f)))

/-- R297: finite scales; the reserved bytes are ignored (R3). -/
def sclOk (b : List Byte) : Bool := ([0, 4, 8]).all (fun o => !(f32Val (fpFld b o)).nonFinite)

/-- R286 to R297: is a record in range for an operation, and where does its barrier stand? -/
def ArrayOp.recordOk (op : ArrayOp) (b : List Byte) : Bool × Option Nat := match op with
  | .read _ _ _ _ _ _ _ _ _ => (readOk b, some 0x22)
  | .upd _ _ _ _ _ _ _ _ _ _ _ => (updOk b, some 0x22)
  | .xfer _ => (xferOk b, some 8)
  | .symw _ => (symOk b, some 8)
  | .symr _ => (symOk b, some 8)
  | .prog _ _ _ => (progOk b, some 0x10)
  | .ckpt _ _ _ _ => (ckptOk b, some 0xD)
  | .scl _ _ _ => (sclOk b, none)
  | .seed _ => (true, none)
/-- R297. -/
def performAScl (f : TQ) (_ : W64) (recs : List (List Byte)) (s : State) : State :=
  let b := recs.getD 0 []
  if !sclOk b then s.reject f prioA 1
  else s.acceptA f [entryOn s (s.apOf f) (0, 0, 1, 1) [] (.scl (fpFld b 0) (fpFld b 4) (fpFld b 8))] none b
/-- R297. -/
def execAScl (f : TQ) (s : State) : Out :=
  s.word (Instr.aScl f).wf f.g (fun s => s.withPair f (fun _ s => s.withRecord f 16 (fun b s => s.act (.aScl f) 0 [b] (performAScl f))))

/-- R298: the age of a pair, from its last `a.prog` or scrub, or from the end of calibration at the last cold start (R404). -/
def pairAge (now born : Nat) : Nat := min ((now - born) / 2 ^ 21) (2 ^ 32 - 1)

/-- R298: what `a.stat` gives. -/
def State.aStatValue (s : State) (core p md : Nat) : Nat := match md with
  | 2 => (s.pair core p).pvf % 2 ^ 32
  | 3 => pairAge s.now (max (s.pair core p).born s.mon.ageFrom)
  | _ => (s.adcOf core (p % 8)).flags.toNat

/-- R298: `.clr` clears the flags it samples. -/
def performAStat (f : TQ) (_ : W64) (_ : List (List Byte)) (s : State) : State :=
  let p := s.apOf f
  let v := s.aStatValue s.iss.core p (subMd f).toNat
  let s := if (subMd f).toNat = 1 then s.updAdc s.iss.core (p % 8) (fun g => { g with flags := 0 }) else s
  s.status prioA (BitVec.ofNat 64 v)
/-- R298. -/
def execAStat (f : TQ) (s : State) : Out :=
  s.word (Instr.aStat f).wf f.g (fun s => s.withPair f (fun _ s => s.act (.aStat f) 0 [] (performAStat f)))

end Sys2Proof.Machine
end

