-- ==== Sys2Proof/Machine/Exact.lean ====
section
/-! DEFINITION. The exact values of the special functions in fixed point, far finer than any bound of R233, and the bounds (log 6). -/

namespace Sys2Proof.Machine

/-- Fraction bits of the fixed point: FP32 values are multiples of 2^−149, and an argument of `sin` has up to 128 integer bits. -/
def fixBits : Nat := 512
/-- One. -/
def fixOne : Int := 2 ^ fixBits
/-- Product. -/
def fixMul (a b : Int) : Int := a * b / fixOne
/-- Quotient. -/
def fixDiv (a b : Int) : Int := a * fixOne / b
/-- A finite value; an FP32 value is exact. -/
def fixOf (v : Fp) : Int := match v with
  | .fin s m e =>
    let k := e + fixBits
    let n : Nat := if 0 ≤ k then m * 2 ^ k.toNat else m / 2 ^ (-k).toNat
    if s then -(n : Int) else n
  | _ => 0
/-- Square root of a value that is not negative. -/
def fixSqrt (a : Int) : Int := isqrt ((a * fixOne).toNat)
/-- The nearest integer. -/
def fixRound (a : Int) : Int := (2 * a + fixOne) / (2 * fixOne)

/-- Σ t·r^k / (n (n+1) … (n+k−1)) from term `t`: the powers of the exponential. -/
def fixExpSum : Nat → Nat → Int → Int → Int → Int
  | 0, _, _, _, acc => acc
  | fuel + 1, n, r, t, acc => fixExpSum fuel (n + 1) r (fixMul t r / n) (acc + t)
/-- Σ p·q^k / (d + 2k): the powers of the inverse tangents. -/
def fixOddSum : Nat → Nat → Int → Int → Int → Int
  | 0, _, _, _, acc => acc
  | fuel + 1, d, q, p, acc => fixOddSum fuel (d + 2) q (fixMul p q) (acc + p / d)
/-- Σ of terms each the one before times −q / (n (n+1)): the powers of sine and cosine, `q` the square of the angle. -/
def fixTrigSum : Nat → Nat → Int → Int → Int → Int
  | 0, _, _, _, acc => acc
  | fuel + 1, n, q, t, acc => fixTrigSum fuel (n + 2) q (-(fixMul t q) / (n * (n + 1))) (acc + t)
/-- Σ of terms each the one before times q / d, q / (d + 2) …: the error function without its factor e^(−z²). -/
def fixErfSum : Nat → Nat → Int → Int → Int → Int
  | 0, _, _, _, acc => acc
  | fuel + 1, d, q, t, acc => fixErfSum fuel (d + 2) q (fixMul t q / d) (acc + t)

/-- ln 2 = 2 artanh(1/3). -/
def fixLn2 : Int := 2 * fixOddSum 200 1 (fixOne / 9) (fixOne / 3) 0
/-- π = 16 arctan(1/5) − 4 arctan(1/239). -/
def fixPi : Int := 16 * fixOddSum 130 1 (-(fixOne / 25)) (fixOne / 5) 0 - 4 * fixOddSum 130 1 (-(fixOne / 57121)) (fixOne / 239) 0

/-- An argument kept between −400 and 400: beyond them the exponential and what is made of it have left the FP32 range. -/
def fixClamp (a : Int) : Int := max (-(400 * fixOne)) (min (400 * fixOne) a)
/-- e^x. -/
def fixExp (x : Int) : Int :=
  let y := fixClamp x
  let k := fixRound (fixDiv y fixLn2)
  let e := fixExpSum 130 1 (y - k * fixLn2) fixOne 0
  if 0 ≤ k then e * 2 ^ k.toNat else e / 2 ^ (-k).toNat
/-- ln x of m · 2^e, m not 0: by the mantissa brought between √½ and √2. -/
def fixLog (m : Nat) (e : Int) : Int :=
  let l := m.log2
  let u : Int := (m : Int) * fixOne / 2 ^ l
  let (u, k) := if 2 * fixOne * fixOne < u * u then (u / 2, e + l + 1) else (u, e + l)
  let t := fixDiv (u - fixOne) (u + fixOne)
  2 * fixOddSum 110 1 (fixMul t t) t 0 + k * fixLn2
/-- 1 / (1 + e^(−x)). -/
def fixSigm (x : Int) : Int := fixDiv fixOne (fixOne + fixExp (-x))
/-- tanh x = (1 − e^(−2|x|)) / (1 + e^(−2|x|)) with the sign of x. -/
def fixTanh (x : Int) : Int :=
  let e := fixExp (-2 * (x.natAbs : Int))
  let y := fixDiv (fixOne - e) (fixOne + e)
  if x < 0 then -y else y
/-- erf x = 2/√π · e^(−x²) · Σ 2^n x^(2n+1) / (1·3·5 … (2n+1)); beyond 15 it differs from ±1 by less than 2^−320. -/
def fixErf (x : Int) : Int :=
  let z : Int := x.natAbs
  let y :=
    if 15 * fixOne ≤ z then fixOne
    else
      let q := fixMul z z
      fixDiv (2 * fixDiv (fixErfSum 1200 3 (2 * q) z 0) (fixExp q)) (fixSqrt fixPi)
  if x < 0 then -y else y
/-- The angle brought between −π and π. -/
def fixAngle (x : Int) : Int := x - fixRound (fixDiv x (2 * fixPi)) * (2 * fixPi)
/-- sin x. -/
def fixSin (x : Int) : Int :=
  let r := fixAngle x
  fixTrigSum 100 2 (fixMul r r) r 0
/-- cos x. -/
def fixCos (x : Int) : Int :=
  let r := fixAngle x
  fixTrigSum 100 1 (fixMul r r) fixOne 0

/-- R233: the exact value of function `op` at a finite FP32 value that is not 0 (and where the function is defined). -/
def fixSpecial (op : Nat) (v : Fp) : Int :=
  let x := fixOf v
  let ln := match v with
    | .fin _ m e => fixLog m e
    | _ => 0
  match op with
  | 0 => fixExp x
  | 1 => ln
  | 2 => fixExp (fixMul (fixClamp x) fixLn2)
  | 3 => fixDiv ln fixLn2
  | 4 => fixDiv fixOne x
  | 5 => fixSqrt (fixDiv fixOne x)
  | 6 => fixSqrt x
  | 7 => fixTanh x
  | 8 => fixSigm x
  | 9 => fixMul x (fixOne + fixErf (fixDiv x (fixSqrt (2 * fixOne)))) / 2
  | 10 => fixMul x (fixSigm x)
  | 11 => fixSin x
  | 12 => fixCos x
  | _ => fixErf x

/-- R233: the units in the last place of the bound. -/
def specialUlps (op : Nat) : Nat := match op with
  | 2 => 1
  | 5 => 1
  | 9 => 3
  | 10 => 3
  | _ => 2

/-- R233: the bound at input `v` for exact value `y`: 2 units of 2^−149 below the normal range, 2^−20 for `sin` and `cos` of a
large angle, else units in the last place of `y`. The fixed point is within 2^−350 of the exact value, and no FP32 input that is not one of the exact
cases has a value so near the edge of its bound: DEDUCED, log 6. -/
def specialBound (op : Nat) (v : Fp) (y : Int) : Int :=
  let a := y.natAbs
  if a < 2 ^ (fixBits - 126) then 2 * 2 ^ (fixBits - 149)
  else if (op = 11 ∨ op = 12) ∧ 65536 * fixOne < ((fixOf v).natAbs : Int) then 2 ^ (fixBits - 20)
  else specialUlps op * 2 ^ (a.log2 - 23)

/-- R233: may the result stand for the exact value: within the bound of it; an infinity only where the exact value has left the normal range, of which
R233 says nothing (log 6)? -/
def specialWithin (op : Nat) (v : Fp) (y : Int) (r : Fp) : Bool :=
  let near (z : Int) : Bool := decide (((z - y).natAbs : Int) ≤ specialBound op v y)
  match r with
  | .nan => false
  | .inf s => s == decide (y < 0) && decide (((2 ^ 24 - 1) * 2 ^ 104 : Int) * fixOne < (y.natAbs : Int))
  | r => near (fixOf r)

/-- R233: a result for which the spec gives a bound only: the free value where it lies within the bound, and otherwise the exact
value rounded (a zero keeps the sign of the side it comes from). -/
def specialBounded (op : Nat) (v free : Fp) : Fp :=
  let y := fixSpecial op v
  if specialWithin op v y free then free
  else if y = 0 then .fin (v.sign && (op == 9 || op == 10)) 0 0
  else (f32Of (.fin (decide (y < 0)) y.natAbs (-(fixBits : Int)))).1

end Sys2Proof.Machine
end

