-- ==== Sys2Proof/Machine/Special.lean ====
section
/-! DEFINITION. What the special functions compute (R232 to R234): the table of special inputs, the exact cases, and a free value
within the bound of R233 where the spec gives only the bound (log 6). -/

namespace Sys2Proof.Machine

/-- The integer a finite value is, if it is one. -/
def Fp.asInt : Fp → Option Int
  | .fin s m e =>
    let mag : Option Nat := if 0 ≤ e then some (m * 2 ^ e.toNat) else if m % 2 ^ (-e).toNat = 0 then some (m / 2 ^ (-e).toNat) else none
    mag.map (fun n => if s then -(n : Int) else n)
  | _ => none

/-- The exponent of a power of two, if the value is one. -/
def Fp.asPow : Fp → Option Int
  | .fin false m e => if m ≠ 0 ∧ 2 ^ m.log2 = m then some (m.log2 + e) else none
  | _ => none

/-- R234: the result at an infinity. -/
def specialInf (op : Nat) (s : Bool) : Fp := match op with
  | 0 => if s then .zero else .inf false
  | 1 => if s then .nan else .inf false
  | 2 => if s then .zero else .inf false
  | 3 => if s then .nan else .inf false
  | 4 => .fin s 0 0
  | 5 => if s then .nan else .zero
  | 6 => if s then .nan else .inf false
  | 7 => .fin s 1 0
  | 8 => if s then .zero else .fin false 1 0
  | 9 => if s then .fin true 0 0 else .inf false
  | 10 => if s then .fin true 0 0 else .inf false
  | 11 => .nan
  | 12 => .nan
  | _ => .fin s 1 0

/-- R234: the result at a zero, exact for every function. -/
def specialZero (op : Nat) (s : Bool) : Fp × Flags := match op with
  | 0 => (.fin false 1 0, 0)
  | 1 => (.inf true, flagDz)
  | 2 => (.fin false 1 0, 0)
  | 3 => (.inf true, flagDz)
  | 4 => (.inf s, flagDz)
  | 5 => (.inf s, flagDz)
  | 8 => (.fin false 1 (-1), 0)
  | 12 => (.fin false 1 0, 0)
  | _ => (.fin s 0 0, 0)

/-- R234: functions that give NaN below zero. -/
def negativeIsNan (op : Nat) : Bool := op == 1 || op == 3 || op == 5 || op == 6

/-- The largest magnitude whose reciprocal is not below the normal range: 2^126. -/
def rcpNormal (v : Fp) : Bool := match v with
  | .fin _ m e => cmpScaled m e 1 126 != .gt
  | _ => false

/-- R233, R234: the results the spec fixes at a finite nonzero input, with their flags: exact cases and correctly rounded ones. -/
def specialFinite (op : Nat) (v : Fp) : Option (Fp × Flags) :=
  if negativeIsNan op && v.sign then some (.nan, flagNf ||| flagNx)
  else match op with
    | 1 => if v.asInt = some 1 then some (.zero, 0) else none
    | 2 => match v.asInt with
      | some n => if 128 ≤ n then some (.inf false, flagOf ||| flagNx) else if -149 ≤ n then some (.fin false 1 n, 0) else none
      | none => none
    | 3 => v.asPow.map (fun n => (Fp.ofInt n, 0))
    | 4 => if rcpNormal v then
        let (r, fl) := f32Of ((Fp.fin false 1 0).divSticky v)
        some (r, (fl &&& ~~~flagNf) ||| flagNx)
      else none
    | 6 =>
      let (r, fl) := f32Of v.sqrtSticky
      some (r, fl ||| flagNx)
    | _ => none

/-- R64: the flags of a free result: inexact, an overflow when it is infinite, an underflow when it is below the normal range. -/
def freeFlags (op : Nat) (x : W32) (r : Fp) : Flags := match r with
  | .nan => flagNf ||| flagNx
  | .inf _ => flagOf ||| flagNx
  | .fin _ m e => flagNx ||| (match cmpScaled m e 1 (-126) with
    | .lt => flagUf
    | .eq => if Config.specialUf op x then flagUf else 0
    | .gt => 0)

/-- R232 to R234: function `op` at FP32 bits. -/
def special (op : Nat) (x : W32) : Fp × Flags :=
  match f32Val x with
  | .nan => (.nan, flagNf ||| flagNx)
  | .inf s => (specialInf op s, flagNf ||| flagNx)
  | v =>
    if v.isZero then specialZero op v.sign
    else match specialFinite op v with
      | some r => r
      | none =>
        let r := specialBounded op v (f32Val (Config.special op x))
        (r, freeFlags op x r)

/-- R232: the flags of rounding a result into `dd`; an infinite result into an IEEE format sets `nf` only as R234 says, into an integer format it
saturates (R60, R63). -/
def roundFlags (fmt : Nat) (r : Fp) (fl : Flags) : Flags := if !isRecFmt fmt && !isIntFmt fmt && r == .inf r.sign then fl &&& ~~~flagNf else fl

/-- R232: the region form. -/
def specialRegion (op : Nat) (dd da : Region) (m : Memory) : VRes :=
  let xs := da.decoded m
  let ys := xs.map (fun x => special op (f32Bits x.1))
  let vs := ys.map Prod.fst
  let fls := List.zipWith (fun x y => x.2 ||| y.2) xs ys
  let fl := orFlags fls
  if isRecFmt dd.fmt then
    let (o, fe) := dd.encode .rne vs
    { out := dd.mark o fls, flags := fl ||| fe }
  else
    let cs := vs.map (fun v =>
      let (b, fe) := encodeScalar dd.fmt .rne v
      (b, roundFlags dd.fmt v fe))
    { out := dd.mark (flagged (dd.putBits (eltSize dd.fmt) (cs.map Prod.fst)) (cs.map Prod.snd)) fls, flags := fl ||| orFlags (cs.map Prod.snd) }

/-- R110: the opcode of an F word. -/
def specialOpOf (i : Instr) : Nat := match i with
  | .fExp _ => 0
  | .fLog _ => 1
  | .fExp2 _ => 2
  | .fLog2 _ => 3
  | .fRcp _ => 4
  | .fRsqrt _ => 5
  | .fSqrt _ => 6
  | .fTanh _ => 7
  | .fSigm _ => 8
  | .fGelu _ => 9
  | .fSilu _ => 10
  | .fSin _ => 11
  | .fCos _ => 12
  | _ => 13

end Sys2Proof.Machine
end

