-- ==== Sys2Proof/Machine/Lanes.lean ====
section
/-! DEFINITION. What the lane crossbar does with the lanes of each chunk (R235 to R238). -/

namespace Sys2Proof.Machine

/-- R235: byte `j` of the lane pattern of a context; the identity until written. -/
def Ctx.patByte (c : Ctx) (j : Nat) : Byte := look (BitVec.ofNat 8 j) c.xpat j
/-- R235: the lane pattern. -/
def Ctx.pattern (c : Ctx) : List Byte := (List.range 64).map c.patByte
/-- R237: load the lane pattern. -/
def Ctx.setPattern (c : Ctx) (bs : List Byte) : Ctx :=
  { c with xpat := (List.zip (List.range 64) bs).foldl (fun m x => Machine.put m x.1 x.2) c.xpat }

/-- R235: is the lane dropped? -/
def laneDropped (b : Byte) : Bool := b.getLsbD 7
/-- R235: the destination lane. -/
def laneDst (b : Byte) : Nat := b.toNat % 64

/-- R238: do two lanes that are delivered name one destination? -/
def patternCollides (p : List Byte) : Bool := !decide ((p.filter (fun b => !laneDropped b)).map laneDst).Nodup

/-- R236: a lane of a chunk; a lane at or beyond its end reads as zero bits. -/
def laneOf (c : List Nat) (j : Nat) : Nat := c.getD j 0

/-- R238: what `x.app` writes to lane `j` of a chunk, if anything. -/
def appLane (p : List Byte) (keep : Bool) (c : List Nat) (j : Nat) : Option Nat :=
  match (List.range c.length).find? (fun i => !laneDropped (p.getD i 0) && laneDst (p.getD i 0) == j) with
  | some i => some (laneOf c i)
  | none => if keep then none else some 0

/-- R238: the amount of `x.rot`, or the lane of `x.bc`. -/
def laneAmt (f : VR) : Nat := 16 * (f.dc.toNat % 4) + f.md.toNat

/-- R238: what an X word writes to lane `j` of a chunk. -/
def laneOut (i : Instr) (p : List Byte) (c : List Nat) (j : Nat) : Option Nat := match i with
  | .xApp f => appLane p (f.md.getLsbD 0) c j
  | .xRot f => some (laneOf c ((j + 64 - laneAmt f) % 64))
  | .xBc f => some (laneOf c (laneAmt f))
  | .xTr _ => some (laneOf c (8 * (j % 8) + j / 8))
  | .xRev f => some (laneOf c (j ^^^ (2 ^ (f.md.toNat + 1) - 1)))
  | _ => none

/-- R236: an X command over the chunks of a region. -/
def lanesRegion (i : Instr) (p : List Byte) (dd da : Region) (m : Memory) : VRes :=
  let e := eltSize dd.fmt
  let cs := chunksOf 64 (da.count / 64 + 1) (da.bits e m)
  { out := (List.zip (List.range cs.length) cs).flatMap (fun x =>
      (List.range x.2.length).filterMap (fun j => (laneOut i p x.2 j).map (fun b =>
        { addr := dd.elem e (64 * x.1 + j), bytes := bytesOf e b }))) }

/-- R237: the pattern an `x.ld` reads. -/
def patternRegion (da : Region) (m : Memory) : VRes := { pat := (da.bits 1 m).map (BitVec.ofNat 8) }

end Sys2Proof.Machine
end

