-- ==== Sys2Proof/Machine/Summary.lean ====
section
/-! DEFINITION. Summary records: quantile sketches, heavy-hitter lists and distinct-count records, their updates and merges
(R239 to R263). -/

namespace Sys2Proof.Machine

/-- A little-endian field of a record's bytes. -/
def recField (bs : List Byte) (off n : Nat) : Nat := ofBytes ((bs.drop off).take n)
/-- R244: the canonical NaN, which also marks an empty held sample. -/
def emptyKey : Nat := 0x7FC00000
/-- R243: the order of FP32 keys, −0 before +0. -/
def keyOrder (b : Nat) : Int := if b < 2 ^ 31 then b else -((b - 2 ^ 31 : Nat) : Int) - 1
/-- R243: keys sorted ascending. -/
def sortKeys (l : List Nat) : List Nat := sortBy (fun x y => decide (keyOrder x < keyOrder y)) l

/-! ### Coins (R242) -/

/-- The coin source of a command: the mode, the state of its own in mode 0, the header state of modes 1 and 2, and the compactions and
lifts made so far (R257). -/
structure Coins where
  mode : Nat
  y : W64 := 0
  coin : Nat := 0
  ops : Nat := 0
deriving DecidableEq, Repr

/-- R242 mode 2: one step of the 32-bit state. -/
def seedStep (c : Nat) : Nat :=
  let x : W32 := BitVec.ofNat 32 (if c = 0 then 1 else c)
  let x := x ^^^ (x <<< 13)
  let x := x ^^^ (x >>> 17)
  (x ^^^ (x <<< 5)).toNat

/-- R242: a bit draw. -/
def Coins.bit (c : Coins) : Bool × Coins := match c.mode with
  | 0 => let y := coinStep c.y
    (y.getLsbD 0, { c with y := y })
  | 1 => (c.coin.testBit 0, { c with coin := c.coin ^^^ 1 })
  | _ => let x := seedStep c.coin
    (x.testBit 0, { c with coin := x })

/-- R242: a 64-bit draw. -/
def Coins.word (c : Coins) : Nat × Coins := match c.mode with
  | 0 => let y := coinStep c.y
    (y.toNat, { c with y := y })
  | _ => let x := seedStep c.coin
    let z := seedStep x
    (z * 2 ^ 32 + x, { c with coin := z })

/-! ### The quantile sketch (R241, R243, R244) -/

/-- A sketch: `blk` holds its eight blocks and the transient ninth. -/
structure Sketch where
  cmode : Nat
  lbase : Nat
  totw : Nat
  kmin : Nat
  kmax : Nat
  hkey : Nat
  blk : List (List Nat)
  coins : Coins
deriving DecidableEq, Repr

/-- Entries at even positions. -/
def evens {α : Type} : List α → List α
  | a :: _ :: l => a :: evens l
  | l => l

/-- R243: compact the entries of one level: what is promoted and what is kept. -/
def compact (l : List Nat) (c : Coins) : List Nat × List Nat × Coins :=
  let l := sortKeys l
  let keep := if l.length % 2 = 1 then l.drop (l.length - 1) else []
  let l := if l.length % 2 = 1 then l.dropLast else l
  if l.isEmpty then ([], keep, c)
  else
    let (b, c) := c.bit
    (if b then evens (l.drop 1) else evens l, keep, c)

/-- R243: one pass of `settle` over the blocks; `up` is what the block below promoted. -/
def settlePass : List (List Nat) → List Nat → Coins → List (List Nat) × Coins
  | [], _, c => ([], c)
  | [x], up, c => ([x ++ up], c)
  | x :: xs, up, c =>
    if 62 < (x ++ up).length then
      let (prom, keep, c) := compact (x ++ up) c
      let (r, c) := settlePass xs prom { c with ops := c.ops + 1 }
      (keep :: r, c)
    else
      let (r, c) := settlePass xs [] c
      ((x ++ up) :: r, c)

/-- R243: a lift without the `settle` that ends it. -/
def Sketch.liftOnce (s : Sketch) : Sketch :=
  let (prom, keep, c) := compact (s.blk.headD []) s.coins
  let (prom, c) := if keep.isEmpty then (prom, c) else
    let (b, c) := c.bit
    (if b then prom ++ keep else prom, c)
  let rest := s.blk.drop 1 ++ [[]]
  { s with blk := (rest.headD [] ++ prom) :: rest.drop 1, lbase := s.lbase + 1, coins := { c with ops := c.ops + 1 } }

/-- R243: settle, lifting while the ninth block is not empty; each round promotes half of what it holds, so `fuel` suffices. -/
def Sketch.settleN : Nat → Sketch → Sketch
  | 0, s => s
  | fuel + 1, s =>
    let (b, c) := settlePass s.blk [] s.coins
    let s := { s with blk := b, coins := c }
    if (b.getD 8 []).isEmpty then s else Sketch.settleN fuel s.liftOnce

/-- R243. -/
def Sketch.settle (s : Sketch) : Sketch := s.settleN 128
/-- R243. -/
def Sketch.lift (s : Sketch) : Sketch := s.liftOnce.settle

/-- Add entries to block 0. -/
def Sketch.push (s : Sketch) (xs : List Nat) : Sketch := { s with blk := (s.blk.headD [] ++ xs) :: s.blk.drop 1 }

/-- R244: insert a key that is not NaN. -/
def Sketch.insert (s : Sketch) (x : Nat) : Sketch :=
  let w := s.totw
  let s := { s with totw := min (w + 1) (2 ^ 64 - 1), kmin := if keyOrder x < keyOrder s.kmin then x else s.kmin,
                    kmax := if keyOrder s.kmax < keyOrder x then x else s.kmax }
  if s.lbase = 0 then (s.push [x]).settle
  else
    let r := w % 2 ^ s.lbase
    let s := if s.hkey = emptyKey then { s with hkey := x }
      else if s.cmode = 1 then s
      else
        let (d, c) := s.coins.word
        { s with coins := c, hkey := if d % (r + 1) = 0 then x else s.hkey }
    if r = 2 ^ s.lbase - 1 then (({ s with hkey := emptyKey }).push [s.hkey]).settle else s

/-- R241: the offset of block `b`. -/
def blockOff (b : Nat) : Nat := 0x20 + 252 * b

/-- R241: is a record a valid sketch? -/
def sketchValid (bs : List Byte) : Bool :=
  bs.length == 2048 && recField bs 0 1 == 0x51 && recField bs 1 1 == 0 && decide (recField bs 2 1 ≤ 2) &&
  decide (recField bs 3 1 ≤ 8) && decide (recField bs 4 1 ≤ 56) && recField bs 5 3 == 0 &&
  (List.range 8).all (fun b => decide (recField bs (blockOff b) 2 ≤ 62) && recField bs (blockOff b + 2) 2 == 0)

/-- R241, R242: a valid record read, with the seed of mode 0; `swap` reads a mode-0 record with mode-2 coins (R254). -/
def sketchOf (bs : List Byte) (seed : W64) (swap : Bool) : Sketch :=
  let m := recField bs 2 1
  { cmode := m, lbase := recField bs 4 1, totw := recField bs 8 8, kmin := recField bs 16 4, kmax := recField bs 20 4,
    hkey := recField bs 28 4,
    blk := (List.range 8).map (fun b => (List.range (recField bs (blockOff b) 2)).map (fun i => recField bs (blockOff b + 4 + 4 * i) 4))
      ++ [[]],
    coins := { mode := if swap && m == 0 then 2 else m, y := seed, coin := recField bs 24 4 } }

/-- R241: the bytes of a block, sorted, its unused slots +0. -/
def blockBytes (l : List Nat) : List Byte :=
  bytesOf 2 l.length ++ [0, 0] ++ (sortKeys l).flatMap (bytesOf 4) ++ List.replicate (4 * (62 - l.length)) 0

/-- R241: levels in use. -/
def levelsUsed (blk : List (List Nat)) : Nat := ((List.range 8).filter (fun b => !(blk.getD b []).isEmpty)).foldl (fun _ b => b + 1) 0

/-- R241: a record written. -/
def Sketch.pack (s : Sketch) : List Byte :=
  [0x51, 0, BitVec.ofNat 8 s.cmode, BitVec.ofNat 8 (levelsUsed s.blk), BitVec.ofNat 8 s.lbase, 0, 0, 0] ++ bytesOf 8 s.totw
    ++ bytesOf 4 s.kmin ++ bytesOf 4 s.kmax ++ bytesOf 4 s.coins.coin ++ bytesOf 4 s.hkey ++ (s.blk.take 8).flatMap blockBytes

/-- R250: lift while below a level. -/
def Sketch.liftTo (target : Nat) : Nat → Sketch → Sketch
  | 0, s => s
  | fuel + 1, s => if s.lbase < target then Sketch.liftTo target fuel s.lift else s

/-- R250: merge `a` into `b` with the coins of `b`. -/
def Sketch.merge (b a : Sketch) : Sketch :=
  let a := Sketch.liftTo b.lbase 64 { a with coins := b.coins }
  let b := Sketch.liftTo a.lbase 64 { b with coins := a.coins }
  let b := ({ b with blk := List.zipWith (fun x y => x ++ y) b.blk a.blk }).settle
  { b with totw := min (b.totw + a.totw) (2 ^ 64 - 1), kmin := if keyOrder a.kmin < keyOrder b.kmin then a.kmin else b.kmin,
           kmax := if keyOrder b.kmax < keyOrder a.kmax then a.kmax else b.kmax }

/-- R261: the first entry whose cumulative weight is at least `t`. -/
def reachWeight (t : Fp) : List (Nat × Nat) → Nat → Nat → Nat
  | [], _, last => last
  | (x, w) :: xs, cum, _ => if (Fp.ofInt (cum + w : Nat)).cmp t != some .lt then x else reachWeight t xs (cum + w) x

/-- R261: a quantile and its flags. -/
def Sketch.quantile (s : Sketch) (φ : Fp) : Nat × Flags :=
  if s.totw = 0 ∨ φ.isNan then (emptyKey, flagNf)
  else if φ.cmpNum .zero != some .gt then (s.kmin, φ.consume)
  else if φ.cmp (.fin false 1 0) != some .lt then (s.kmax, φ.consume)
  else
    let es := (List.zip (List.range 8) s.blk).flatMap (fun b => b.2.map (fun x => (x, 2 ^ (s.lbase + b.1))))
    let es := sortBy (fun x y : Nat × Nat => decide (keyOrder x.1 < keyOrder y.1)) es
    if es.isEmpty then (s.hkey, if s.hkey = emptyKey then flagNf else 0)
    else (reachWeight (φ.mul (Fp.ofInt ((es.map Prod.snd).foldl (· + ·) 0 : Nat))) es 0 emptyKey, 0)

/-! ### The heavy-hitter list (R245, R246) -/

/-- A heavy-hitter list. -/
structure HList where
  kwid : Nat
  total : Nat
  ebnd : Nat
  ents : List (Int × Nat)
deriving DecidableEq, Repr

/-- R245: is a record a valid list? -/
def listValid (bs : List Byte) : Bool :=
  bs.length == 512 && recField bs 0 1 == 0x48 && (recField bs 1 1 == 2 || recField bs 1 1 == 4) && decide (recField bs 12 1 ≤ 62) &&
    recField bs 13 3 == 0

/-- R245: a valid record read. -/
def listOf (bs : List Byte) : HList :=
  { kwid := recField bs 1 1, total := recField bs 2 6, ebnd := recField bs 8 4,
    ents := (List.range (recField bs 12 1)).map (fun i => (toSigned 32 (recField bs (16 + 8 * i) 4), recField bs (20 + 8 * i) 4)) }

/-- R245: a record written; slots beyond those in use are zero. -/
def HList.pack (h : HList) : List Byte :=
  [0x48, BitVec.ofNat 8 h.kwid] ++ bytesOf 6 h.total ++ bytesOf 4 h.ebnd ++ bytesOf 4 h.ents.length
    ++ h.ents.flatMap (fun e => bytesOf 4 (fromSigned 32 e.1) ++ bytesOf 4 e.2) ++ List.replicate (8 * (62 - h.ents.length)) 0

/-- R246: one more of the first entry with key `x`. -/
def bump (x : Int) : List (Int × Nat) → List (Int × Nat)
  | [] => []
  | e :: es => if e.1 = x then (x, min (e.2 + 1) (2 ^ 32 - 1)) :: es else e :: bump x es

/-- R246: replace the lowest slot that holds the smallest count. -/
def replaceMin (c : Nat) (x : Int) : List (Int × Nat) → List (Int × Nat)
  | [] => []
  | e :: es => if e.2 = c then (x, min (c + 1) (2 ^ 32 - 1)) :: es else e :: replaceMin c x es

/-- R246: count a key. -/
def HList.add (h : HList) (x : Int) : HList :=
  let h := { h with total := min (h.total + 1) (2 ^ 48 - 1) }
  if h.ents.any (fun e => e.1 == x) then { h with ents := bump x h.ents }
  else if h.ents.length < 62 then { h with ents := h.ents ++ [(x, 1)] }
  else
    let c := (h.ents.map Prod.snd).foldl min (2 ^ 32 - 1)
    { h with ebnd := max h.ebnd c, ents := replaceMin c x h.ents }

/-- R251: the count of a key, or the bound of a list that lacks it. -/
def HList.count (h : HList) (x : Int) : Nat := match h.ents.find? (fun e => e.1 == x) with
  | some e => e.2
  | none => h.ebnd

/-- R251, R263: order by count descending, then by key ascending. -/
def topFirst (l : List (Int × Nat)) : List (Int × Nat) :=
  sortBy (fun x y => decide (y.2 < x.2) || (x.2 == y.2 && decide (x.1 < y.1))) l

/-- R251: merge `a` into `b`. -/
def HList.merge (b a : HList) : HList :=
  let keys := ((b.ents ++ a.ents).map Prod.fst).eraseDups
  let cs := topFirst (keys.map (fun x => (x, min (b.count x + a.count x) (2 ^ 32 - 1))))
  { kwid := max a.kwid b.kwid, total := min (a.total + b.total) (2 ^ 48 - 1), ents := cs.take 62,
    ebnd := min (max (a.ebnd + b.ebnd) ((cs.getD 62 (0, 0)).2)) (2 ^ 32 - 1) }

/-! ### The distinct-count record (R247 to R249) -/

/-- A distinct-count record. -/
structure DCount where
  nadd : Nat
  regs : List Nat
deriving DecidableEq, Repr

/-- R247: is a record valid? -/
def distinctValid (bs : List Byte) : Bool :=
  bs.length == 1040 && recField bs 0 1 == 0x44 && recField bs 1 7 == 0 && (bs.drop 16).all (fun b => decide (b.toNat < 64))

/-- R247: a valid record read. -/
def distinctOf (bs : List Byte) : DCount := { nadd := recField bs 8 8, regs := (bs.drop 16).map BitVec.toNat }

/-- R247: a record written. -/
def DCount.pack (d : DCount) : List Byte := [0x44, 0, 0, 0, 0, 0, 0, 0] ++ bytesOf 8 d.nadd ++ d.regs.map (BitVec.ofNat 8)

/-- R248. -/
def keyHash (k : W64) : W64 :=
  let k := k ^^^ (k >>> 32)
  let k := k * 0x9F3B5A2C6E1D4B87
  let k := k ^^^ (k >>> 29)
  let k := k * 0xC4E1A7D2593F8B6B
  k ^^^ (k >>> 32)

/-- R248: add a key. -/
def DCount.add (d : DCount) (k : W64) : DCount :=
  let h := (keyHash k).toNat
  let j := h / 2 ^ 54
  { nadd := min (d.nadd + 1) (2 ^ 64 - 1), regs := d.regs.set j (max (d.regs.getD j 0) (clzLow 54 h + 1)) }

/-- R252: merge. -/
def DCount.merge (b a : DCount) : DCount :=
  { nadd := min (a.nadd + b.nadd) (2 ^ 64 - 1), regs := List.zipWith max b.regs a.regs }

/-- The series 2·artanh(n/d) · 2^128 by `fuel` terms, each floored. -/
def artanhAux (n d : Nat) : Nat → Nat → Nat → Nat → Nat
  | 0, _, _, acc => 2 * acc
  | fuel + 1, t, k, acc => artanhAux n d fuel (t * n * n / (d * d)) (k + 2) (acc + t / k)

/-- ln((d + n)/(d − n)) · 2^128, within 2^−118 for n/d ≤ 1/3. -/
def lnFix (n d : Nat) : Nat := artanhAux n d 60 (2 ^ 128 * n / d) 1 0

/-- R249: 1,024 · ln(1,024/V) for V from 1 to 1,024, correctly rounded: the nearest of these values lies 1.9·10^−4 of a unit from a
rounding boundary, far more than the series is off. -/
def smallRange (V : Nat) : Fp :=
  let k := 10 - (bitLen V - 1) - (if V = 2 ^ (V.log2) then 0 else 1)
  let b := V * 2 ^ k
  (f32Of (.fin false (1024 * (k * lnFix 1 3 + lnFix (1024 - b) (1024 + b))) (-128))).1

/-- R249: the estimate. -/
def DCount.estimate (d : DCount) : Fp :=
  let z := (d.regs.map (fun m => 2 ^ (63 - m))).foldl (· + ·) 0
  let V := (d.regs.filter (· == 0)).length
  let E := (f32Of ((Fp.fin false (7213 * 2 ^ 93) 0).divSticky (.fin false (10 * 1025079 * z) 0))).1
  if E.cmp (.fin false 2560 0) != some .gt && decide (0 < V) then smallRange V else E

/-! ### Merges and commands -/

/-- R250 to R252, R254, R260: merge record `src` into `dst`, of one kind: the new record, `none` when one is invalid or their kinds
differ; and the compactions and lifts made. -/
def mergeRecords (dst src : List Byte) (seed : W64) (swap : Bool) : Option (List Byte) × Nat :=
  if sketchValid dst && sketchValid src then
    let r := (sketchOf dst seed swap).merge (sketchOf src seed swap)
    (some r.pack, r.coins.ops)
  else if listValid dst && listValid src then (some ((listOf dst).merge (listOf src)).pack, 0)
  else if distinctValid dst && distinctValid src then (some ((distinctOf dst).merge (distinctOf src)).pack, 0)
  else (none, 0)

/-- The bytes of the record a region names. -/
def Region.record (r : Region) (m : Memory) : List Byte := m.readN r.base r.count

/-- R240: the write of a whole record, or `nf` when it was invalid. -/
def Region.putRecord (r : Region) (fl : Flags) : Option (List Byte) → VRes
  | some bs => { out := [{ addr := r.base, bytes := bs, fl := fl }], flags := fl }
  | none => { flags := flagNf }

/-- R256: an empty record of a kind. -/
def emptyRecord (f : VS) (v : W64) : List Byte :=
  let md := f.md.toNat
  match md % 4 with
  | 0 => ({ cmode := md / 4 % 4, lbase := 0, totw := 0, kmin := 0x7F800000, kmax := 0xFF800000, hkey := emptyKey,
            blk := List.replicate 9 [], coins := { mode := md / 4 % 4, coin := v.toNat % 2 ^ 32 } } : Sketch).pack
  | 1 => ({ kwid := if md.testBit 2 then 4 else 2, total := 0, ebnd := 0, ents := [] } : HList).pack
  | _ => ({ nadd := 0, regs := List.replicate 1024 0 } : DCount).pack

/-- R257: what `v.skq` computes: the sketch after its keys. -/
def sketchAfter (bs : List Byte) (seed : W64) (xs : List (Fp × Flags)) : Sketch :=
  ((xs.map Prod.fst).filter (fun v => !v.isNan)).foldl (fun s v => s.insert (f32Bits v).toNat) (sketchOf bs seed false)

/-- R257. -/
def skqRegion (dd da : Region) (seed : W64) (m : Memory) : VRes :=
  let bs := dd.record m
  let xs := da.decoded m
  if sketchValid bs then dd.putRecord (consumed xs) (some (sketchAfter bs seed xs).pack) else { flags := flagNf }

/-- R257: compactions and lifts `v.skq` will make. -/
def skqOps (dd da : Region) (seed : W64) (m : Memory) : Nat :=
  let bs := dd.record m
  if sketchValid bs then (sketchAfter bs seed (da.decoded m)).coins.ops else 0

/-- R258: the record counts as valid or not by the `kwid` sampled at issue. -/
def skhRegion (kw : Nat) (dd da : Region) (m : Memory) : VRes :=
  let bs := dd.record m
  let bs := bs.take 1 ++ [BitVec.ofNat 8 kw] ++ bs.drop 2
  dd.putRecord 0 (if listValid bs then some ((da.ints m).foldl HList.add (listOf bs)).pack else none)

/-- R248: the keys of a region. -/
def distinctKeys (da : Region) (m : Memory) : List W64 :=
  if isIntFmt da.fmt then (da.ints m).map (BitVec.ofInt 64) else (da.bits 4 m).map (BitVec.ofNat 64)

/-- R259. -/
def skdRegion (dd da : Region) (m : Memory) : VRes :=
  let bs := dd.record m
  dd.putRecord 0 (if distinctValid bs then some ((distinctKeys da m).foldl DCount.add (distinctOf bs)).pack else none)

/-- R260. -/
def skmRegion (dd da : Region) (seed : W64) (m : Memory) : VRes :=
  dd.putRecord 0 (mergeRecords (dd.record m) (da.record m) seed false).1

/-- R261. -/
def skqqRegion (da : Region) (v : W64) (m : Memory) : VRes :=
  let bs := da.record m
  let (x, fl) := if sketchValid bs then (sketchOf bs 0 false).quantile (f32Val (v.extractLsb' 0 32)) else (emptyKey, flagNf)
  { b4 := BitVec.ofNat 64 x, flags := fl }

/-- R262. -/
def skestRegion (da : Region) (m : Memory) : VRes :=
  let bs := da.record m
  if distinctValid bs then { b4 := fpWord (distinctOf bs).estimate } else { b4 := BitVec.ofNat 64 emptyKey, flags := flagNf }

/-- R263. -/
def sktopRegion (dd da : Region) (m : Memory) : VRes :=
  let bs := da.record m
  if listValid bs then
    let h := listOf bs
    let k := dd.count / 2
    let top := (topFirst h.ents).take k
    { b4 := BitVec.ofNat 64 (min k h.ents.length + h.ebnd * 2 ^ 32),
      out := dd.putBits 4 ((top ++ List.replicate (k - top.length) (0, 0)).flatMap (fun e : Int × Nat => [fromSigned 32 e.1, e.2])) }
  else { b4 := BitVec.allOnes 64, flags := flagNf }

end Sys2Proof.Machine
end

