-- ==== Sys2Proof/Machine/Copy.lean ====
section
/-! DEFINITION. Copies: records, checks, the order and effect of transfers (R190 to R196, R75, R254). -/

namespace Sys2Proof.Machine

/-! ### Records (R190, R191) -/

/-- R190, R254: a copy record whose fields are in range. -/
def copyOk (b : List Byte) : Bool :=
  let sspc := fld b 0x14 1
  let dspc := fld b 0x15 1
  let vfmt := fld b 0x16 1
  let op := fld b 0x17 1
  let apart := sspc == 1 || dspc != 0
  decide (sspc ≤ 1) && decide (dspc ≤ 2) && (!apart || decide (vfmt ≤ 10)) && decide (op ≤ 3) && decide (1 ≤ fld b 0x18 4) &&
    decide (fld b 0x18 4 ≤ 2 ^ 24) && decide (fld b 0x1C 1 ≤ 3) && decide (fld b 0x1D 1 ≤ 1) && zeros b 0x1E 2 && zeros b 0x68 8 &&
    (op != 3 || (fld b 0x18 4 == 1 && dspc != 2 && (!apart || vfmt == 6)))

/-- A copy as its record and the bank formats sampled with it give it. -/
def copyOf (b : List Byte) (fmts : SMap Nat) : CopyRec :=
  { sbase := BitVec.ofNat 64 (fld b 0 8), dbase := BitVec.ofNat 64 (fld b 8 8), mask := fld b 0x10 4, useMask := fld b 0x1D 1 == 1,
    sspc := fld b 0x14 1, dspc := fld b 0x15 1, sfmt := fld b 0x16 1, dfmt := fld b 0x16 1, op := fld b 0x17 1, tlen := fld b 0x18 4,
    prio := fld b 0x1C 1, fmts := fmts,
    levels := (List.range 6).map (fun l => (fld b (0x20 + 12 * l) 4, sfld b (0x24 + 12 * l) 4, sfld b (0x28 + 12 * l) 4)) }

/-- The key of a bank in the sampled formats. -/
def bankKey (gsa : Nat) : Nat := gsaCore gsa * 16 + gsaOff gsa / 0x40000 % 16
/-- R192: the format of the source at an address. -/
def CopyRec.srcFmt (r : CopyRec) (a : Nat) : Nat := if r.sspc = 0 then look 0 r.fmts (bankKey a) else r.sfmt
/-- R192: the format of the destination at an address. -/
def CopyRec.dstFmt (r : CopyRec) (a : Nat) : Nat := if r.dspc = 0 then look 0 r.fmts (bankKey a) else r.dfmt

/-- R192: elements that move together: a record's 32, or one. -/
def copyUnit (sf df : Nat) : Nat := if isRecFmt sf || isRecFmt df then 32 else 1

/-- R192, R54: the pieces of a unit on a side of format `f` whose other side has format `o`: how many, their bytes, their elements. -/
def copyPieces (f o : Nat) : Nat × Nat × Nat :=
  if isRecFmt f then (1, recSize f, 32)
  else if isRawFmt f then (if isRawFmt o then (1, 1, 1) else if isRecFmt o then (1, recSize o, 32) else (1, eltSize o, 1))
  else (copyUnit f o, eltSize f, 1)

/-- Bytes of a unit on a side. -/
def unitBytes (f o : Nat) : Nat := (copyPieces f o).1 * (copyPieces f o).2.1
/-- Bytes of a transfer on a side. -/
def CopyRec.sideBytes (r : CopyRec) (f o : Nat) : Nat := r.tlen / copyUnit f o * unitBytes f o
/-- R193: the alignment of a side's elements. -/
def sideAlign (f o : Nat) : Nat :=
  if isRecFmt f then 1 else if isRawFmt f then (if isRawFmt o || isRecFmt o then 1 else eltSize o) else eltSize f

/-! ### Checks at issue (R193) -/

/-- R193, R73: what is wrong with the address of a side of `n` bytes: the scratchpad address fault. -/
def sideFault (core space a n al : Nat) : Bool :=
  match space with
  | 0 => decide (2 ^ 32 ≤ a) || !coreExists (gsaCore a) || a % al != 0 || decide (0x400000 < gsaOff a + n) ||
      decide (0x40000 < gsaOff a % 0x40000 + n)
  | 2 => decide (2 ^ 32 ≤ a) || !coreExists (gsaCore a) || gsaOff a / 2 ^ 18 != 0 || dieOf (gsaCore a) != dieOf core ||
      decide (65536 < a % 65536 + n)
  | _ => false

/-- R192, R193, R254: a side that breaks the rules of its format. -/
def sideRegion (r : CopyRec) (space a f : Nat) : Bool :=
  (r.op != 0 && isRawFmt f) || (r.op == 3 && f != 6) ||
    (isRecFmt f && (r.tlen % 32 != 0 || (space == 0 &&
      (gsaOff a % 0x40000 % recSize f != 0 || decide (recsPerBank f < gsaOff a % 0x40000 / recSize f + r.tlen / 32)))))

/-- One transfer's sides: (space, address, format, other format, base field). -/
def CopyRec.sides (r : CopyRec) (t : Nat) : List (Nat × Nat × Nat × Nat × W64) :=
  let (sa, da) := r.addrs t
  let sf := r.srcFmt sa
  let df := r.dstFmt da
  [(r.sspc, sa, sf, df, r.sbase), (r.dspc, da, df, sf, r.dbase)]

/-- R194, R254: the sizes of summary records by kind byte. -/
def summarySize (kind : Nat) : Option Nat := match kind with
  | 0x51 => some 2048
  | 0x48 => some 512
  | 0x44 => some 1040
  | _ => none

/-- R254: the size of the record transfer `t` of a sketch-merge would find at its source now. -/
def State.mergeSize (s : State) (core : Nat) (r : CopyRec) (t : Nat) : Nat :=
  let a := (r.addrs t).1
  (summarySize (if r.sspc = 1 then (match s.walk ((s.partOf core).getD 16) a with
      | some l => if l.res then (s.readPhys l.host (l.pa + (a - l.base)) l.cz).toNat else 0
      | none => 0)
    else ((s.view s.key).read a).toNat)).getD 1

/-- The bytes transfer `t` moves on a side. -/
def State.moved (s : State) (core : Nat) (r : CopyRec) (t f o : Nat) : Nat := if r.op = 3 then s.mergeSize core r t else r.sideBytes f o

/-- R75: the bytes of the residency mask. -/
def CopyRec.maskBytes (r : CopyRec) : Nat := ceilDiv (r.transfers * r.tlen) 8

/-- R75: the mask lies in one bank below 0x400000, apart from what the copy reads and writes on the issuing core. -/
def State.maskOk (s : State) (core : Nat) (r : CopyRec) : Bool :=
  !r.useMask || r.transfers == 0 ||
    (decide (r.mask + r.maskBytes ≤ 0x400000) && decide (r.mask % 0x40000 + r.maskBytes ≤ 0x40000) &&
      (List.range r.transfers).all (fun t => (r.sides t).all (fun x =>
        !(x.1 == 0 && gsaCore x.2.1 == core && overlaps r.mask r.maskBytes (gsaOff x.2.1) (s.moved core r t x.2.2.1 x.2.2.2.1)))))

/-- R193, R379: the trap of a copy: cause and value; of its regions, `sbase` is named before `dbase`. -/
def State.copyTrap (s : State) (core : Nat) (r : CopyRec) : Option (Nat × W64) :=
  let ts := (List.range r.transfers).flatMap r.sides
  let bases := (List.range r.transfers).flatMap (fun t => (r.sides t).take 1) ++ (List.range r.transfers).flatMap (fun t => (r.sides t).drop 1)
  match ts.find? (fun x => sideFault core x.1 x.2.1 (r.sideBytes x.2.2.1 x.2.2.2.1) (sideAlign x.2.2.1 x.2.2.2.1)) with
  | some x => some (causeAddress, BitVec.ofNat 64 x.2.1)
  | none =>
    if !s.maskOk core r then some (causeAddress, BitVec.ofNat 64 r.mask)
    else match bases.find? (fun x => sideRegion r x.1 x.2.1 x.2.2.1) with
      | some x => some (causeRegion, x.2.2.2.2)
      | none => (ts.find? (fun x => x.1 != 1 && !s.sameParts core (gsaCore x.2.1))).map
          (fun x => (causeProtection, BitVec.ofNat 64 x.2.1))

/-- R53: the formats of the banks a copy's scratchpad sides lie in, sampled for the context in hand. -/
def State.copyFmts (s : State) (r : CopyRec) : SMap Nat :=
  ((List.range r.transfers).flatMap (fun t => let (sa, da) := r.addrs t
    (if r.sspc = 0 then [sa] else []) ++ (if r.dspc = 0 then [da] else []))).foldl (fun m a =>
      if has m (bankKey a) then m
      else put m (bankKey a) (if gsaCore a = s.iss.core then s.fmtOf s.key (gsaOff a / 0x40000)
        else (look 0 (s.core (gsaCore a)).fmt (gsaOff a / 0x40000)).toNat)) []

/-- Sampled formats as bytes, three to a bank. -/
def fmtsToBytes (m : SMap Nat) : List Byte := m.flatMap (fun e => bytesOf 2 e.1 ++ bytesOf 1 e.2)
/-- And back. -/
def fmtsOfBytes (bs : List Byte) : SMap Nat := (chunksOf 3 (bs.length + 1) bs).map (fun x => (fld x 0 2, fld x 2 1))

/-! ### Time (R14) -/

/-- R14: the figure for HBM or host memory: own die, one hop, two hops, host. -/
def memFigure (die : Nat) (l : Option Leaf) : Nat := match l with
  | some l => if l.host then 4000 else match hops die (l.pa / 2 ^ 38) with
    | 0 => 700
    | 1 => 1100
    | _ => 1260
  | none => 700

/-- R14: the figure for a copy of one core; a reducing copy reads its destination too. The spec gives the figure of one transfer of its kind: of a copy with
several whose sides lie apart, the model takes the sides of transfer 0; of one with both sides virtual in different memories, the larger of their figures; and
an operand buffer counts as the scratchpad of its core: the model's choices (log 98). -/
def State.copyFigure (s : State) (core : Nat) (r : CopyRec) : Nat :=
  let part := (s.partOf core).getD 16
  let (sa, da) := r.addrs 0
  let remote := fun space a => if space = 1 ∨ gsaCore a = core then 0 else loadFigure core (gsaCore a)
  let virt := fun space a => if space = 1 then memFigure (dieOf core) (s.walk part a) else 0
  let bytes := (List.range r.transfers).foldl (fun acc t => match r.sides t with
    | [x, y] =>
      let n := s.moved core r t x.2.2.1 x.2.2.2.1
      let m := s.moved core r t y.2.2.1 y.2.2.2.1
      (acc.1 + n + (if r.op = 0 then 0 else m), acc.2 + m)
    | _ => acc) (0, 0)
  (if r.sspc = 1 ∨ r.dspc = 1 then max (virt r.sspc sa) (virt r.dspc da) else 60) + max (remote r.sspc sa) (remote r.dspc da) +
    (max bytes.1 bytes.2 - 1) / 256

/-! ### Moving elements -/

/-- Where an element or a record lies for an engine, found once for all it does there: at a store key, at translated bytes, or why it cannot be reached:
a page that is not resident, a translation fault at an address, something it waits for. -/
inductive Spot where
  | store (key : Nat)
  | virt (ls : List (Bool × Nat × Bool))
  | nonres
  | fault (va : Nat)
  | wait
deriving DecidableEq, Repr

/-- R82: a store of the engine's die to these bytes has left the die's clusters and is not performed: the engine is ordered behind
it. -/
def State.engineWaits (s : State) (die a n : Nat) : Bool :=
  s.msgs.any (fun m => (m.stage == .ring || m.stage == .far) && dieOf m.core == die && m.isStore && overlaps m.addr m.size a n)

/-- The store key of a scratchpad or operand-buffer address. -/
def sideKey (space a : Nat) : Nat := if space = 2 then obKey (gsaCore a) (a / 65536 % 4) (a % 65536) else a

/-- R375, R394: an engine of a core's die finds `n` bytes of a side. -/
def State.spot (s : State) (core space a n : Nat) (rd wr : Bool) : Spot × State :=
  if space = 1 then
    match s.locate ((s.partOf core).getD 16) (dieOf core) a n rd wr with
    | (.at_ ls, s) => (.virt ls, s)
    | (.nonres, s) => (.nonres, s)
    | (.fault va, s) => (.fault va, s)
    | (.wait, s) => (.wait, s)
  else (if s.engineWaits (dieOf core) a n then .wait else .store (sideKey space a), s)

/-- Consecutive pieces of `n` bytes. -/
def State.spots (s : State) (core space n : Nat) (rd wr : Bool) : Nat → Nat → List Spot × State
  | 0, _ => ([], s)
  | k + 1, a =>
    let (x, s) := s.spot core space a n rd wr
    let (xs, s) := State.spots s core space n rd wr k (a + n)
    (x :: xs, s)

/-- The `n` bytes at a spot; zeros where there is no resident page (R75). -/
def State.getSpot (s : State) (p : Spot) (n : Nat) : List Byte × State := match p with
  | .store k => let s := s.touch k n; (s.mem.readN k n, s)
  | .virt ls => (s.readLocs ls, s)
  | _ => (List.replicate n 0, s)

/-- The bytes at consecutive spots. -/
def State.getSpots (s : State) (n : Nat) : List Spot → List Byte × State
  | [] => ([], s)
  | p :: ps =>
    let (b, s) := s.getSpot p n
    let (bs, s) := State.getSpots s n ps
    (b ++ bs, s)

/-- Bytes written at a spot; nothing where there is no resident page (R75). `cov` is what the writer has released. -/
def State.putSpot (s : State) (cov : List (Nat × Nat)) (p : Spot) (bs : List Byte) : State := match p with
  | .store k => s.writeAt k bs cov
  | .virt ls => s.writeLocs ls bs
  | _ => s

/-- The decoded elements of a unit's bytes. -/
def unitDecode (f : Nat) (bs : List Byte) : List Fp := (plainDecode f bs).map Prod.fst

/-- R60, R54: a unit converted from format `sf` to `df`. -/
def unitConvert (sf df : Nat) (bs : List Byte) : List Byte :=
  if sf = df ∨ isRawFmt sf ∨ isRawFmt df then bs
  else if isRecFmt sf || isRecFmt df then (plainEncode df (unitDecode sf bs)).1.flatten
  else bytesOf (eltSize df) (convertBits df .rne sf (ofBytes bs)).1

/-- R194, R63: elements `i` to `i + n − 1` of a source unit combined with those of the destination, encoded once. -/
def unitCombine (op sf df i n : Nat) (src dst : List Byte) : List Byte :=
  if isIntFmt sf && isIntFmt df then
    let a := intVal sf (ofBytes src)
    let b := intVal df (ofBytes dst)
    bytesOf (eltSize df) (satInt df (if op = 1 then a + b else max a b)).1
  else
    let xs := List.zipWith (fun a b : Fp => if op = 1 then b.add a else b.max a) (((unitDecode sf src).drop i).take n) (unitDecode df dst)
    (plainEncode df xs).1.flatten

/-- R75: set the mask bits of elements, and `nres`, when there are any. -/
def State.markElems (s : State) (c : Cmd) (r : CopyRec) (js : List Nat) : State :=
  if js.isEmpty then s
  else
    let s := s.updCmd c.id (fun c => { c with nres := true })
    if r.useMask then
      js.foldl (fun s j =>
        let a := gsaOf c.core (r.mask + j / 8)
        let s := s.touch a 1
        s.writeAt a [s.mem.read a ||| BitVec.ofNat 8 (2 ^ (j % 8))] (s.ctx (ctxKey c.core c.h)).released) s
    else s

/-- A unit on its way: the spots of its pieces at the source and at the destination, and, once read, its bytes. -/
structure UnitMove where
  src : List Spot
  dst : List Spot
  bytes : List Byte := []
deriving DecidableEq, Repr

/-- The element spots of a unit of `n` elements: those of its pieces, of `el` elements each. -/
def elemSpots (el : Nat) (ps : List Spot) : List Spot := ps.flatMap (fun p => List.replicate el p)

/-- The first translation fault among spots. -/
def firstFault (ps : List Spot) : Option Nat := ps.findSome? (fun p => match p with
  | .fault va => some va
  | _ => none)

/-- R194, R195: find the spots of up to `n` units of a transfer from unit `u`, before anything of them is read: as many as can move now, and whether
one waits. A unit with a fault at its source or at its destination is the last: the copy stops there (R193). -/
def State.planUnits (s : State) (core : Nat) (r : CopyRec) (sf df sa da : Nat) : Nat → Nat → List UnitMove × Bool × State
  | _, 0 => ([], false, s)
  | u, n + 1 =>
    let (ks, bs, _) := copyPieces sf df
    let (kd, bd, _) := copyPieces df sf
    let (ps, s) := s.spots core r.sspc bs true false ks (sa + u * unitBytes sf df)
    let (qs, s) := s.spots core r.dspc bd (r.op != 0) true kd (da + u * unitBytes df sf)
    if ps.contains .wait || qs.contains .wait then ([], true, s)
    else if (firstFault ps).isSome || (firstFault qs).isSome then ([{ src := ps, dst := qs }], false, s)
    else
      let (us, w, s) := State.planUnits s core r sf df sa da (u + 1) n
      ({ src := ps, dst := qs } :: us, w, s)

/-- R195: read the source of every unit. -/
def State.readUnits (s : State) (n : Nat) : List UnitMove → List UnitMove × State
  | [] => ([], s)
  | u :: us =>
    let (b, s) := s.getSpots n u.src
    let (vs, s) := State.readUnits s n us
    ({ u with bytes := b } :: vs, s)

/-- R75, R194: write, or combine, the pieces of a unit at the destination, from piece `i` on: element by element, up to a translation fault. -/
def State.writePieces (s : State) (c : Cmd) (r : CopyRec) (sf df : Nat) (bs : List Byte) (cov : List (Nat × Nat)) : Nat → List Spot → State
  | _, [] => s
  | i, p :: ps =>
    let (_, n, el) := copyPieces df sf
    match p with
    | .fault _ => s
    | _ =>
      let (old, s) := if r.op = 0 then ([], s) else s.getSpot p n
      let b := if r.op = 0 then ((unitConvert sf df bs).drop (i * n)).take n else unitCombine r.op sf df (i * el) el bs old
      State.writePieces (s.putSpot cov p b) c r sf df bs cov (i + 1) ps

/-- R75, R193, R194: a unit that has been read is written; what is not resident is marked; a translation fault stops the copy at its element. `j` is the
number of the unit's first element. -/
def State.finishUnit (s : State) (c : Cmd) (r : CopyRec) (sf df j : Nat) (u : UnitMove) : State :=
  let src := elemSpots (copyPieces sf df).2.2 u.src
  let dst := elemSpots (copyPieces df sf).2.2 u.dst
  let ends := match firstFault u.src with
    | some va => some va
    | none => firstFault u.dst
  let pairs := List.zip (List.range src.length) (List.zip src dst)
  let moved := if (firstFault u.src).isSome then [] else pairs.takeWhile (fun x => match x.2.2 with
    | .fault _ => false
    | _ => true)
  let s := s.markElems c r ((moved.filter (fun x => x.2.1 == .nonres || x.2.2 == .nonres)).map (fun x => j + x.1))
  let s := if (firstFault u.src).isSome then s else s.writePieces c r sf df u.bytes (s.ctx (ctxKey c.core c.h)).released 0 u.dst
  s.updCmd c.id (fun c => match ends with
    | some va => { c with err := true, fault := some va }
    | none => { c with done := j + copyUnit sf df })

/-- Units that have been read are written in order. -/
def State.finishUnits (s : State) (c : Cmd) (r : CopyRec) (sf df : Nat) : List UnitMove → Nat → State
  | [], _ => s
  | u :: us, j => State.finishUnits (s.finishUnit c r sf df j u) c r sf df us (j + copyUnit sf df)

/-- R254: does a record of `n` bytes at a scratchpad address stay in its bank? -/
def inBank (space a n : Nat) : Bool :=
  space == 1 || (decide (gsaOff a + n ≤ 0x400000) && decide (gsaOff a % 0x40000 + n ≤ 0x40000))

/-- R194, R254: one sketch-merge transfer, of element `j`: the source record's kind gives its size; it is merged into the destination's in one action. -/
def State.mergeUnit (s : State) (c : Cmd) (r : CopyRec) (sa da j : Nat) : State :=
  let went := fun (err : Bool) (s : State) => s.updCmd c.id (fun c => { c with err := c.err || err, done := j + 1 })
  let stopped := fun (va : Nat) (s : State) => s.updCmd c.id (fun c => { c with err := true, fault := some va })
  match s.spot c.core r.sspc sa 1 true false with
  | (.fault va, s) => stopped va s
  | (.wait, s) => s
  | (.nonres, s) => went true (s.markElems c r [j])
  | (p, s) =>
    let (k, s) := s.getSpot p 1
    match summarySize (ofBytes k) with
    | none => went true s
    | some n =>
      if !inBank r.sspc sa n || !inBank r.dspc da n then went true s
      else
        let (p, s) := s.spot c.core r.sspc sa n true false
        let (q, s) := s.spot c.core r.dspc da n true true
        match firstFault [p, q] with
        | some va => stopped va s
        | none =>
          if p == .wait || q == .wait then s
          else if p == .nonres || q == .nonres then went (p == .nonres) (s.markElems c r [j])
          else
            let (src, s) := s.getSpot p n
            let (dst, s) := s.getSpot q n
            match (mergeRecords dst src 0 true).1 with
            | none => went true s
            | some bs => went false (s.putSpot (s.ctx (ctxKey c.core c.h)).released q bs)

/-- R195: do the sides of a transfer meet? Two virtual sides are taken as meeting. -/
def CopyRec.meets (r : CopyRec) (sa sn da dn : Nat) : Bool := (r.sspc == 1 && r.dspc == 1) || (r.sspc == 0 && r.dspc == 0 && overlaps sa sn da dn)

/-- R195: move up to `n` units of the current transfer; a transfer whose sides meet moves whole, in a cycle in which nothing of it waits. -/
def State.copySome (s : State) (id n : Nat) : State :=
  match s.cmd? id with
  | some c => (match c.kind with
    | .copy r _ =>
      if r.transfers * r.tlen ≤ c.done ∨ c.fault.isSome then s
      else
        let t := c.done / r.tlen
        let e := c.done % r.tlen
        let (sa, da) := r.addrs t
        let sf := r.srcFmt sa
        let df := r.dstFmt da
        if r.op = 3 then s.mergeUnit c r sa da c.done
        else
          let un := copyUnit sf df
          let left := (r.tlen - e) / un
          let whole := r.meets sa (r.sideBytes sf df) da (r.sideBytes df sf)
          let (us, w, s) := s.planUnits c.core r sf df sa da (e / un) (if whole then left else min n left)
          if whole && w then s
          else
            let (us, s) := s.readUnits (copyPieces sf df).2.1 us
            s.finishUnits c r sf df us c.done
    | _ => s)
  | none => s

/-- Move everything that is left, at most `n` transfers. -/
def State.copyRest (s : State) (id : Nat) : Nat → State
  | 0 => s
  | n + 1 => State.copyRest (s.copySome id (2 ^ 24)) id n

/-- R217, R196, R384: does a copy still wait, for earlier V, F and X commands, for readers of its operand buffer, or for its context? -/
def State.copyWaits (s : State) (c : Cmd) : Bool :=
  s.parked c || c.after.any (fun i => (s.cmd? i).isSome) || match c.kind with
    | .copy _ rs => !rs.isEmpty
    | _ => false

/-- R13: are all pages of `n` bytes of a virtual space in the engine TLB of a die? Pages are 64 KiB or more. -/
def State.allCached (s : State) (part die va n : Nat) : Bool :=
  (List.range ((va % 65536 + n + 65535) / 65536)).all (fun i => ((s.die die).cached part ((va / 65536 + i) * 65536)).isSome)

/-- R13: does every page of the virtual sides of a copy hit in the engine TLB? -/
def State.pagesHit (s : State) (core : Nat) (r : CopyRec) : Bool :=
  (List.range r.transfers).all (fun t => (r.sides t).all (fun x =>
    x.1 != 1 || s.allCached ((s.partOf core).getD 16) (dieOf core) x.2.1 (s.moved core r t x.2.2.1 x.2.2.2.1)))

/-- R14, R15: the time of a command that moves bytes goes on: in every cycle on a quiet machine, else in cycles that are free (log 2). -/
def State.moveTime (s : State) (c : Cmd) (quiet : Bool) : State :=
  let (b, s) := if quiet then (true, s) else s.freeBit
  if b then s.updCmd c.id (fun c => { c with rem := c.rem - 1 }) else s

/-- One cycle of a copy: a free number of its elements, while it finds a path (R310) and waits for nothing. Its time counts from its issue, while it waits
for commands of its context too (R14); it stands still with its context (R384). -/
def State.copyCycle (s : State) (c : Cmd) : State :=
  match c.kind with
  | .copy r _ =>
    if c.held || s.parked c || c.fault.isSome || !s.hasWay c then s
    else
      let (n, s) := s.freeNat
      let quiet := s.quietFor (ctxKey c.core c.h) [] && s.pagesHit c.core r
      (if s.copyWaits c then s else s.copySome c.id n).moveTime c quiet
  | _ => s

/-- R217: does a copy read scratchpad: as its source, as the destination it reduces into, or as its mask? -/
def CopyRec.readsSpad (r : CopyRec) : Bool := r.sspc == 0 || (r.dspc == 0 && r.op != 0) || r.useMask

/-! ### The word -/

/-- R345: a copy engine of a die that a partition owns; which of them is free (`e`). -/
def State.engineOf (s : State) (part die e : Nat) : Nat :=
  let es := (List.range 6).filter (fun i => (s.part part).engines.testBit (6 * die + i))
  es.getD (e % es.length) 0

/-- R345: the copy engine that runs a copy of a core's partition. -/
def State.engineFor (s : State) (core e : Nat) : Nat := s.engineOf ((s.partOf core).getD 16) (dieOf core) e

/-- R196: the T commands that the reader counts of a copy's operand buffers count. -/
def State.obReaders (s : State) (r : CopyRec) : List Nat :=
  (s.cmds.filter (fun x => r.obTargets.any (fun b => (s.readers b.1 b.2).any (fun y => y.id == x.id)))).map (fun x => x.id)

/-- R73, R196: a copy has completed: `fillseq` of the buffers it fills rises. -/
def State.filled (s : State) (r : CopyRec) : State :=
  r.obTargets.foldl (fun s b => s.updCore b.1 (fun x => { x with obSeq := put x.obSeq b.2 (look 0 x.obSeq b.2 + 1) })) s

/-- R190, R196: a copy acts: rejected, done at once when empty, or started. The readers it waits for were recorded at issue, from which its time counts too (R14). -/
def performQCopy (f : TQ) (_ : W64) (recs : List (List Byte)) (s : State) : State :=
  let b := recs.getD 0 []
  if !copyOk b then s.reject f prioQ 1
  else
    let r := copyOf b (fmtsOfBytes (recs.getD 1 []))
    if r.transfers = 0 then
      let s := ((s.armIf s.key f.kw f.k.toNat).status prioQ 0).filled r
      if f.kw then s.endTok s.key f.k.toNat false false false else s
    else
      let readers := (chunksOf 8 ((recs.getD 2 []).length + 1) (recs.getD 2 [])).map ofBytes
      let id := s.nextId
      let (e, s) := s.freeNat
      let fig := s.copyFigure s.iss.core r
      let eng := s.engineFor s.iss.core e
      (s.accept f prioQ (.copy r readers) none r.readsSpad b).updCmd id (fun c => { c with
        st := .running, rem := fig - (s.now - s.iss.when_), eng := eng })

/-- R190 to R193. -/
def execQCopy (f : TQ) (s : State) : Out :=
  s.word (Instr.qCopy f).wf f.g (fun s => s.withRecord f 112 (fun b s =>
    if !copyOk b then s.act (.qCopy f) 0 [b] (performQCopy f)
    else
      let fm := s.copyFmts (copyOf b [])
      match s.copyTrap s.iss.core (copyOf b fm) with
      | some (c, v) => s.raise 6 c v
      | none => s.act (.qCopy f) 0 [b, fmtsToBytes fm, (s.obReaders (copyOf b fm)).flatMap (bytesOf 8)] (performQCopy f)))

/-! ### Events -/

/-- R196: the recorded readers of an operand buffer that have still to fetch. -/
def State.waitsFor (s : State) (rs : List Nat) : List Nat :=
  rs.filter (fun i => match s.cmd? i with
    | some c => (match c.kind with
      | .product p => !p.fetched
      | _ => false)
    | none => false)

/-- R196: a copy into an operand buffer starts to write. -/
def execOperandBufferFillStart (id : Nat) (s : State) : Out :=
  match s.cmd? id with
  | some c => (match c.kind with
    | .copy r rs => .next (if (s.waitsFor rs).isEmpty && !s.parked c then s.updCmd id (fun c => { c with kind := .copy r [] }) else s)
    | _ => .next s)
  | none => .next s

/-- R195, R196: a copy completes: what is left of it moves; its token is signalled; a filled buffer's `fillseq` rises. -/
def copyDone (id : Nat) (s : State) : Out :=
  match s.cmd? id with
  | some c => (match c.kind with
    | .copy r _ =>
      if c.held || s.copyWaits c || c.fault.isSome || decide (1 < c.rem) then .next s
      else
        let s := s.copyRest id r.transfers
        .next (match s.cmd? id with
          | some c =>
            if c.fault.isSome || decide (c.done < r.transfers * r.tlen) then s else (s.complete id).filled r
          | none => s)
    | _ => .next s)
  | none => .next s

/-- R377: entries of a die's event queue that count toward its 64. -/
def Die.events (d : Die) : Nat := (d.evq.filter (fun e => e.cls == 1)).length

/-- R377: the event of a page request, which waits for room in the die's event queue. -/
def State.engineEvent (s : State) (die : Nat) (e : PendEv) : State := s.updDie die (fun d => { d with evwait := d.evwait ++ [e] })

/-- R377, R392: the die of the engine that runs a command: for a save or load, that of its target. -/
def Cmd.engineDie (c : Cmd) : Nat := match c.kind with
  | .ctxmove _ _ core _ _ _ => dieOf core
  | _ => dieOf c.core

/-- R377, R381: the event of a translation fault of an engine command: kind 1 copy engine, 3 checkpoint read engine. -/
def State.faultEvent (s : State) (c : Cmd) (va : Nat) : PendEv :=
  { time := s.now, cls := 1, core := c.core, h := c.h, cause := causeTranslation, widx := 255, src := 1, tval := BitVec.ofNat 64 va,
    tok := c.tok.getD 0, eidx := if c.isA then 0 else c.eng, kind := if c.isA then 3 else 1, part := (s.partOf c.core).getD 0,
    cmd := some c.id }

/-- R73, R196: of a copy that ended with a fault too. -/
def State.filledBy (s : State) (c : Cmd) : State := match c.kind with
  | .copy r _ => s.filled r
  | _ => s

/-- R193, R292, R377, R392: a translation fault ends an engine command with `err` and posts its event on the engine's die, when its event queue has
room: until then the engine waits. A checkpoint ends when its running entry does. -/
def execEngineTranslationFault (id : Nat) (s : State) : Out :=
  match s.cmd? id with
  | some c => (match c.fault with
    | some va =>
      if 64 ≤ (s.die c.engineDie).events then .next s
      else
        let s := s.updDie c.engineDie (fun d => { d with evq := d.evq ++ [s.faultEvent c va] })
        .next (if c.isA then s.updCmd id (fun c => { c with fault := none })
          else ((s.updCmd id (fun c => { c with err := true })).complete id).filledBy c)
    | none => .next s)
  | none => .next s

end Sys2Proof.Machine
end

