-- ==== Sys2Proof/Machine/Queue.lean ====
section
/-! DEFINITION. The Q words of tokens, drains, pipes and page requests, and the events that end them (R185 to R189, R197, R198, R208,
R377). -/

namespace Sys2Proof.Machine

/-! ### Tokens -/

/-- R186: the status sampled at issue is written. -/
def performQTokst (_ : TQ) (v : W64) (_ : List (List Byte)) (s : State) : State := s.status prioQ v

/-- R186. -/
def execQTokst (f : TQ) (s : State) : Out :=
  s.word (Instr.qTokst f).wf f.g (fun s =>
    s.act (.qTokst f) (BitVec.ofNat 64 (s.cur.token f.k.toNat).word) [] (performQTokst f))

/-- R188: the sticky bits of the named tokens are cleared. -/
def Ctx.clearTokens (c : Ctx) (mask : Nat) : Ctx :=
  { c with tok := (bitsSet 8 mask).foldl (fun t k => Machine.put t k { cnt := (look {} t k).cnt }) c.tok }

/-- R188. -/
def performQKclr (f : TQ) (_ : W64) (_ : List (List Byte)) (s : State) : State :=
  (s.updCur (fun c => c.clearTokens (f.sub.toNat % 256))).status prioQ 0

/-- R188. -/
def execQKclr (f : TQ) (s : State) : Out :=
  s.word (Instr.qKclr f).wf f.g (fun s => s.act (.qKclr f) 0 [] (performQKclr f))

/-- R187: the context starts to wait. -/
def performQWaitk (f : TQ) (_ : W64) (_ : List (List Byte)) (s : State) : State :=
  { (s.updCur (fun c => { c with waitk := some (waitOf f s.iss.sec) })) with
    agenda := .tokenWaitCompletion s.key :: s.agenda }

/-- R187. -/
def execQWaitk (f : TQ) (s : State) : Out :=
  s.word (Instr.qWaitk f).wf f.g (fun s => s.act (.qWaitk f) 0 [] (performQWaitk f))

/-! ### Drains and fences -/

/-- R189: the context starts to drain. -/
def performQDrain (f : TQ) (_ : W64) (_ : List (List Byte)) (s : State) : State :=
  { ((s.updCur (fun c => { c with drain := some { scope := f.sub.toNat % 8, fence := false, at_ := s.iss.when_ } })).status prioQ 0) with
    agenda := .drainCompletion s.key :: s.agenda }

/-- R189. -/
def execQDrain (f : TQ) (s : State) : Out :=
  s.word (Instr.qDrain f).wf f.g (fun s => s.act (.qDrain f) 0 [] (performQDrain f))

/-- R189: the context starts to drain and to wait for its reads. -/
def performQFence (f : TQ) (_ : W64) (_ : List (List Byte)) (s : State) : State :=
  { ((s.updCur (fun c => { c with drain := some { scope := f.sub.toNat % 8, fence := true, at_ := s.iss.when_ } })).status prioQ 0) with
    agenda := .fenceCompletion s.key :: s.agenda }

/-- R189. -/
def execQFence (f : TQ) (s : State) : Out :=
  s.word (Instr.qFence f).wf f.g (fun s => s.act (.qFence f) 0 [] (performQFence f))

/-! ### Pipes (R25, R198) -/

/-- R198: the pipe a `q.put` of the context names. -/
def State.outPipe (s : State) (k n : Nat) : Option Pipe := match (s.ctx k).work with
  | some w => s.pipes.find? (fun p => p.point == w.point && p.index == n && p.prod == k)
  | none => none

/-- Change the pipe `n` of a producer. -/
def State.updPipe (s : State) (p : Pipe) (f : Pipe → Pipe) : State :=
  { s with pipes := s.pipes.map (fun x => if x.point = p.point ∧ x.index = p.index then f x else x) }

/-- Where a released context waits for its block to be loaded (R385): a key no core has. -/
def shelfKey (id : Nat) : Nat := 2 ^ 20 + 8 * id

/-- R25: entries in a pipe: those on their way, those at the consumer's head that no bundle past its branches has popped, and, of a consumer whose block
was saved and released, those in the block. -/
def State.pipeLoad (s : State) (p : Pipe) : Nat :=
  p.wait.length + ((s.ctx p.cons).oldest.queue p.head).length +
    (if p.cons < shelfKey 0 then 0 else ((look {} s.shelf ((p.cons - shelfKey 0) / 8)).ctx.live.queue p.head).length)

/-- R25, R198: try to place an entry: dropped when the consumer is gone, else behind the others, to follow the producer's writes of bundles before
cycle `t`; the status, or nothing while the pipe is full. -/
def State.tryPut (s : State) (k n : Nat) (v : W64) (t : Nat) : Option (Nat × State) :=
  match s.outPipe k n with
  | none => some (1, s)
  | some p =>
    if p.consDone then some (1, s)
    else if 64 ≤ s.pipeLoad p then none
    else
      let ids := (s.msgs.filter (fun m => m.dest == k && decide (m.at_ < t) && m.kind != .load && m.stage != .done)).map (fun m => m.id)
      some (0, s.updPipe p (fun p => { p with wait := p.wait ++ [(v, ids)] }))

/-- R198: the entry is placed, or the Q slot is held. -/
def performQPut (f : TQ) (v : W64) (_ : List (List Byte)) (s : State) : State :=
  match s.tryPut s.key f.sub.toNat v s.iss.when_ with
  | some (st, s) => s.status prioQ (BitVec.ofNat 64 st)
  | none => s.updCur (fun c => { c with put := some { pipe := f.sub.toNat, val := v, sec := s.iss.sec, at_ := s.iss.when_ } })

/-- R198: a pipe that does not exist, or whose producer the issuer is not, raises the illegal-instruction trap. -/
def execQPut (f : TQ) (s : State) : Out :=
  s.word (Instr.qPut f).wf f.g (fun s =>
    if (s.outPipe s.key f.sub.toNat).isNone then s.illegalHere else s.act (.qPut f) (s.value f.sp) [] (performQPut f))

/-- R198: may the oldest waiting entry of a pipe be delivered? Every write its producer made before it has performed with respect to the
consumer's core. -/
def State.entryReady (s : State) (p : Pipe) (ids : List Nat) : Bool :=
  ids.all (fun i => match s.msg? i with
    | some m => m.stage == .done || m.covered s.now 0 (keyCore p.cons)
    | none => true)

/-- R198: deliver what may be delivered of one pipe, in order. -/
def State.deliverPipe (s : State) (p : Pipe) : State :=
  match p.wait with
  | (v, ids) :: rest =>
    if s.entryReady p ids && !p.consDone then
      (s.updPipe p (fun p => { p with wait := rest })).updCtx p.cons (fun c => c.mapArch (fun a => a.enqueue p.head v))
    else s
  | [] => s

/-! ### Page requests and engine events (R197, R377) -/

/-- R197: the event of a page request or of its fault. -/
def State.pageEvent (s : State) (va : W64) (k id src : Nat) : PendEv :=
  { time := s.now, cls := 1, core := s.iss.core, h := s.iss.h, cause := causeTranslation, widx := 255, src := src, tval := va, tok := k,
    kind := 4, part := (s.partOf s.iss.core).getD 0, cmd := some id }

/-- R197, R76: request a page: resident, its token follows in two cycles; without a mapping, it ends with `err` and a fault event; else it
waits for the supervisor. -/
def performQPgreq (f : TQ) (va : W64) (_ : List (List Byte)) (s : State) : State :=
  let k := f.k.toNat
  let die := dieOf s.iss.core
  let full := decide (64 ≤ (s.die die).events + (s.die die).evwait.length)
  let holds := fun (id : Nat) (s : State) => if full then s.updCur (fun c => { c with pgq := some (va, id) }) else s
  match s.walk ((s.partOf s.iss.core).getD 16) va.toNat with
  | none =>
    let (id, s) := s.freshId
    let s := ((s.armTok s.key k).endTok s.key k false false true).status prioQ 0
    holds id (s.engineEvent die (s.pageEvent va k id 1))
  | some l =>
    let (id, s) := s.freshId
    let cmd : Cmd := { id := id, core := s.iss.core, h := s.iss.h, kind := .pgreq va, tok := some k, st := .running, born := s.now, rem := 2,
                       done := if l.res then 1 else 0 }
    let s : State := { (s.armTok s.key k) with cmds := s.cmds ++ [cmd] }
    if l.res then s.status prioQ 1
    else holds id ((s.engineEvent die (s.pageEvent va k id 2)).status prioQ 0)

/-- R197: an address with a nonzero bit in [63:57] raises the translation fault. A token that is full comes before it: the model's choice, the spec does not
rank the two (log 98). -/
def execQPgreq (f : TQ) (s : State) : Out :=
  s.word (Instr.qPgreq f).wf f.g (fun s => s.withToken f (fun s =>
    let va := s.value f.sp
    if 2 ^ 57 ≤ va.toNat then s.raise 6 causeTranslation va else s.act (.qPgreq f) va [] (performQPgreq f)))

/-! ### Offers (R208) -/

/-- Units queued on a core. -/
def State.queuedOn (s : State) (core : Nat) : Nat := (s.units.filter (fun u => u.2.owner == core && u.2.st == .queued)).length

/-- R208: how far a core's units are offered: the widest of its units' offers (0 none, 1 cluster, 2 die). -/
def Core.offered (x : Core) : Nat := (x.offers.map Prod.snd).foldl max 0

/-- R208, R32: the issuing unit's offer is made, or withdrawn; a handler run makes that of the unit that assigned its context. -/
def performQOffer (f : TQ) (_ : W64) (_ : List (List Byte)) (s : State) : State :=
  let k := s.cur.asg.getD s.key
  (s.updCore s.iss.core (fun c => { c with offers := if f.sub = 0 then drop1 c.offers k else put c.offers k f.sub.toNat })).status prioQ
    (BitVec.ofNat 64 (s.queuedOn s.iss.core))

/-- R208. -/
def execQOffer (f : TQ) (s : State) : Out :=
  s.word (Instr.qOffer f).wf f.g (fun s => s.act (.qOffer f) 0 [] (performQOffer f))

end Sys2Proof.Machine
end

