-- ==== Sys2Proof/Machine/Collective.lean ====
section
/-! DEFINITION. The collective engine: its words, firings, transfers (R317 to R328). -/

namespace Sys2Proof.Machine

/-! ### Records (R318, R319) -/

/-- R318: the record's own fields are in range; the peer table lies in the scratchpad. -/
def collOk (b : List Byte) : Bool :=
  let cop := fld b 0x11 1
  let np := fld b 0x18 2
  decide (fld b 0x10 1 ≤ 1) && decide (cop ≤ 4) && (decide (fld b 0x12 1 ≤ 6) || fld b 0x12 1 == 10) &&
    decide (fld b 0x13 1 ≤ if cop = 3 then 2 else 0) && decide (1 ≤ fld b 0x14 4) && decide (fld b 0x14 4 ≤ 2 ^ 24) && decide (1 ≤ np) &&
    decide (np ≤ if cop = 2 then 64 else 4096) && decide (fld b 0x1A 2 < np) && decide (fld b 0x1C 4 + 16 * np ≤ 0x400000) &&
    decide (1 ≤ fld b 0x70 4) && (cop == 1 || fld b 0x74 2 == 0) &&
    decide (fld b 0x76 1 ≤ if cop = 1 then 1 else 0) && (decide (fld b 0x77 1 ≤ 127) || fld b 0x77 1 == 255) &&
    fld b 0x78 2 / 128 % 256 == 0 && decide (fld b 0x7A 2 ≤ 1) && zeros b 0x7C 4

/-- R319: the peer table: (endpoint, alternate, offset). -/
def peersOf (t : List Byte) : List (Nat × Nat × Nat) := (chunksOf 16 (t.length + 1) t).map (fun e => (fld e 0 4, fld e 4 2, fld e 8 8))

/-- R319: an endpoint that may be named. -/
def endpointOk (eps : List Nat) (ep : Nat) : Bool :=
  eps.contains ep && match ep / 2 ^ 30 with
    | 0 => ep % 2 ^ 30 == 0
    | 1 => ep % 2 ^ 30 / 2 ^ 12 == 0
    | 2 => ep % 2 ^ 30 / 2 ^ 16 == 0
    | _ => false

/-- R319: the peers of a record are permitted. -/
def peersOk (eps : List Nat) (ps : List (Nat × Nat × Nat)) : Bool :=
  ps.all (fun p => endpointOk eps p.1 && (p.2.1 == 0xFFFF || decide (p.2.1 < ps.length)))

/-- R318: the record as armed. -/
def collOf (b : List Byte) (ps : List (Nat × Nat × Nat)) : CollRec :=
  { sspc := fld b 0x10 1, cop := fld b 0x11 1, esz := if fld b 0x12 1 = 10 then 1 else eltSize (fld b 0x12 1), rop := fld b 0x13 1,
    tlen := fld b 0x14 4, np := fld b 0x18 2, pc := fld b 0x1A 2,
    levels := (List.range 4).map (fun l => (fld b (0x20 + 16 * l) 4, sfld b (0x24 + 16 * l) 4, sfld b (0x28 + 16 * l) 4, sfld b (0x2C + 16 * l) 2)),
    sadv := sfld b 0x60 8, dadv := sfld b 0x68 8, thr := fld b 0x70 4, cap := fld b 0x74 2, pol := fld b 0x76 1,
    next := if fld b 0x77 1 = 255 then none else some (fld b 0x77 1),
    rcnt := if 2 ^ 15 ≤ fld b 0x78 2 then some (fld b 0x78 2 % 128) else none, rearm := fld b 0x7A 2 == 1, peers := ps }

/-! ### Words (R325 to R328) -/

/-- R317: the slot a word names. -/
def slotOfSub (f : TQ) : Nat := f.sub.toNat % 128

/-- R317: a word that names a slot its partition does not own raises the protection trap. -/
def State.ownSlot (s : State) (f : TQ) (body : State → Out) : Out :=
  let own := match s.partOf s.iss.core with
    | some p => (s.part p).slots.testBit (slotOfSub f)
    | none => false
  if own then body s else s.raise 6 causeProtection (BitVec.ofNat 64 (slotOfSub f))

/-- Signal the tokens of a list with status bits. -/
def State.signalAll (s : State) (ts : List (Nat × Nat)) (part nres err : Bool) : State :=
  ts.foldl (fun s t => s.endTok t.1 t.2 part nres err) s

/-- R326: a slot becomes idle; tokens of a firing that has not started are signalled with `err`. -/
def State.idleSlot (s : State) (n : Nat) : State :=
  let w := (s.slot n).waitToks
  (s.updSlot n (fun x => { x with state := 0, waitToks := [], disarm := false, trigs := [] })).signalAll w false false true

/-- R326: arm a slot, or disarm it. -/
def performQCarm (f : TQ) (_ : W64) (recs : List (List Byte)) (s : State) : State :=
  let n := slotOfSub f
  let k := f.k.toNat
  if f.sub.getLsbD 8 then
    let s := if (s.slot n).state = 1 then s.idleSlot n else if (s.slot n).state = 2 then s.updSlot n (fun x => { x with disarm := true }) else s
    let s := if f.kw then (s.armTok s.key k).endTok s.key k false false false else s
    s.status prioQ 3
  else
    let b := recs.getD 0 []
    let ps := peersOf (recs.getD 1 [])
    let p := (s.partOf s.iss.core).getD 16
    if !collOk b || !peersOk (s.part p).eps ps then s.reject f prioQ 1
    else if (s.slot n).state ≠ 0 then s.status prioQ 2
    else
      let s := s.updSlot n (fun _ => { state := 1, part := p, die := dieOf s.iss.core, crec := collOf b ps, sb := fld b 0 8, db := fld b 8 8 })
      let s := if f.kw then (s.armTok s.key k).endTok s.key k false false false else s
      s.status prioQ 0

/-- R325, R326: the record and its peer table are read at issue. -/
def execQCarm (f : TQ) (s : State) : Out :=
  s.word (Instr.qCarm f).wf f.g (fun s => s.ownSlot f (fun s =>
    if f.sub.getLsbD 8 then s.withToken f (fun s => s.act (.qCarm f) 0 [] (performQCarm f))
    else s.withRecord f 128 (fun b s =>
      s.act (.qCarm f) 0 [b, if collOk b then s.localBytes (fld b 0x1C 4) (16 * fld b 0x18 2) else []] (performQCarm f))))

/-- R327: add to a slot's counter, and attach a token; the sends of the firing that the increment starts are the unit's (R42). -/
def performQCtrig (f : TQ) (v : W64) (_ : List (List Byte)) (s : State) : State :=
  let n := slotOfSub f
  if (s.slot n).state = 0 then s.reject f prioQ 1
  else
    let s := s.armIf s.key f.kw f.k.toNat
    (s.updSlot n (fun x => { x with ctr := min (x.ctr + v.toNat % 2 ^ 32) (2 ^ 32 - 1),
                                    trigs := if x.crec.thr ≤ x.ctr + v.toNat % 2 ^ 32 then s.key :: x.trigs else x.trigs,
                                    waitToks := if f.kw then x.waitToks ++ [(s.key, f.k.toNat)] else x.waitToks })).status prioQ 0

/-- R325, R327. -/
def execQCtrig (f : TQ) (s : State) : Out :=
  s.word (Instr.qCtrig f).wf f.g (fun s => s.ownSlot f (fun s => s.withToken f (fun s =>
    s.act (.qCtrig f) (s.value f.sp) [] (performQCtrig f))))

/-- R328: the words of `q.cstat`. -/
def Slot.word (x : Slot) (sel : Nat) : W64 := match sel with
  | 0 => BitVec.ofNat 64 (x.ctr * 2 ^ 32 + x.fired % 2 ^ 24 * 256 + (if x.partial_ then 4 else 0) + x.state)
  | 1 => BitVec.ofNat 64 (min x.rer (2 ^ 32 - 1) * 2 ^ 32 + min x.drops (2 ^ 32 - 1))
  | _ => BitVec.ofNat 64 x.lastFault

/-- R328. -/
def performQCstat (_ : TQ) (v : W64) (_ : List (List Byte)) (s : State) : State := s.status prioQ v

/-- R325, R328. -/
def execQCstat (f : TQ) (s : State) : Out :=
  s.word (Instr.qCstat f).wf f.g (fun s => s.ownSlot f (fun s =>
    s.act (.qCstat f) ((s.slot (slotOfSub f)).word (f.sub.toNat / 256)) [] (performQCstat f)))

/-! ### A firing (R320, R321) -/

/-- The digits of `t` in mixed radix, level 0 first. -/
def digits : List Nat → Nat → List Nat
  | [], _ => []
  | b :: bs, t => t % b :: digits bs (t / b)

/-- R320: the sends of a firing: (source address, destination address, peer), and the counts it keeps: per-peer, reroutes, drops. -/
structure Walk where
  sends : List (Nat × Nat × Nat) := []
  n : SMap Nat := []
  rer : Nat := 0
  drops : Nat := 0
deriving DecidableEq, Repr

/-- The offset of a peer. -/
def CollRec.dofs (r : CollRec) (p : Nat) : Nat := (r.peers.getD p (0, 0xFFFF, 0)).2.2

/-- Add a send to peer `p`. -/
def Walk.send (w : Walk) (r : CollRec) (sa : Nat) (off : Int) (p : Nat) : Walk :=
  { w with sends := w.sends ++ [(sa, fromSigned 64 (r.dofs p + off), p)], n := put w.n p (look 0 w.n p + 1) }

/-- R320: one iteration of the nest. -/
def CollRec.iterate (r : CollRec) (sb db : Int) (w : Walk) (t : Nat) : Walk :=
  let ix := digits (r.levels.map (fun l => l.1)) t
  let dot := fun (f : Nat × Int × Int × Int → Int) => ((ix.zip r.levels).map (fun x => (x.1 : Int) * f x.2)).foldl (· + ·) 0
  let sa := fromSigned 64 (sb + dot (fun l => l.2.1))
  let off := db + dot (fun l => l.2.2.1)
  let p := ((r.pc + dot (fun l => l.2.2.2)) % (r.np : Int)).toNat
  if r.cop = 2 then (List.range r.np).foldl (fun w q => w.send r sa off q) w
  else if r.cop = 1 ∧ 0 < r.cap ∧ r.cap ≤ look 0 w.n p then
    let a := (r.peers.getD p (0, 0xFFFF, 0)).2.1
    if r.pol = 1 ∧ a ≠ 0xFFFF ∧ look 0 w.n a < r.cap then { w.send r sa off a with rer := w.rer + 1 }
    else { w with drops := w.drops + 1 }
  else w.send r sa off p

/-- R320: all of a firing's sends in sequencer order. -/
def CollRec.walk (r : CollRec) (sb db : Int) : Walk :=
  (List.range ((r.levels.map (fun l => l.1)).foldl (· * ·) 1)).foldl (r.iterate sb db) {}

/-- R10, R68, R345: what is wrong with `n` bytes at a global scratchpad address for the collective engine: outside a scratchpad, the scratchpad
address fault; on a core of another partition, the protection fault. That such a fault stops the firing as a translation fault does, and is reported as
an event of the engine with its own cause, is the model's choice (log 86). -/
def State.collFault (s : State) (part a n : Nat) : Option Nat :=
  if 2 ^ 32 ≤ a ∨ !coreExists (gsaCore a) ∨ 0x400000 < gsaOff a + n then some causeAddress
  else if s.partOf (gsaCore a) ≠ some part then some causeProtection
  else none

/-- What a firing finds at a source: its bytes, or a fault with its cause and address. -/
abbrev Found := Host.Outcome (List Byte) (Nat × Nat) Empty

/-- R321: read a source; a non-resident page gives zeros. -/
def State.collSource (s : State) (slot : Nat) (r : CollRec) (part sa n : Nat) : Found × State :=
  if r.sspc = 1 then
    (List.range n).foldl (fun (acc : Found × State) i =>
      match acc.1 with
      | .next bs => (match acc.2.translate part 4 (sa + i) true false with
        | (.ok h pa cz, s) => (.next (bs ++ [s.readPhys h pa cz]), s)
        | (.nonres, s) => (.next (bs ++ [0]), s.updSlot slot (fun x => { x with nres := true }))
        | (.fault, s) => (.fault (causeTranslation, sa + i), s))
      | _ => acc) (.next [], s)
  else match s.collFault part sa n with
    | some c => (.fault (c, sa), s)
    | none => let s := s.touch sa n; (.next (s.mem.readN sa n), s)

/-- R321, R377: a fault stops a firing: `err` on its tokens, and an event of the engine. -/
def State.stopFiring (s : State) (slot part : Nat) (cause va : Nat) : State :=
  let tok := ((s.slot slot).toks.map Prod.snd).headD 0
  let key := ((s.slot slot).toks.map Prod.fst).headD 0
  let e : PendEv := { time := s.now, cls := 1, core := keyCore key, h := keyCtx key, cause := cause, widx := 255, src := 1,
                      tval := BitVec.ofNat 64 va, tok := tok, eidx := slot, kind := 2, part := part }
  { (s.updSlot slot (fun x => { x with err := true })) with cwEvwait := s.cwEvwait ++ [e] }

/-- Bytes a switch or a remote package supplies: free values (log 2). -/
def State.freeBytes : Nat → State → List Byte × State
  | 0, s => ([], s)
  | n + 1, s =>
    let (b, s) := s.freeNat
    let (bs, s) := State.freeBytes n s
    (BitVec.ofNat 8 b :: bs, s)

/-- R322: note a refusal for a peer. -/
def State.refuse (s : State) (slot p : Nat) : State := s.updSlot slot (fun x => { x with fault := x.fault ||| 2 ^ min p 63, err := true })

/-- R316: the dies a firing reads `n` bytes of source on. -/
def State.sourceDies (s : State) (r : CollRec) (part sa n : Nat) : List Nat := if r.sspc = 1 then s.pageDies part sa n else [dieOf (gsaCore sa)]

/-- R310, R394: may the engine read a source now: in no stack in self-refresh, on no die to which there is no path? -/
def State.sendUp (s : State) (r : CollRec) (part sa : Nat) : Bool :=
  let n := r.tlen * r.esz
  r.cop == 4 || (!(r.sspc == 1 && s.rangeAsleep part sa n) && (s.sourceDies r part sa n).all (fun d => (s.die d).failed || s.hasPath 4 d))

/-- R321, R10, R345: what is wrong with the place an `.rdp` read writes, its source side: a translation fault, or a place that is no scratchpad's or another
partition's: its cause and address. -/
def State.pullFault (s : State) (r : CollRec) (part sa n : Nat) : Option (Nat × Nat) × State :=
  if r.sspc = 1 then
    (List.range n).foldl (fun (acc : Option (Nat × Nat) × State) i =>
      match acc.1 with
      | some x => (some x, acc.2)
      | none => (match acc.2.translate part 4 (sa + i) false true with
        | (.fault, s) => (some (causeTranslation, sa + i), s)
        | (_, s) => (none, s))) (none, s)
  else ((s.collFault part sa n).map (fun c => (c, sa)), s)

/-- R320, R321: make the sends of a firing in order; the rest waits with one whose source cannot be read yet (R310, R394); a fault of its source, or of an address in this package that names no scratchpad (R10), stops it. A
send to another package or a switch leaves on a port of the partition with its data, which come to Causeway on VC2 (R345, R301), and whether it is refused there is
free; where the partition has no port, it is refused (log 96). Causeway's egress acknowledges a firing's sends at `due` (R42), and none is performed outside before. -/
def State.makeSends (s : State) (slot part due : Nat) (r : CollRec) : List (Nat × Nat × Nat) → State
  | [] => s
  | (sa, da, p) :: rest =>
    let n := r.tlen * r.esz
    let kind := (r.peers.getD p (0, 0xFFFF, 0)).1 / 2 ^ 30
    if !s.sendUp r part sa then
      let t : CollTransfer := { part := part, virt := true, addr := 0, data := [], rcnt := none, own := some (slot, p), kind := .held ((sa, da, p) :: rest), due := due }
      { s with xfers := s.xfers ++ [t] }
    else if r.cop = 4 then
      match s.pullFault r part sa n with
      | (some (c, a), s) => s.stopFiring slot part c a
      | (none, s) =>
      let (bs, s) := State.freeBytes n s
      let t : CollTransfer := { part := part, virt := r.sspc == 1, addr := sa, data := bs, rcnt := none, own := some (slot, p), kind := .pull, due := due }
      State.makeSends (if kind = 2 ∧ (s.part part).ports ≠ 0 then { s with xfers := s.xfers ++ [t] } else s.refuse slot p) slot part due r rest
    else match s.collSource slot r part sa n with
      | (.fault (c, a), s) => s.stopFiring slot part c a
      | (.refused x, _) => nomatch x
      | (.next bs, s) =>
        if kind = 0 ∧ r.cop ≤ 2 ∧ da < 2 ^ 32 ∧ s.collFault part da n = some causeAddress then s.stopFiring slot part causeAddress da
        else if kind = 0 ∧ r.cop ≤ 2 then
          let t : CollTransfer := { part := part, virt := decide (2 ^ 32 ≤ da), addr := da, data := bs, rcnt := r.rcnt, own := some (slot, p),
                                    dies := s.sourceDies r part sa n }
          State.makeSends { s with xfers := s.xfers ++ [t] } slot part due r rest
        else if (s.part part).ports = 0 ∨ (3 ≤ r.cop ∧ kind ≠ 2) then State.makeSends (s.refuse slot p) slot part due r rest
        else
          let ds := s.sourceDies r part sa n
          let s := ds.foldl (fun s d => s.sendPacket 2 false d 4) s
          let t : CollTransfer := { part := part, virt := true, addr := da, data := bs, rcnt := none, own := some (slot, p), dies := ds, kind := .away s.nextId,
                                    due := due }
          State.makeSends { s with xfers := s.xfers ++ [t] } slot part due r rest

/-- R324: an armed slot whose counter has reached its threshold starts a firing, unless the engine waits to post an event (R377). Its sends are
acknowledged by Causeway's egress a free time later (R42). -/
def execCollectiveFiringStart (slot : Nat) (s : State) : Out :=
  if 128 ≤ slot then .fault .noSuchAgent
  else
    let x := s.slot slot
    if x.state ≠ 1 ∨ x.ctr < x.crec.thr ∨ s.cwEvwait ≠ [] then .next s
    else
      let w := x.crec.walk x.sb x.db
      let (j, s) := s.freeNat
      let s := s.updSlot slot (fun x => { x with
        state := 2, ctr := x.ctr - x.crec.thr, toks := x.waitToks, waitToks := [], fault := 0, err := false, nres := false,
        frer := w.rer, fdrops := w.drops, trigs := [],
        sent := x.trigs.map (fun k => (k, s.now + 1 + j)) ++ x.sent.filter (fun y => decide (s.now < y.2)) })
      .next (s.makeSends slot x.part (s.now + 1 + j) x.crec w.sends)

/-! ### Arrivals and completion (R322, R323) -/

/-- R322: write the bytes of a transfer where they are permitted; was every byte written? -/
def State.placeBytes (s : State) (t : CollTransfer) : Bool × State :=
  if t.virt then
    ((List.range t.data.length).zip t.data).foldl (fun (acc : Bool × State) x =>
      match acc.2.translate t.part 4 (t.addr + x.1) false true with
      | (.ok h pa cz, s) => (acc.1, s.writePhys h pa cz x.2)
      | (_, s) => (false, s)) (true, s)
  else if 2 ^ 32 ≤ t.addr ∨ !coreExists (gsaCore t.addr) ∨ 0x400000 < gsaOff t.addr + t.data.length ∨ s.partOf (gsaCore t.addr) ≠ some t.part ∨
      (s.die (dieOf (gsaCore t.addr))).failed then
    (false, s)
  else (true, s.writeAt t.addr t.data [])

/-- R324: an increment of a slot's counter; an idle slot ignores it (R317). -/
def State.incSlot (s : State) (n v : Nat) : State :=
  if (s.slot n).state = 0 then s else s.updSlot n (fun x => { x with ctr := min (x.ctr + v) (2 ^ 32 - 1) })

/-- R322, R324: a transfer arrives, of this package or of another: its bytes are written or refused, and the counter it names is incremented. -/
def State.arriveHere (s : State) (t : CollTransfer) : State :=
  let (ok, s) := { s with xfers := s.xfers.erase t }.placeBytes t
  let s := match t.own with
    | some (slot, p) => if ok then s else s.refuse slot p
    | none => s
  match t.rcnt with
    | some n => s.incSlot n 1
    | none => s

/-- R321 to R323: a transfer arrives: of this package, or of another; a send to another package is performed there, or refused, which is free; what an
`.rdp` read brings is written, unless its place takes a translation fault by now; sends that waited for their sources are made. -/
def execCollectiveTransferArrival (t : CollTransfer) (s : State) : Out :=
  let mine := t.virt && s.xfers.contains t
  let slot := (t.own.map Prod.fst).getD 0
  match t.kind with
  | .away _ =>
    if mine then
      let (bad, s) := { s with xfers := s.xfers.erase t }.freeBit
      .next (match t.own with
        | some (n, p) => if bad then s.refuse n p else s
        | none => s)
    else .next (s.arriveHere t)
  | .held sends =>
    if !mine then .next (s.arriveHere t)
    else if s.cwEvwait ≠ [] then .next s
    else .next ({ s with xfers := s.xfers.erase t }.makeSends slot t.part t.due (s.slot slot).crec sends)
  | .pull =>
    if !mine then .next (s.arriveHere t)
    else match s.pullFault { (s.slot slot).crec with sspc := 1 } t.part t.addr t.data.length with
      | (some (c, a), s) => .next ({ s with xfers := s.xfers.erase t }.stopFiring slot t.part c a)
      | (none, s) => .next (s.arriveHere t)
  | .here => .next (s.arriveHere t)

/-- R323, R326: a firing whose sends are all performed, refused or dropped completes; its reroutes and drops join the slot's. -/
def execCollectiveFiringCompletion (slot : Nat) (s : State) : Out :=
  if 128 ≤ slot then .fault .noSuchAgent
  else
    let x := s.slot slot
    if x.state ≠ 2 ∨ s.xfers.any (fun t => (t.own.map Prod.fst) == some slot) ∨ s.cwEvwait ≠ [] then .next s
    else
      let refused := x.fault != 0
      let s := s.updSlot slot (fun x => { x with
        fired := x.fired + 1, partial_ := refused, rer := x.rer + x.frer, drops := x.drops + x.fdrops, lastFault := x.fault, toks := [],
        sb := if x.crec.rearm then x.sb + x.crec.sadv else x.sb, db := if x.crec.rearm then x.db + x.crec.dadv else x.db, state := 1 })
      let s := s.signalAll x.toks refused x.nres x.err
      let s := match x.crec.next with
        | some n => s.incSlot n 1
        | none => s
      .next (if x.crec.rearm && !x.disarm then s else s.idleSlot slot)

end Sys2Proof.Machine
end

