-- ==== Sys2Proof/Machine/Matrix.lean ====
section
/-! DEFINITION. The log matrix unit: the T words, the products and tile moves they queue, and its events (R264 to R277). -/

namespace Sys2Proof.Machine

/-! ### Tiles (R69) -/

/-- The store key of a tile word. -/
def tileKey (core z r j : Nat) : Nat := gsaOf core (0x400000 + z * 0x4000 + 256 * r + 4 * j)
/-- A tile word. -/
def State.tileWord (s : State) (core z r j : Nat) : Fp := f32Val (BitVec.ofNat 32 (s.mem.num (tileKey core z r j) 4))
/-- Write tile words from column 0 of a row. -/
def State.setTileRow (s : State) (core z r : Nat) (vs : List W32) : State :=
  { s with mem := s.mem.writeN (tileKey core z r 0) (vs.flatMap (fun v => bytesOf 4 v.toNat)) }

/-! ### Products (R267 to R275) -/

/-- R267: does a B operand fit in its buffer? -/
def operandFits (boff bfmt kch : Nat) : Bool := decide (boff + 128 * recSize bfmt * kch ≤ 65536)

/-- R273: a product record whose fields are in range; the fit of R267 is the group's own test in a grouped product. -/
def productOk (grouped : Bool) (b : List Byte) : Bool :=
  let rng := fun o lo hi => decide (lo ≤ fld b o 1) && decide (fld b o 1 ≤ hi)
  rng 0x08 1 64 && rng 0x09 1 64 && rng 0x0A 1 30 && rng 0x0B 0 3 && rng 0x0C 7 8 && barOk (fld b 0x0D 1) && zeros b 0x0F 1 &&
    (if grouped then rng 0x0E 1 64
     else zeros b 0x0E 1 && zeros b 0x14 12 && operandFits (fld b 0x10 4) (fld b 0x0C 1) (fld b 0x0A 1))

/-- R268: every row of A starts at a record of the bank that holds `abase` and lies within it. -/
def aRowsOk (fmt abase apitch mrows kch : Nat) : Bool :=
  (fmt == 7 || fmt == 8) && decide (abase < 0x400000) &&
    (List.range mrows).all (fun r =>
      let o := abase % 0x40000 + r * apitch
      o % recSize fmt == 0 && decide (o / recSize fmt + 2 * kch ≤ recsPerBank fmt))

/-- R275: the groups with a nonzero count: (buffer offset, first row, rows). -/
def productGroups (b cnts offs : List Byte) : List (Nat × Nat × Nat) :=
  (List.range (fld b 0x0E 1)).filterMap (fun g =>
    if sfld cnts (4 * g) 4 ≤ 0 then none
    else some (fld b 0x10 4 + g * fld b 0x14 4, (sfld offs (4 * g) 4).toNat, (sfld cnts (4 * g) 4).toNat))

/-- R275: the first group that makes a grouped product rejected with status 2. -/
def badGroup (b cnts offs : List Byte) : Option Nat :=
  (List.range (fld b 0x0E 1)).find? (fun g =>
    let n := sfld cnts (4 * g) 4
    let o := sfld offs (4 * g) 4
    decide (n < 0) || (decide (0 < n) && (decide (o < 0) || decide ((fld b 0x08 1 : Int) < o + n) ||
      !operandFits (fld b 0x10 4 + g * fld b 0x14 4) (fld b 0x0C 1) (fld b 0x0A 1))))

/-- R276: a cell pattern with no code 3. -/
def patternOk (v : W64) : Bool := (List.range 32).all (fun c => v.toNat / 2 ^ (2 * c) % 4 != 3)

/-- R271, R276: the pattern a T word samples: that of the last `t.cop` before it, held or not. -/
def State.patternSeen (s : State) : W64 :=
  s.cur.held.foldl (fun p h => match h with
    | .word (.tCop _) _ [b] _ _ => if patternOk (BitVec.ofNat 64 (fld b 0 8)) then BitVec.ofNat 64 (fld b 0 8) else p
    | _ => p) s.cur.cpat

/-- R273, R275: a product with the fields of a record and of its tables. -/
def Product.ofRecord (p : Product) (b cnts offs : List Byte) : Product :=
  { p with
    abase := fld b 0 4, apitch := fld b 4 4, ncols := fld b 9 1, kch := fld b 0x0A 1, ob := fld b 0x0B 1, bfmt := fld b 0x0C 1,
    groups := if p.grouped then productGroups b cnts offs else [(fld b 0x10 4, 0, fld b 0x08 1)] }

/-- A product as sampled: `extra` are the pattern and the format of A's bank. -/
def productOf (f : TQ) (grouped : Bool) (b extra cnts offs : List Byte) : Product :=
  ({ abase := 0, apitch := 0, afmt := fld extra 8 1, ncols := 0, kch := 0, ob := 0, bfmt := 0, z := (subZ f).toNat, acc := (subAcc f).getLsbD 0,
     pat := if (subAcc f).getLsbD 1 then BitVec.ofNat 64 (fld extra 0 8) else 0, groups := [], grouped := grouped } : Product).ofRecord b cnts offs

/-- R273, R275: a product word acts: rejected with status 1 or 2, or queued. -/
def performProduct (f : TQ) (grouped : Bool) (recs : List (List Byte)) (s : State) : State :=
  let b := recs.getD 0 []
  let cnts := recs.getD 2 []
  let offs := recs.getD 3 []
  if !productOk grouped b then s.reject f prioT 1
  else match (if grouped then badGroup b cnts offs else none) with
    | some g => s.reject f prioT (2 + 256 * g)
    | none => s.accept f prioT (.product (productOf f grouped b (recs.getD 1 []) cnts offs)) (barTok (fld b 0x0D 1)) true
        (if grouped then groupedRaw b cnts offs [] else b)

/-- R268: the trap of the A rows, unless the record is rejected. -/
def State.productTrap (s : State) (rejected : Bool) (b : List Byte) (fmt : Nat) (body : State → Out) : Out :=
  if !rejected && !aRowsOk fmt (fld b 0 4) (fld b 4 4) (fld b 8 1) (fld b 0x0A 1) then
    s.raise 6 causeRegion (BitVec.ofNat 64 (fld b 0 4))
  else body s

/-- What a product samples beside its record: the pattern and the format of the bank of A (R53, R271). -/
def State.productExtra (s : State) (b : List Byte) : List Byte :=
  bytesOf 8 s.patternSeen.toNat ++ bytesOf 1 (s.fmtOf s.key (fld b 0 4 / 0x40000))

/-- R273, R274. -/
def performTMm (f : TQ) (_ : W64) (recs : List (List Byte)) (s : State) : State := performProduct f false recs s
/-- R275. -/
def performTMmg (f : TQ) (_ : W64) (recs : List (List Byte)) (s : State) : State := performProduct f true recs s

/-- R264, R268, R273, R274. -/
def execTMm (f : TQ) (s : State) : Out :=
  s.word (Instr.tMm f).wf f.g (fun s => s.withRecord f 32 (fun b s =>
    let x := s.productExtra b
    s.productTrap (!productOk false b) b (fld x 8 1) (fun s => s.act (.tMm f) 0 [b, x] (performTMm f))))

/-- R275: the tables, sampled at issue; a table out of place raises the scratchpad address fault. -/
def execTMmg (f : TQ) (s : State) : Out :=
  s.word (Instr.tMmg f).wf f.g (fun s => s.withRecord f 32 (fun b s =>
    if !productOk true b then s.act (.tMmg f) 0 [b] (performTMmg f)
    else
      let ng := fld b 0x0E 1
      if !tableOk (fld b 0x18 4) ng 4 4 then s.raise 6 causeAddress (BitVec.ofNat 64 (fld b 0x18 4))
      else if !tableOk (fld b 0x1C 4) ng 4 4 then s.raise 6 causeAddress (BitVec.ofNat 64 (fld b 0x1C 4))
      else
        let s := (s.touch (gsaOf s.iss.core (fld b 0x18 4)) (4 * ng)).touch (gsaOf s.iss.core (fld b 0x1C 4)) (4 * ng)
        let cnts := s.localBytes (fld b 0x18 4) (4 * ng)
        let offs := s.localBytes (fld b 0x1C 4) (4 * ng)
        let x := s.productExtra b
        s.productTrap (badGroup b cnts offs).isSome b (fld x 8 1) (fun s => s.act (.tMmg f) 0 [b, x, cnts, offs] (performTMmg f))))

/-! ### Tile moves (R277) -/

/-- R277: a tile-move record whose fields are in range. -/
def moveOk (op : TileOp) (b : List Byte) : Bool :=
  let rng := fun o => decide (1 ≤ fld b o 1) && decide (fld b o 1 ≤ 64)
  rng 8 && rng 9 && barOk (fld b 0x0A 1) && zeros b 0x0B 5 && (match op with
    | .ldb => zeros b 4 4
    | .zadd => zeros b 4 4 && decide (fld b 0 4 ≤ 191)
    | _ => true)

/-- R277, R213: the rows of a move lie in the bank of the first element. -/
def moveRowsOk (op : TileOp) (fmt : Nat) (b : List Byte) : Bool :=
  let loc := fld b 0 4
  let one := fun r => plainOk fmt (loc % 0x40000 + r * fld b 4 4) (fld b 9 1) && decide (loc % 0x40000 + r * fld b 4 4 < 0x40000)
  match op with
  | .zadd => true
  | .zclr => true
  | .ldb => decide (loc < 0x400000) && one 0
  | _ => decide (loc < 0x400000) && (List.range (fld b 8 1)).all one

/-- R277: a tile move with the fields of a record. -/
def TileMove.ofRecord (m : TileMove) (b : List Byte) : TileMove :=
  { m with loc := fld b 0 4, pitch := fld b 4 4, mrows := fld b 8 1, ncols := fld b 9 1 }

/-- A tile move acts. -/
def performMove (op : TileOp) (f : TQ) (recs : List (List Byte)) (s : State) : State :=
  let b := recs.getD 0 []
  if op ≠ .zclr ∧ !moveOk op b then s.reject f prioT 1
  else s.accept f prioT
    (.move (({ op := op, z := (subZ f).toNat, loc := 0, pitch := 0, mrows := 0, ncols := 0, fmt := fld (recs.getD 1 []) 0 1 } : TileMove).ofRecord b)) (if op = .zclr then none else barTok (fld b 0x0A 1))
    (op == .ldb || op == .zld) b

/-- R277. -/
def performTLdb (f : TQ) (_ : W64) (recs : List (List Byte)) (s : State) : State := performMove .ldb f recs s
/-- R277. -/
def performTZclr (f : TQ) (_ : W64) (recs : List (List Byte)) (s : State) : State := performMove .zclr f recs s
/-- R277. -/
def performTZld (f : TQ) (_ : W64) (recs : List (List Byte)) (s : State) : State := performMove .zld f recs s
/-- R277. -/
def performTZst (f : TQ) (_ : W64) (recs : List (List Byte)) (s : State) : State := performMove .zst f recs s
/-- R277. -/
def performTZadd (f : TQ) (_ : W64) (recs : List (List Byte)) (s : State) : State := performMove .zadd f recs s

/-- R264, R277: a tile move with a record. -/
def State.tileMove (s : State) (op : TileOp) (i : Instr) (f : TQ) (perform : W64 → List (List Byte) → State → State) : Out :=
  s.word i.wf f.g (fun s => s.withRecord f 16 (fun b s =>
    let fmt := s.fmtOf s.key (fld b 0 4 / 0x40000)
    if moveOk op b && !moveRowsOk op fmt b then s.raise 6 causeRegion (BitVec.ofNat 64 (fld b 0 4))
    else s.act i 0 [b, bytesOf 1 fmt] perform))

/-- R277. -/
def execTLdb (f : TQ) (s : State) : Out := s.tileMove .ldb (.tLdb f) f (performTLdb f)
/-- R277. -/
def execTZclr (f : TQ) (s : State) : Out :=
  s.word (Instr.tZclr f).wf f.g (fun s => s.withToken f (fun s => s.act (.tZclr f) 0 [] (performTZclr f)))
/-- R277. -/
def execTZld (f : TQ) (s : State) : Out := s.tileMove .zld (.tZld f) f (performTZld f)
/-- R277. -/
def execTZst (f : TQ) (s : State) : Out := s.tileMove .zst (.tZst f) f (performTZst f)
/-- R277. -/
def execTZadd (f : TQ) (s : State) : Out := s.tileMove .zadd (.tZadd f) f (performTZadd f)

/-- R276: the pattern is set, or the record rejected. -/
def performTCop (_ : TQ) (_ : W64) (recs : List (List Byte)) (s : State) : State :=
  let v := BitVec.ofNat 64 (fld (recs.getD 0 []) 0 8)
  if patternOk v then (s.updCur (fun c => { c with cpat := v })).status prioT 0 else s.status prioT 1

/-- R276. -/
def execTCop (f : TQ) (s : State) : Out :=
  s.word (Instr.tCop f).wf f.g (fun s => s.withRecord f 8 (fun b s => s.act (.tCop f) 0 [b] (performTCop f)))

/-! ### The unit at work (R269, R270, R274, R277) -/

/-- The steps of a T command, a k-chunk of a group or a row of a move, with the cycles each takes. -/
def CmdKind.tSteps : CmdKind → List Nat
  | .product p => p.groups.flatMap (fun g => List.replicate p.kch g.2.2)
  | .move m => if m.op == .zclr then [1] else List.replicate m.mrows 1
  | _ => []
/-- Cycles from the end of the last step to C. -/
def CmdKind.tTail : CmdKind → Nat
  | .product _ => 12
  | .move m => if m.op == .zclr then 7 else 6
  | _ => 0
/-- Cycles the steps from number `k` on take. -/
def CmdKind.tLeft (x : CmdKind) (k : Nat) : Nat := (x.tSteps.drop k).foldl (· + ·) 0

/-- R269: does the unit still work on a command? -/
def Cmd.tOccupies (c : Cmd) : Bool := c.isT && c.st == .running && decide (c.kind.tTail < c.rem)

/-- R67, R274: the term of one pair of elements under operation `o`. -/
def cellTerm (o afmt bfmt : Nat) (sa ca sb cb : Nat) : Fp × Flags :=
  if o = 1 then
    let (a, fa) := decodeCode afmt sa ca
    let (b, fb) := decodeCode bfmt sb cb
    let (v, fl) := f32Of (a.sub b).abs
    (v, fa ||| fb ||| a.consume ||| b.consume ||| fl)
  else lgmul (logCode afmt ca) sa (logCode bfmt cb) sb

/-- R274: the value of one k-chunk from its 64 terms. -/
def chunkValue (o : Nat) (es : List (Fp × Flags)) : Fp × Flags :=
  let fl := orFlags (es.map Prod.snd)
  if o = 2 then ((es.map Prod.fst).tail.foldl Fp.max ((es.map Prod.fst).headD .zero), fl ||| orFlags (es.map (fun e => e.1.consume)))
  else
    let (v, fl') := treeSum (es.map Prod.fst)
    (v, fl ||| fl')

/-- R274: a chunk's value joined to what the cell holds. -/
def joinChunk (o : Nat) (y : Option Fp) (v : Fp) : Fp × Flags := match y with
  | none => (v, 0)
  | some y => if o = 2 then (y.max v, y.consume ||| v.consume)
    else
      let (w, fl) := f32Of (y.add v)
      (w, fl ||| y.consume ||| v.consume)

/-- R267: the two records of column `j` of chunk `c` of the B operand. -/
def operandCodes (m : Memory) (core : Nat) (p : Product) (boff c j : Nat) : List (Nat × Nat) :=
  ([0, 1]).flatMap (fun h =>
    let bs := m.readN (obKey core p.ob (boff + recSize p.bfmt * (128 * c + 2 * j + h))) (recSize p.bfmt)
    (recCodes p.bfmt bs).map (fun x => (recScale bs, x)))

/-- R274: chunk `c` of group (boff, r0, n) of a product: the cells of its rows, from the tile as it stands. -/
def State.productStep (s : State) (core : Nat) (p : Product) (g : Nat × Nat × Nat) (c : Nat) : State × Flags :=
  let (boff, r0, n) := g
  let o := p.pat.toNat / 2 ^ (2 * c) % 4
  let rs := recSize p.afmt
  let cols := (List.range p.ncols).map (operandCodes s.mem core p boff c)
  (List.range n).foldl (fun (acc : State × Flags) i =>
    let r := r0 + i
    let (bs, s) := acc.1.engineRead core (p.abase + r * p.apitch + 2 * c * rs) (2 * rs)
    let as := (chunksOf rs 2 bs).flatMap (fun x => (recCodes p.afmt x).map (fun e => (recScale x, e)))
    let row := (List.range p.ncols).map (fun j =>
      let es := List.zipWith (fun a b => cellTerm o p.afmt p.bfmt a.1 a.2 b.1 b.2) as (cols.getD j [])
      let (v, fl) := chunkValue o es
      let (w, fl') := joinChunk o (if c = 0 ∧ !p.acc then none else some (s.tileWord core p.z r j)) v
      (f32Bits w, fl ||| fl'))
    (s.setTileRow core p.z r (row.map Prod.fst), acc.2 ||| orFlags (row.map Prod.snd))) (s, 0)

/-- R277: row `r` of a tile move: the state, its flags, the scratchpad writes it will perform. -/
def State.moveStep (s : State) (core : Nat) (m : TileMove) (r : Nat) : State × Flags × List ElemW :=
  let bytes := plainBytes m.fmt m.ncols
  match m.op with
  | .zclr => ({ s with mem := s.mem.clear (tileKey core m.z 0 0) 0x4000 }, 0, [])
  | .zadd =>
    let row := (List.range m.ncols).map (fun j =>
      let a := s.tileWord core m.z r j
      let b := s.tileWord core m.loc r j
      let (v, fl) := f32Of (a.add b)
      (f32Bits v, fl ||| a.consume ||| b.consume))
    (s.setTileRow core m.z r (row.map Prod.fst), orFlags (row.map Prod.snd), [])
  | .zst =>
    let ps := encodePieces m.fmt ((List.range m.ncols).map (s.tileWord core m.z r))
    (s, orFlags (ps.map Prod.snd), flagged (writesFrom (gsaOf core (m.loc + r * m.pitch)) (ps.map Prod.fst)) (ps.map Prod.snd))
  | op =>
    let (bs, s) := s.engineRead core (if op = .ldb then m.loc else m.loc + r * m.pitch) bytes
    let xs := plainDecode m.fmt bs
    (s.setTileRow core m.z r (xs.map (fun x => f32Bits x.1)), consumed xs, [])

/-- The group and chunk of step `k` of a product. -/
def Product.stepAt (p : Product) (k : Nat) : (Nat × Nat × Nat) × Nat := (p.groups.getD (k / p.kch) (0, 0, 0), k % p.kch)

/-- A T command that reaches the first cycle of a step does that step (R270: row by row). A write to a tile performs, and raises its flags, with it; one to
the scratchpad later (R65). -/
def State.tStep (s : State) (c : Cmd) : State :=
  if c.st == .running && decide (c.done < c.kind.tSteps.length) && c.rem == c.kind.tLeft c.done + c.kind.tTail then
    match c.kind with
    | .product p =>
      let (g, ch) := p.stepAt c.done
      let (s, fl) := s.productStep c.core p g ch
      (s.updCmd c.id (fun c => { c with done := c.done + 1 })).raiseFlags [(ctxKey c.core c.h, fl)]
    | .move m =>
      let (s, fl, ws) := s.moveStep c.core m c.done
      if ws.isEmpty then (s.updCmd c.id (fun c => { c with done := c.done + 1 })).raiseFlags [(ctxKey c.core c.h, fl)]
      else s.updCmd c.id (fun c => { c with done := c.done + 1, flags := c.flags ||| fl, out := c.out ++ ws })
    | _ => s
  else s

/-- R266, R384, R391: a running T command of a frozen context stops between steps, for good when its run was killed; what its steps wrote and
flagged stays. -/
def State.tStop (s : State) (c : Cmd) : State :=
  if c.isT && c.st == .running && (c.doomed || (s.ctx (ctxKey c.core c.h)).frozen.isSome) && decide (c.done < c.kind.tSteps.length) &&
      decide (c.rem ≤ c.kind.tLeft c.done + c.kind.tTail) then
    if c.doomed then (s.flush c.id).dropCmd c.id else (s.flush c.id).updCmd c.id (fun c => { c with st := .queued, rem := 0 })
  else s

/-! ### Its events -/

/-- R269: the head of the log matrix queue of a core. -/
def State.tHead (s : State) (core : Nat) : Option Cmd :=
  s.cmds.find? (fun c => c.core == core && c.isT && !c.held && !s.parked c && c.st == .queued)

/-- R270: the tiles a T command writes. -/
def Cmd.writesTile (c : Cmd) (z : Nat) : Bool := match c.kind with
  | .product p => p.z == z
  | .move m => m.op != .zst && m.z == z
  | _ => false

/-- R269: may the head start now? -/
def State.tMayStart (s : State) (c : Cmd) : Bool :=
  s.mayStart c && !s.cmds.any (fun x => x.core == c.core && x.tOccupies) &&
    !s.cmds.any (fun x => x.core == c.core && x.isT && x.st == .running && c.tiles.any x.writesTile)

/-- R269, R196: has a product that runs fetched its last chunk of B: one cycle into its last step? -/
def Cmd.fetchedNow (c : Cmd) : Bool := match c.kind with
  | .product p => c.st == .running && !p.fetched && decide (c.rem ≤ c.kind.tLeft (c.kind.tSteps.length - 1) + 12)
  | _ => false

/-- A T command that starts, or starts again. -/
def Cmd.started (c : Cmd) : Cmd := { c with st := .running, rem := c.kind.tLeft c.done + c.kind.tTail }

/-- R269: the head of the queue starts; a product whose only chunk of B it fetches at once has fetched it in the next cycle. -/
def execLogMatrixCommandStart (core : Nat) (s : State) : Out :=
  if !coreExists core then .fault .noSuchAgent else
  match s.tHead core with
  | some c => .next (if s.tMayStart c then
      { s.updCmd c.id Cmd.started with agenda := if c.started.fetchedNow then .operandFetchDone c.id :: s.agenda else s.agenda } else s)
  | none => .next s

/-- R269: a product has fetched its operands. -/
def execOperandFetchDone (id : Nat) (s : State) : Out :=
  match s.cmd? id with
  | some c => .next (if c.fetchedNow then
      (s.updCmd id (fun c => { c with kind := match c.kind with
        | .product p => .product { p with fetched := true }
        | k => k }))
      else s)
  | none => .next s

/-- R270: a T command completes: its tiles are no longer busy, its flags are set, its token is signalled. -/
def execLogMatrixCommandCompletion (id : Nat) (s : State) : Out :=
  match s.cmd? id with
  | some c => .next (if c.isT && c.st == .running && decide (c.rem ≤ 1) then s.complete id else s)
  | none => .next s

end Sys2Proof.Machine
end

