-- ==== Sys2Proof/Machine/Sort.lean ====
section
/-! DEFINITION. Sort and count (R209, R210). -/

namespace Sys2Proof.Machine

/-- R209: a sort record's fields. -/
def sortOf (b : List Byte) : SortRec :=
  { keys := fld b 0 4, n := fld b 4 4, ne := fld b 8 2, kfmt := fld b 0xA 1, pol := fld b 0xB 1, cap := fld b 0xC 4, alt := fld b 0x10 4,
    cnts := fld b 0x14 4, offs := fld b 0x18 4, perm := fld b 0x1C 4, dmask := fld b 0x20 4, stat := fld b 0x24 4 }

/-- Bytes of a key. -/
def SortRec.keyBytes (r : SortRec) : Nat := if r.kfmt = 0 then 2 else 4

/-- R209: the regions that take part in the tests: (offset, bytes, element size). -/
def SortRec.regions (r : SortRec) : List (Nat × Nat × Nat) :=
  [(r.keys, r.n * r.keyBytes, r.keyBytes), (r.cnts, 4 * r.ne, 4), (r.offs, 4 * r.ne, 4), (r.perm, 4 * r.n, 4),
   (r.dmask, ceilDiv r.n 8, 1), (r.stat, 8, 8)] ++ (if r.pol = 2 then [(r.alt, 2 * r.ne, 2)] else [])

/-- No two of a list of regions overlap. -/
def apartAll : List (Nat × Nat × Nat) → Bool
  | [] => true
  | x :: xs => xs.all (fun y => !overlaps x.1 x.2.1 y.1 y.2.1) && apartAll xs

/-- R209: a sort record that is not rejected. -/
def sortOk (b : List Byte) : Bool :=
  let r := sortOf b
  decide (1 ≤ r.n) && decide (r.n < 2 ^ 20) && decide (1 ≤ r.ne) && decide (r.ne ≤ 1024) && decide (r.kfmt ≤ 1) && decide (r.pol ≤ 2) &&
    (r.pol == 0 || decide (r.cap < 2 ^ 20)) && zeros b 0x28 24 &&
    r.regions.all (fun x => x.1 % x.2.2 == 0 && decide (x.1 + x.2.1 ≤ 0x400000) && decide (x.1 % 0x40000 + x.2.1 ≤ 0x40000)) &&
    apartAll r.regions

/-- Where a token of the sort goes: an expert, dropped, or a bad key. -/
inductive Dest210 where
  | to (e : Nat) (rerouted : Bool)
  | dropped
  | bad
deriving DecidableEq, Repr

/-- R210: one token under the counts so far. -/
def sortToken (r : SortRec) (alt : Nat → Nat) (c : SMap Nat) (e : Int) : Dest210 :=
  if e < 0 ∨ (r.ne : Int) ≤ e then .bad
  else
    let e := e.toNat
    if r.pol = 0 ∨ look 0 c e < r.cap then .to e false
    else if r.pol = 2 ∧ alt e < r.ne ∧ alt e ≠ e ∧ look 0 c (alt e) < r.cap then .to (alt e) true
    else .dropped

/-- R210: the tokens in order, with the final counts. -/
def sortPass (r : SortRec) (alt : Nat → Nat) : List Int → SMap Nat → List Dest210 × SMap Nat
  | [], c => ([], c)
  | e :: es, c =>
    let d := sortToken r alt c e
    let c' := match d with
      | .to x _ => put c x (look 0 c x + 1)
      | _ => c
    let (ds, c'') := sortPass r alt es c'
    (d :: ds, c'')

/-- Exclusive sums of a list. -/
def exclusive : List Nat → Nat → List Nat
  | [], _ => []
  | x :: xs, a => a :: exclusive xs (a + x)

/-- The indices of a list that satisfy a test. -/
def indicesOf {α : Type} (p : α → Bool) (l : List α) : List Nat :=
  ((List.zip (List.range l.length) l).filter (fun x => p x.2)).map Prod.fst

/-- A bitmap of a list of truth values, eight to a byte. -/
def bitmap (bs : List Bool) : List Byte :=
  (chunksOf 8 (bs.length + 1) bs).map (fun c => BitVec.ofNat 8 (maskOf (indicesOf id c)))

/-- R210: everything a sort writes, from the keys and alternates it read. -/
def sortOutputs (core : Nat) (r : SortRec) (keys : List Int) (alts : List Nat) : List ElemW :=
  let (ds, c) := sortPass r (nth0 alts) keys []
  let cnts := (List.range r.ne).map (look 0 c)
  let goes := fun e (d : Dest210) => match d with
    | .to x _ => x == e
    | _ => false
  let placed := (List.range r.ne).flatMap (fun e => indicesOf (goes e) ds)
  let perm := placed ++ List.replicate (r.n - placed.length) 0xFFFFFFFF
  let lost := ds.map (fun d => match d with
    | .to _ _ => false
    | _ => true)
  let count := fun (p : Dest210 → Bool) => (ds.filter p).length
  let stat := count (· == .dropped) + count (fun d => match d with
      | .to _ b => b
      | _ => false) * 2 ^ 20 + count (· == .bad) * 2 ^ 40
  let out := fun a (xs : List Nat) => writesFrom (gsaOf core a) (xs.map (bytesOf 4))
  out r.cnts cnts ++ out r.offs (exclusive cnts 0) ++ out r.perm perm ++ writesFrom (gsaOf core r.dmask) ((bitmap lost).map (fun b => [b])) ++
    [{ addr := gsaOf core r.stat, bytes := bytesOf 8 stat }]

/-- R210: the sort reads its keys: what it will write is known from now on. `done` counts that it has. -/
def State.sortSample (s : State) (id : Nat) : State :=
  match s.cmd? id with
  | some c => (match c.kind with
    | .sort r =>
      if c.done ≠ 0 then s
      else
        let (ks, s) := s.engineRead c.core r.keys (r.n * r.keyBytes)
        let (as, s) := if r.pol = 2 then s.engineRead c.core r.alt (2 * r.ne) else ([], s)
        let keys := (chunksOf r.keyBytes (r.n + 1) ks).map (fun k => toSigned (8 * r.keyBytes) (ofBytes k))
        let alts := (chunksOf 2 (r.ne + 1) as).map ofBytes
        (s.publish id (sortOutputs c.core r keys alts)).updCmd id (fun c => { c with done := 1 })
    | _ => s)
  | none => s

/-- R210: cycles from start to completion. -/
def SortRec.time (r : SortRec) : Nat := 2 * ceilDiv r.n 64 + ceilDiv r.ne 64 + 64

/-- One cycle of a sort: it starts when the commands it waits for are complete, and reads at a free cycle of its run (`eng`). A freeze
does not stop it (R384). -/
def State.sortCycle (s : State) (c : Cmd) : State :=
  match c.kind with
  | .sort r =>
    if c.held then s
    else if c.st == .queued then
      if s.mayStart { c with born := 0 } && !s.parked c then
        let (x, s) := s.freeNat
        s.updCmd c.id (fun c => { c with st := .running, rem := r.time, eng := 1 + x % r.time })
      else s
    else
      let s := if c.rem ≤ c.eng then s.sortSample c.id else s
      s.updCmd c.id (fun c => { c with rem := c.rem - 1 })
  | _ => s

/-- R209: a sort acts: rejected, or queued. -/
def performQSortc (f : TQ) (_ : W64) (recs : List (List Byte)) (s : State) : State :=
  let b := recs.getD 0 []
  if !sortOk b then s.reject f prioQ 1 else s.accept f prioQ (.sort (sortOf b)) none true b

/-- R209, R210. -/
def execQSortc (f : TQ) (s : State) : Out :=
  s.word (Instr.qSortc f).wf f.g (fun s => s.withRecord f 64 (fun b s => s.act (.qSortc f) 0 [b] (performQSortc f)))

/-- R210: a sort completes: every output is written and its token signals. -/
def execSortCompletion (id : Nat) (s : State) : Out :=
  match s.cmd? id with
  | some c => (match c.kind with
    | .sort _ => .next (if c.st == .running && decide (c.rem ≤ 1) then (s.sortSample id).complete id else s)
    | _ => .next s)
  | none => .next s

end Sys2Proof.Machine
end

