-- ==== Sys2Proof/Machine/Sched.lean ====
section
/-! DEFINITION. Levels of work, launches, placement and dispatch, exit and completion, cancel (R16 to R33, R42, R139 to R142, R199 to
R206, R353 to R363, R370). -/

namespace Sys2Proof.Machine

/-! ### The runtime's own accesses to virtual memory -/

/-- R418: does a page lie in HBM of a die that has failed? -/
def State.lost (s : State) (l : Leaf) : Bool := !l.host && (s.die (l.pa / 2 ^ 38)).failed

/-- The bytes of a partition's virtual space, when every page of them is mapped, resident and readable, on no die that has failed. -/
def State.virtBytes (s : State) (part va n : Nat) : Option (List Byte) :=
  ((List.range n).map (fun i => match s.walk part (va + i) with
    | some l => if l.r && l.res && !s.lost l then some (s.readPhys l.host (l.pa + (va + i - l.base)) l.cz) else none
    | none => none)).foldr (fun x acc => match x, acc with
      | some b, some bs => some (b :: bs)
      | _, _ => none) (some [])

/-- Write bytes of a partition's virtual space where its pages are mapped, resident and writable, on no die that has failed. -/
def State.virtWrite (s : State) (part va : Nat) (bs : List Byte) : State :=
  ((List.range bs.length).zip bs).foldl (fun s x => match s.walk part (va + x.1) with
    | some l => if l.w && l.res && !s.lost l then s.writePhys l.host (l.pa + (va + x.1 - l.base)) l.cz x.2 else s
    | none => s) s

/-! ### Levels (R16, R17, R199) -/

/-- R17: children neither complete nor cancelled. -/
def Level.nout (l : Level) : Nat := l.total - l.ncncl - l.ndone
/-- R17. -/
def Level.isDone (l : Level) : Bool := l.nout == 0

/-- The handles in use: of levels, of launches that others depend on or that a line names, of cancels on their way. -/
def State.handles (s : State) : List Nat :=
  s.levels.flatMap (fun e => e.1 :: e.2.deps) ++ s.lines.filterMap (fun e => e.2.launch) ++ s.cancels.map Prod.snd

/-- The first index from `j` whose handle is not in use, within `fuel` tries. -/
def unusedIndex (used : List Nat) (base : Nat) : Nat → Nat → Nat
  | 0, j => j % 2 ^ 26
  | n + 1, j => if used.contains (base + j % 2 ^ 26) then unusedIndex used base n (j + 1) else j % 2 ^ 26

/-- R199: a handle of a kind on a die that nothing refers to; which one is free. -/
def State.newHandle (s : State) (kind die : Nat) : Nat × State :=
  let (j, s) := s.freeNat
  let base := kind * 2 ^ 28 + die * 2 ^ 26
  (base + unusedIndex s.handles base (s.handles.length + 1) j, s)

/-- R17: a level whose children are all accounted for signals its tokens and counts at its parent, once; a phase does so at its
completion event. -/
def State.settle : Nat → Nat → State → State
  | 0, _, s => s
  | n + 1, h, s => match s.level? h with
    | some l =>
      if l.isDone && !l.reported && handleKind h ≤ 2 then
        let s := s.updLevel h (fun l => { l with reported := true, doneAt := s.now })
        let s := l.toks.foldl (fun s t => s.endTok t.1 t.2 false false false) s
        let unstarted := l.cncl && l.ndone == 0 && l.total != 0
        let s := s.updLevel l.parent (fun p => if unstarted then { p with ncncl := p.ncncl + 1 } else { p with ndone := p.ndone + 1 })
        State.settle n l.parent s
      else s
    | none => s

/-- R17: the word of a completion record: bits [63:0] or [127:64]. -/
def Level.record (l : Level) (hi : Bool) : W64 :=
  if hi then BitVec.ofNat 64 (l.ncncl * 2 ^ 32 + l.ndone)
  else BitVec.ofNat 64 (l.nout * 2 ^ 32 + (if l.pres then 8 else 0) + (if l.err then 4 else 0) + (if l.cncl then 2 else 0) +
    (if l.isDone then 1 else 0))

/-- R43, R352: a job whose last child is accounted for: its record is written once. -/
def State.settleJob (s : State) (h : Nat) : State :=
  match s.level? h with
  | some l =>
    if l.isDone && !l.reported then
      (s.updLevel h (fun l => { l with reported := true, doneAt := s.now })).virtWrite l.part l.cdone
        (bytesOf 8 (l.record false).toNat ++ bytesOf 8 (l.record true).toNat)
    else s
  | none => s

/-- The phase a level belongs to, or 0: its ancestor of kind 3. -/
def State.phaseOf (s : State) : Nat → Nat → Nat
  | 0, _ => 0
  | n + 1, h => if handleKind h = 3 then h else match s.level? h with
    | some l => s.phaseOf n l.parent
    | none => 0

/-! ### Launch records (R200, R201) -/

/-- R200. -/
def launchOf (b : List Byte) : LaunchRec :=
  { task := fld b 0 4, gx := fld b 4 2, gy := fld b 6 2, gz := fld b 8 2, prio := fld b 0xA 1, lq := fld b 0xB 1, args := fld b 0xC 4,
    urec := fld b 0x10 4, sync := if 128 ≤ fld b 0x14 1 then some (fld b 0x14 1 % 16) else none, eps := fld b 0x15 1,
    lagcyc := fld b 0x16 2, cseed := BitVec.ofNat 64 (fld b 0x18 8), gang := fld b 0x20 2 % 2 == 1,
    nosteal := fld b 0x20 2 / 4 % 2 == 1, dies := fld b 0x22 2 }

/-- R200, R18: the fields of a record are in range. -/
def launchOk (b : List Byte) : Bool :=
  decide (fld b 0xA 1 ≤ 7) && decide (fld b 0xB 1 ≤ 31) && fld b 0x14 1 / 16 % 8 == 0 && decide (fld b 0x20 2 < 8) &&
    decide (fld b 0x22 2 < 16) && zeros b 0x24 12 && fld b 0x10 4 % 32 == 0 &&
    (fld b 0x20 2 / 2 % 2 == 1 || decide (fld b 4 2 * fld b 6 2 * fld b 8 2 < 2 ^ 32))

/-- The tasks of a launch with their roles (R163): one task, or loader, computer and storer. -/
def Image.tasksOf (im : Image) (r : LaunchRec) : List (Nat × Task) :=
  if r.gang then match im.gangs[r.task]? with
    | some g => [(1, im.tasks.getD g.ldr {}), (2, im.tasks.getD g.cmp {}), (3, im.tasks.getD g.sto {})]
    | none => []
  else match im.tasks[r.task]? with
    | some t => [(0, t)]
    | none => []

/-- R200: the grid, from the record or from the descriptor. -/
def Image.gridOf (im : Image) (r : LaunchRec) (fromDesc : Bool) : Nat × Nat × Nat :=
  if !fromDesc then (r.gx, r.gy, r.gz)
  else if r.gang then match im.gangs[r.task]? with
    | some g => (g.gx, g.gy, g.gz)
    | none => (0, 0, 0)
  else match im.tasks[r.task]? with
    | some t => (t.gx, t.gy, t.gz)
    | none => (0, 0, 0)

/-- R354: the eligible cores: of the partition, on the dies named, covering every pair of the tasks; a failed die has none (R416). -/
def State.eligible (s : State) (part dies : Nat) (ts : List (Nat × Task)) : List Nat :=
  allCores.filter (fun c => s.partOf c == some part && dies.testBit (dieOf c) && !(s.die (dieOf c)).failed &&
    ts.all (fun t => t.2.arrays.all (fun a => (List.range a.2.2).all (fun i => (s.apown c).testBit (a.2.1 + i)))))

/-- R201: the state a unit record shows. -/
def UnitSt.code : UnitSt → Nat
  | .moving | .queued | .reserving | .reserved => 0
  | .running | .exited | .counting => 1
  | .complete => 2
  | .cancelled => 3

/-- R201: write bytes 0x00 to 0x0F of a unit's record. -/
def State.writeUnitRecord (s : State) (u : Unit) : State :=
  match s.level? u.launch with
  | some l =>
    let bs := (bytesOf 4 (gsaOf u.owner 0) ++ bytesOf 4 u.launch ++ bytesOf 2 u.st.code ++ [0, 0] ++ bytesOf 4 u.idx)
    { s with mem := s.mem.writeN (l.lrec.urec + 32 * u.idx) bs }
  | none => s

/-- Change a unit and write its record when its owner or state changed; the cycle is noted (R371). -/
def State.changeUnit (s : State) (uid : Nat) (f : Unit → Unit) : State :=
  match s.unit? uid with
  | some u =>
    let v : Unit := { (f u) with when_ := s.now, prev := u.owner }
    let s := s.updUnit uid (fun _ => v)
    if u.owner = v.owner ∧ u.st.code = v.st.code then s else s.writeUnitRecord v
  | none => s

/-- R201: the unit-record array lies below 0x400000 on one core of the partition. -/
def State.unitRecordsOk (s : State) (part urec n : Nat) : Bool :=
  coreExists (gsaCore urec) && s.partOf (gsaCore urec) == some part && decide (gsaOff urec + 32 * n ≤ 0x400000)

/-- R202: is a line bound to a live launch? -/
def State.lineBound (s : State) (l : Nat) : Bool := match (s.line l).launch with
  | some h => (match s.level? h with
    | some x => !x.isDone
    | none => false)
  | none => false

/-- R353: level records of a die's scheduler in use. -/
def State.recordsUsed (s : State) (die : Nat) : Nat :=
  (s.levels.filter (fun e => handleDie e.1 == die && decide (handleKind e.1 ≤ 2))).length

/-- Add the units of a launch from index `i` (R354): those of another die set out for it. -/
def State.addUnits (s : State) (h die : Nat) (e : List Nat) (ptr : Nat) (sync : Bool) : Nat → Nat → State
  | 0, _ => s
  | n + 1, i =>
    let owner := e.getD ((ptr + i) % e.length) 0
    let (uid, s) := s.freshId
    let u : Unit := { uid := uid, launch := h, idx := i, owner := owner,
                      st := if dieOf owner ≠ die then .moving else if sync then .reserving else .queued, when_ := s.now, prev := owner }
    State.addUnits (({ s with units := put s.units uid u }).writeUnitRecord u) h die e ptr sync n (i + 1)

/-- R202, R354: create a launch for a partition with the scheduler of a die: its status, its handle, the state. A refused launch
creates nothing. -/
def State.createLaunch (s : State) (die part img parent : Nat) (super : Bool) (deps : List Nat) (b : List Byte) : Nat × Nat × State :=
  let r := launchOf b
  let im := s.image img
  let ts := im.tasksOf r
  let (gx, gy, gz) := im.gridOf r (fld b 0x20 2 / 2 % 2 == 1)
  let n := gx * gy * gz
  let e := s.eligible part (if r.dies = 0 then 2 ^ die else r.dies) ts
  let lineBad := match r.sync with
    | some l => !(s.part part).lines.getLsbD l || s.lineBound l
    | none => false
  if !launchOk b then (1, 0, s)
  else if ts.isEmpty then (2, 0, s)
  else if !s.unitRecordsOk part r.urec n then (1, 0, s)
  else if lineBad then (3, 0, s)
  else if e.isEmpty then (if ts.any (fun t => !t.2.arrays.isEmpty) then 4 else 5, 0, s)
  else if r.sync.isSome && decide (e.length < n) then (3, 0, s)
  else if 1024 ≤ s.recordsUsed die then (5, 0, s)
  else
    let ptr := look 0 (s.part part).ptr die
    let (h, s) := s.newHandle 1 die
    let l : Level := { handle := h, part := part, img := img, parent := parent, total := n, super := super, deps := deps,
                       lrec := { r with gx := gx, gy := gy, gz := gz } }
    let s := { s with levels := put s.levels h l }
    let s := s.updPart part (fun p => { p with ptr := put p.ptr die ((ptr + n) % e.length) })
    let s := match r.sync with
      | some x => if n = 0 then s else s.updLine x (fun y => { y with launch := some h })
      | none => s
    (0, h, s.addUnits h die e ptr r.sync.isSome n 0)

/-! ### The words that create work (R202, R203) -/

/-- R202, R199: who creates: the phase of the issuing unit, or of the unit that assigned a handler's context; a supervisor's level belongs
to no phase. -/
def State.creator (s : State) (k : Nat) : Nat × Bool :=
  let c := s.ctx k
  if c.role == .supervisor then (0, true) else match c.work with
    | some w => (s.phaseOf 4 w.launch, false)
    | none => (0, true)

/-- The status word of a creation (R202). -/
def createStatus (st h : Nat) : W64 := BitVec.ofNat 64 (st * 2 ^ 32 + if st = 0 then h else 0)

/-- Attach the token of a creating word to the level, and settle a level with no children. -/
def State.attach (s : State) (f : TQ) (h : Nat) : State :=
  let s := s.armIf s.key f.kw f.k.toNat
  let s := if f.kw then s.updLevel h (fun l => { l with toks := (s.key, f.k.toNat) :: l.toks }) else s
  State.settle 4 h s

/-- Count a new child at its phase. -/
def State.addChild (s : State) (parent : Nat) : State := s.updLevel parent (fun p => { p with total := p.total + 1 })

/-- R202: a launch is created, or refused. -/
def performQLaunch (f : TQ) (_ : W64) (recs : List (List Byte)) (s : State) : State :=
  let (parent, super) := s.creator s.key
  let (st, h, s) := s.createLaunch (dieOf s.iss.core) ((s.partOf s.iss.core).getD 16) s.cur.img parent super [] (recs.getD 0 [])
  let s := if st = 0 then (s.addChild parent).attach f h else s
  s.status prioQ (createStatus st h)

/-- R200, R202. -/
def execQLaunch (f : TQ) (s : State) : Out :=
  s.word (Instr.qLaunch f).wf f.g (fun s => s.withRecord f 48 (fun b s => s.act (.qLaunch f) 0 [b] (performQLaunch f)))

/-- R360: do two ranges make the later launch depend on the earlier? They meet and one of them writes. -/
def rangesMeet (a b : Nat × Nat × Nat × Nat) : Bool :=
  a.2.2.2 == b.2.2.2 && overlaps a.1 a.2.1 b.1 b.2.1 && (decide (2 ≤ a.2.2.1) || decide (2 ≤ b.2.2.1))

/-- The range records of a launch's tasks (R140). -/
def State.rangesOf (s : State) (img : Nat) (r : LaunchRec) : List (Nat × Nat × Nat × Nat) :=
  ((s.image img).tasksOf r).flatMap (fun t => t.2.ranges)

/-- R353: dependence-table entries of a die in use: those of the graphs' launches that are neither complete nor cancelled. -/
def State.rangesUsed (s : State) (die : Nat) : Nat :=
  ((s.levels.filter (fun e => handleDie e.1 == die && handleKind e.1 == 1 && handleKind e.2.parent == 2 && !e.2.isDone && !e.2.cncl)).map
    (fun e => (s.rangesOf e.2.img e.2.lrec).length)).foldl (· + ·) 0

/-- R360: the range records of a graph. -/
def State.graphRanges (s : State) (img : Nat) (bs : List (List Byte)) : Nat :=
  (bs.map (fun b => (s.rangesOf img (launchOf b)).length)).foldl (· + ·) 0

/-- R203, R360: create the launches of a graph in record order, each depending on the earlier ones its ranges meet; the first refusal ends
it. -/
def State.createAll (s : State) (die part img graph : Nat) (super : Bool) : List (List Byte) → List (Nat × List (Nat × Nat × Nat × Nat)) →
    Nat × State
  | [], _ => (0, s)
  | b :: bs, made =>
    let rs := s.rangesOf img (launchOf b)
    let deps := (made.filter (fun m => m.2.any (fun x => rs.any (fun y => rangesMeet x y)))).map Prod.fst
    match s.createLaunch die part img graph super deps b with
    | (0, h, s) => State.createAll s die part img graph super bs (made ++ [(h, rs)])
    | (st, _, _) => (st, s)

/-- R203: a graph is created whole, or refused whole. -/
def performQGlaunch (f : TQ) (_ : W64) (recs : List (List Byte)) (s : State) : State :=
  match recs with
  | [] => s.status prioQ (createStatus 1 0)
  | _ :: bs =>
    let die := dieOf s.iss.core
    let img := s.cur.img
    let (parent, super) := s.creator s.key
    if bs.isEmpty then s.status prioQ (createStatus 1 0)
    else
      let (h, t) := s.newHandle 2 die
      let g : Level := { handle := h, part := (s.partOf s.iss.core).getD 16, img := img, parent := parent, total := bs.length, super := super }
      let t := { t with levels := put t.levels h g }
      let (st, t) := t.createAll die g.part img h super bs []
      if st ≠ 0 then s.status prioQ (createStatus st 0)
      else if 1024 ≤ s.recordsUsed die || 256 < s.rangesUsed die + s.graphRanges img bs then s.status prioQ (createStatus 5 0)
      else
        let launches := (t.levels.filter (fun e => e.2.parent == h)).map Prod.fst
        let t := (t.addChild parent).attach f h
        (launches.foldl (fun t x => State.settle 4 x t) t).status prioQ (createStatus 0 h)

/-- R203: the launch records a graph record names; none when it breaks the rules. -/
def State.graphRecords (s : State) (a : Nat) (b : List Byte) : List (List Byte) :=
  let n := fld b 0 2
  if n = 0 ∨ 64 < n ∨ !zeros b 2 6 ∨ 0x400000 < a + 8 + 4 * n then []
  else
    let offs := (List.range n).map (fun i => fld (s.localBytes (a + 8) (4 * n)) (4 * i) 4)
    if offs.all (fun o => o % 8 == 0 && decide (o + 48 ≤ 0x400000)) then offs.map (fun o => s.localBytes o 48) else []

/-- R203. -/
def execQGlaunch (f : TQ) (s : State) : Out :=
  s.word (Instr.qGlaunch f).wf f.g (fun s => s.withRecord f 8 (fun b s =>
    s.act (.qGlaunch f) 0 (b :: s.graphRecords (s.recordAddr f).toNat b) (performQGlaunch f)))

/-! ### Free contexts, images, placement (R355 to R357, R362) -/

/-- R402: has the partition that owns a core faulted? -/
def State.faultedOn (s : State) (core : Nat) : Bool := (s.partOf core).any (fun p => (s.part p).faulted)

/-- May units be dispatched to a core: one of a partition that has not faulted (R402), on a die that has not failed (R416), in P0 (R412), with no debug halt
(R413), to which dispatch has not stopped (R346)? -/
def State.takesWork (s : State) (core : Nat) : Bool :=
  (s.partOf core).isSome && !s.faultedOn core && !(s.die (dieOf core)).failed && look 0 s.power (clusterIndex core) == 0 && !(s.core core).halted &&
    !s.mon.noDispatch.testBit (clusterIndex core)

/-- R357: the free contexts of a core that takes units, ascending. -/
def State.freeCtxs (s : State) (core : Nat) : List Nat :=
  if s.takesWork core then ((List.range 8).map (ctxKey core)).filter (fun k => (s.ctx k).role == .free && (s.ctx k).frozen.isNone) else []

/-- R356: may a unit of an image be dispatched on a core as far as other images go? Contexts reserved for a unit of another image count as holding it
(log 91). -/
def State.imageFree (s : State) (core img : Nat) : Bool :=
  !((List.range 8).any (fun h => let c := s.ctx (ctxKey core h)
    (c.role == .unit || c.role == .handler || c.role == .loaded || c.role == .reserved) && c.img != img))

/-- R356: the core holds the image's data, and no context of another image. -/
def State.imageReady (s : State) (core img : Nat) : Bool := (s.core core).image == some img && s.imageFree core img

/-- Split a list of contexts among routines by their counts. -/
def shareOut : List (Nat × Task) → List Nat → List (Nat × Task × List Nat)
  | [], _ => []
  | (r, t) :: ts, ks => (r, t, ks.take t.ctx) :: shareOut ts (ks.drop t.ctx)

/-- R362: all routines on one core. -/
def State.placeOne (s : State) (core : Nat) (ts : List (Nat × Task)) : Option (List (Nat × Task × List Nat)) :=
  let ks := s.freeCtxs core
  if (ts.map (fun t => t.2.ctx)).foldl (· + ·) 0 ≤ ks.length then some (shareOut ts ks) else none

/-- R362: the routines on three cores of the owner's cluster. -/
def State.placeThree (s : State) (core : Nat) (ts : List (Nat × Task)) : Option (List (Nat × Task × List Nat)) :=
  match ts with
  | [l, c, t] =>
    let others := ((List.range 8).map (fun i => core / 8 * 8 + i)).filter (fun x => x != core)
    let room := fun (x : Nat) (t : Task) => decide (t.ctx ≤ (s.freeCtxs x).length)
    match others.find? (fun x => room x l.2) with
    | some a => (match others.find? (fun x => x != a && room x t.2) with
      | some b =>
        if room core c.2 then
          some [(l.1, l.2, (s.freeCtxs a).take l.2.ctx), (c.1, c.2, (s.freeCtxs core).take c.2.ctx), (t.1, t.2, (s.freeCtxs b).take t.2.ctx)]
        else none
      | none => none)
    | none => none
  | _ => none

/-- R355, R370: may units of a launch start on a core: the launches it depends on are complete, and it is not cancelled, as far as the core's scheduler
knows? -/
def State.mayLaunch (s : State) (l : Level) (core : Nat) : Bool :=
  !(l.cncl && handleDie l.handle == dieOf core) && l.deps.all (fun d => match s.level? d with
    | some x => x.isDone
    | none => true)

/-- R362: the placement a launch asks for: all routines on one core, on three, or either. -/
def State.plcOf (s : State) (l : Level) : Nat := if l.lrec.gang then ((s.image l.img).gangs.getD l.lrec.task {}).plc else 1

/-- R357, R362: the contexts a unit or grid point would get on a core, images apart. -/
def State.planned (s : State) (l : Level) (core : Nat) : Option (List (Nat × Task × List Nat)) :=
  let ts := (s.image l.img).tasksOf l.lrec
  match s.plcOf l with
  | 1 => s.placeOne core ts
  | 2 => s.placeThree core ts
  | _ => match s.placeOne core ts with
    | some p => some p
    | none => s.placeThree core ts

/-- The cores of a placement. -/
def coresIn (ps : List (Nat × Task × List Nat)) : List Nat := (ps.flatMap (fun p => p.2.2)).map keyCore

/-- R356: the core that dispatches a unit for which the data of its image are written. -/
def State.boundTo (s : State) (u : Unit) : Option Nat := s.cores.findSome? (fun e => match e.2.takes with
  | some (uid, d, _) => if uid = u.uid then some d else none
  | none => none)

/-- R355, R356, R357, R362: the contexts a unit or grid point would get on a core in this cycle, if its launch may start there, whether the data of its image
are there or not. A core to which the data of an image are written takes no unit of another image meanwhile (log 89). -/
def State.mayPlace (s : State) (u : Unit) (core : Nat) : Option (List (Nat × Task × List Nat)) :=
  match s.level? u.launch with
  | none => none
  | some l =>
    if !s.mayLaunch l core then none
    else (s.planned l core).filter (fun ps => (coresIn ps).all (fun c =>
      s.imageFree c l.img && (s.core c).takes.all (fun t => t.1 == u.uid || (s.unit? t.1).any (fun x => (s.level? x.launch).any (fun y => y.img == l.img)))))

/-- R356: those contexts, when the data of the unit's image are there. -/
def State.placement (s : State) (u : Unit) (core : Nat) : Option (List (Nat × Task × List Nat)) :=
  match s.level? u.launch with
  | none => none
  | some l => (s.mayPlace u core).filter (fun ps => (coresIn ps).all (fun c => s.imageReady c l.img))

/-! ### Dispatch (R19, R142, R359) -/

/-- R142, R278, R359: the pair map of a unit on a core that is not the owner its launch gave it. -/
def Task.pairMapOn (t : Task) (core : Nat) : SMap Nat :=
  t.arrays.foldl (fun m a => match t.replicas.find? (fun r => r.1 == a.1 && r.2.2 == gsaOf core 0) with
    | some r => (List.range a.2.2).foldl (fun m i => put m (a.2.1 + i) (r.2.1 + i)) m
    | none => m) []

/-- R402, R412, R413: what holds a context that starts on a core, or comes to rest there: a debug halt (1), a cluster in P1 or P2 (2), a partition that has
faulted (3). -/
def State.heldAtStart (s : State) (core : Nat) : BitVec 4 :=
  (if (s.core core).halted then 2 else 0) ||| (if look 0 s.power (clusterIndex core) = 0 then 0 else 4) ||| (if s.faultedOn core then 8 else 0)

/-- R19, R359, R165: a routine starts in its contexts: its first bundle may issue from the fourth cycle on, unless something holds it (R413); the rest are
reserved. -/
def State.startRoutine (s : State) (u : Unit) (l : Level) (cores : List Nat) (stolen : Bool) (x : Nat × Task × List Nat) : State :=
  let (role, t, ks) := x
  match ks with
  | [] => s
  | k :: rest =>
    let core := keyCore k
    let r := l.lrec
    let i := if r.gang then 3 * u.idx + (role - 1) else u.idx
    let w : Work := { uid := u.uid, launch := u.launch, idx := u.idx, tx := u.idx % r.gx, ty := u.idx / r.gx % r.gy, tz := u.idx / r.gx / r.gy,
                      gx := r.gx, gy := r.gy, gz := r.gz, role := role, oneCore := r.gang && cores.all (· == core),
                      gcores := if r.gang then cores else [], img := l.img, resv := rest.map keyCtx, point := u.uid,
                      pairMap := if stolen then t.pairMapOn core else [],
                      lines := match r.sync with
                        | some y => [y]
                        | none => [] }
    let live : Arch := { pc := BitVec.ofNat 32 t.entry, coin := coinSeed r.cseed i,
                         g := [(1, BitVec.ofNat 64 r.args), (2, BitVec.ofNat 64 (r.urec + 32 * u.idx))] }
    let s := s.setCtx k { s.dispatchState core with
      role := .unit, img := l.img, origin := core, wake := 4, live := live, work := some w, why := s.heldAtStart core,
      frozen := if s.heldAtStart core = 0 then none else some 15 }
    let s := rest.foldl (fun s y => s.setCtx y { role := .reserved, img := l.img }) s
    s.updCore core (fun c => { c with fmt := (List.range 16).map (fun b =>
      (b, if nth0 (s.image l.img).fmts b ≤ 10 then BitVec.ofNat 4 (nth0 (s.image l.img).fmts b) else 0)) })

/-- R25, R141, R362: bind the pipes of a placed grid point, each to the head its record names, also where that is not the one by record order: the model's
choice, for R141 lists no rejection (log 94). -/
def State.bindPipes (s : State) (u : Unit) (l : Level) (keys : List Nat) : State :=
  if !l.lrec.gang then s
  else
    let g := (s.image l.img).gangs.getD l.lrec.task {}
    let keyOf := fun t => if t = g.ldr then nth0 keys 0 else if t = g.cmp then nth0 keys 1 else nth0 keys 2
    { s with pipes := s.pipes ++ (List.range g.pipes.length).map (fun i =>
        let p := g.pipes.getD i (0, 0, 4)
        { point := u.uid, index := i, prod := keyOf p.1, cons := keyOf p.2.1, head := p.2.2 }) }

/-- R356, R29: a core for which data were to be written does not wait for its unit any more; data still being written leave no trace (log 89). -/
def Core.untake (c : Core) : Core := match c.takes with
  | some (_, _, old) => { c with takes := none, loading := none, image := if c.loading.isSome then old else c.image }
  | none => c

/-- R356: no core waits for a unit any more. -/
def State.untake (s : State) (u : Unit) : State :=
  { s with cores := s.cores.map (fun e : Nat × Core => (e.1, if e.2.takes.any (fun t : Nat × Nat × Option Nat => t.1 == u.uid) then e.2.untake else e.2)) }

/-- R357, R359: dispatch a unit or a grid point in the contexts given; a routine whose task names no context counts as one in context 0 of core 0: the
model's choice, R139 gives 1 to 8 and no loader rejects others (log 94). -/
def State.dispatch (s : State) (u : Unit) (owner : Nat) (stolen : Bool) (ps : List (Nat × Task × List Nat)) : State :=
  match s.level? u.launch with
  | none => s
  | some l =>
    let keys := ps.map (fun p => nth0 p.2.2 0)
    let cores := keys.map keyCore
    let s := ps.foldl (fun s p => s.startRoutine u l cores stolen p) s
    let s := (s.bindPipes u l keys).untake u
    s.changeUnit u.uid (fun u => { u with st := .running, owner := owner, keys := keys, open_ := keys, claimed := stolen })

/-! ### The dispatch decision (R358) -/

/-- R355, R18: the units available to a core, oldest launch first and lowest index first within each. -/
def State.availableTo (s : State) (core : Nat) : List Unit :=
  (s.units.map Prod.snd).filter (fun u => u.owner == core && u.st == .queued && (s.mayPlace u core).isSome)

/-- The launch record of a unit. -/
def State.recOf (s : State) (u : Unit) : LaunchRec := match s.level? u.launch with
  | some l => l.lrec
  | none => {}

/-- R358: the unit to dispatch on a core, and its priority and queue. -/
def State.nextUnit (s : State) (core : Nat) : Option (Unit × Nat × Nat) :=
  let us := s.availableTo core
  let heads := (List.range 32).filterMap (fun q => (us.find? (fun u => (s.recOf u).lq == q)).map (fun u => (q, u)))
  let p := (heads.map (fun x => (s.recOf x.2).prio)).foldl max 0
  let r := look 0 (s.die (dieOf core)).rr (8 * core + p)
  let order := (List.range 32).map (fun i => (r + i) % 32)
  (order.findSome? (fun q => heads.find? (fun x => x.1 == q && (s.recOf x.2).prio == p))).map (fun x => (x.2, p, x.1))

/-- R358, R356: the unit dispatched on a core in this cycle: the next one, when the data of its image are there. -/
def State.pickUnit (s : State) (core : Nat) : Option (Unit × Nat × Nat) := (s.nextUnit core).filter (fun x => (s.placement x.1 core).isSome)

/-- R371: a unit dispatched in this cycle as it was when the cycle began: queued on its owner then, its contexts free. -/
def State.undone (s : State) (u : Unit) : State :=
  (u.keys.foldl (fun s k => (((s.ctx k).work.map (fun w => w.resv)).getD []).foldl (fun s h => s.setCtx (ctxKey (keyCore k) h) {}) (s.setCtx k {})) s).updUnit
    u.uid (fun u => { u with st := .queued, owner := u.prev })

/-- R371: the state that the decisions of this cycle read: without the dispatches and claims made in it. -/
def State.atStart (s : State) : State :=
  ((s.units.map Prod.snd).filter (fun u => u.st == .running && u.when_ == s.now && (s.recOf u).sync.isNone)).foldl State.undone s

/-- R358, R371: the decision is taken on the state at the start of the cycle; a unit whose contexts another decision has taken since is not dispatched. -/
def execDispatchDecision (core : Nat) (s : State) : Out :=
  if !coreExists core then .fault .noSuchAgent
  else match s.atStart.pickUnit core with
    | some (u, p, q) => (match s.placement u core with
      | some ps => .next ((s.dispatch u core false ps).updDie (dieOf core) (fun d => { d with rr := put d.rr (8 * core + p) ((q + 1) % 32) }))
      | none => .next s)
    | none => .next s

/-! ### Exit and completion (R32, R42, R205) -/

/-- Nothing that a context issued refers to it any more: its tokens, its queue entries (R205, R357). -/
def State.forget (s : State) (k : Nat) : State :=
  { s with
    levels := s.levels.map (fun e => (e.1, { e.2 with toks := e.2.toks.filter (fun t => t.1 != k) })),
    slots := s.slots.map (fun e => (e.1, { e.2 with toks := e.2.toks.filter (fun t => t.1 != k), waitToks := e.2.waitToks.filter (fun t => t.1 != k) })),
    msgs := s.msgs.map (fun m => if m.dest = k then { m with dest := 2 ^ 40 } else m),
    cmds := (s.cmds.filter (fun c => !(c.core == keyCore k && c.h == keyCtx k && match c.kind with
      | .pgreq _ => true
      | _ => false))).map (fun c => if c.core = keyCore k ∧ c.h = keyCtx k then { c with tok := none } else c) }

/-- R390: some of the waits of `p.pmt` words on a context are over; a word that waits for no other context signals its token. -/
def State.endPmt (s : State) (k : Nat) (ended : Nat × Nat → Bool) : State :=
  let ws := (s.ctx k).pmtWait.filter ended
  let s := s.updCtx k (fun c => { c with pmtWait := c.pmtWait.filter (fun w => !ended w) })
  ws.foldl (fun s w =>
    if s.ctxs.any (fun e => e.2.pmtWait.any (fun x => x.1 == w.1)) then s
    else s.endTok (w.2 / 8 % 2 ^ 12) (w.2 % 8) false false false) s

/-- The context becomes free (R357). Its registers stay as the unit left them until the next dispatch (R19, R332). -/
def State.freeCtx (s : State) (k : Nat) : State :=
  let c := s.ctx k
  ((s.endPmt k (fun _ => true)).forget k).setCtx k { live := { c.live with flights := [], q := [] }, xpat := c.xpat, cpat := c.cpat }

/-- R30, R32: a handler run has ended: its context is dormant again, with its coin (R165); what holds the contexts of its core holds it too, so that the next
arrival does not run (R402, R412, R413). -/
def State.rest (s : State) (k : Nat) : State :=
  let c := s.ctx k
  let w := s.heldAtStart (keyCore k)
  ((s.endPmt k (fun _ => true)).forget k).setCtx k { role := .dormant, asg := c.asg, img := c.img, live := { coin := c.live.coin },
                                                     why := w, frozen := if w = 0 then none else some 15 }

/-! ### Episodes of a sync line (R33 to R36) -/

/-- R33, R34: every member has arrived in the open episode. -/
def Line.complete (l : Line) : Bool :=
  !l.members.isEmpty && !l.arr.isEmpty && l.members.all (fun k => l.arr.any (fun a => a.1 == k))

/-- R36: the straggler record after an episode: offsets from its first arrival, also that of a member that has left. -/
def Line.record (l : Line) : Line :=
  let first := l.first.getD 0
  l.arr.foldl (fun l a =>
    let off := min (a.2.2 - first) 65535
    { l with offs := put l.offs a.1 ((off :: look [] l.offs a.1).take 16), lastOff := put l.lastOff a.1 off,
             lag := put l.lag a.1 (if l.lagcyc ≤ off then min (look 0 l.lag a.1 + 1) 255 else 0) }) l

/-- R33, R34, R36: after an arrival or a departure in cycle `now`: an episode that is complete with it updates the record and resumes 96
cycles on. -/
def Line.check (l : Line) (now : Nat) : Line :=
  if l.resume.isNone && l.complete then { l.record with resume := some (now + 96) } else l

/-- R34: the next episode begins, with no member arrived. -/
def Line.restart (l : Line) : Line := { l with arr := [], resume := none, votes := false, tmo := 0, first := none }

/-- R33: a member leaves its line; R208: its offer ends; R25: entries of its inbound pipes are discarded, which sets `pres`, also when a trap, a die reset
or a forced power change ends the run: the model's choice, for R25 names a routine that executes `q.exit` (log 62). -/
def State.leave (s : State) (k : Nat) : State :=
  let s : State := { s with lines := s.lines.map (fun e : Nat × Line =>
      (e.1, if e.2.members.contains k then
        ({ e.2 with members := e.2.members.filter (· != k), arr := e.2.arr.filter (fun a => a.1 != k),
                    offs := drop1 e.2.offs k, lag := drop1 e.2.lag k, lastOff := drop1 e.2.lastOff k,
                    votes := e.2.votes || e.2.arr.any (fun a => a.1 == k && a.2.1) } : Line).check s.now
        else e.2)) }
  let s := s.updCore (keyCore k) (fun c => { c with offers := drop1 c.offers k })
  let mine := s.pipes.filter (fun p : Pipe => p.cons == k)
  let pres := mine.any (fun p : Pipe => !p.wait.isEmpty || !((s.ctx k).live.queue p.head).isEmpty)
  let s : State := { s with pipes := s.pipes.map (fun p : Pipe => if p.cons = k then { p with wait := [] } else p) }
  match (s.ctx k).work with
  | some w => if pres then (s.updUnit w.uid (fun u => { u with pres := true })).updLevel w.launch (fun l => { l with pres := true }) else s
  | none => s

/-- R205: the unit or handler run of a context ends. -/
def State.exitRun (s : State) (k : Nat) : State :=
  let s := s.updCore (keyCore k) (fun x => if x.primary = keyCtx k then { x with choosing := true } else x)
  if (s.ctx k).role == .handler then s.rest k
  else
    let s := s.leave k
    let s : State := match (s.ctx k).work with
      | some w => { s with agenda := .unitCompletion w.uid :: s.agenda }
      | none => s
    s.updCtx k (fun c => { c with
    exiting := true, frozen := none, drain := none, waitk := none, rest := [], later := none, snaps := [], trapHold := none, pend := none,
    live := { c.live with flights := [], q := c.live.q.filter (fun e => decide (e.1 < 4)) } })

/-- R205. -/
def performQExit (_ : TQ) (_ : W64) (_ : List (List Byte)) (s : State) : State := s.exitRun s.key

/-- R118: is the bundle in hand speculative: under a branch of an earlier bundle, whatever branch it holds itself? -/
def State.underBranch (s : State) : Bool := if s.iss.base.isSome then decide (1 < s.cur.snaps.length) else s.cur.speculative

/-- R118: append to the commit buffer before the youngest branch, which the bundle itself holds. -/
def addHeldBefore (h : Held) : List Snap → List Snap
  | [x, y] => [{ x with held := x.held ++ [h] }, y]
  | x :: xs => x :: addHeldBefore h xs
  | [] => []

/-- R205, R118: at once, or held until the branches of earlier bundles resolve; a branch of the same bundle does not hold it. -/
def execQExit (f : TQ) (s : State) : Out :=
  s.word (Instr.qExit f).wf f.g (fun s =>
    let h : Held := .word (.qExit f) 0 [] s.iss.sec s.iss.when_
    .next (if !s.underBranch then performQExit f 0 [] s
      else if s.iss.base.isSome then s.updCur (fun c => { c with snaps := addHeldBefore h c.snaps })
      else s.hold h))

/-- R391: a command that a freeze does not stop and that runs. -/
def Cmd.unstoppable (c : Cmd) : Bool := match c.kind with
  | .sort _ => c.st == .running
  | .array es => es.any (fun e => e.st == .running && match e.op with
      | .symw _ | .symr _ | .seed _ | .scl _ _ _ => true
      | _ => false)
  | _ => false

/-- R384, R391: what is left of a command of a run that is killed: one that does not stop goes on without its token; one that is to stop ends
at its next step; others are discarded. -/
def Cmd.afterKill (c : Cmd) : Option Cmd :=
  if c.unstoppable then some { c with tok := none }
  else match c.kind with
    | .product _ | .move _ => if c.st = .running then some { c with tok := none, doomed := true } else none
    | .array es =>
      let run := es.filter (fun e => e.st == .running)
      if run.isEmpty then none else some { c with tok := none, doomed := true, kind := .array run }
    | _ => none

/-- R391, R17, R182: a run ends as by an unhandled trap: `err` in its launch record (of the assigning unit, for a handler), its stopped and
queued commands discarded. -/
def State.killRun (s : State) (k : Nat) : State :=
  let s := match (s.ctx k).work with
    | some w => (s.updUnit w.uid (fun u => { u with err := true })).updLevel w.launch (fun l => { l with err := true })
    | none => s
  let cs := s.cmds.filterMap (fun c : Cmd => if c.core = keyCore k ∧ c.h = keyCtx k then c.afterKill else some c)
  ({ s with cmds := cs }).exitRun k

/-- R182: a fetch outside the code of its image ends a handler run as an unhandled trap. -/
def State.endsHandler (s : State) (k : Nat) (t : Trap) : Bool := (s.ctx k).role == .handler && t.ord == 0 && t.cause == causeProtection

/-- R380, R182: a trap of a context that is not speculative is delivered, or ends a handler run. -/
def State.conveyTrap (s : State) (k : Nat) (t : Trap) : State := if s.endsHandler k t then s.killRun k else s.deliverTrap k t

/-- R42: has a context's unit network sends that Causeway's egress has not acknowledged: of a firing it is to start, or of one that has started? -/
def State.sends (s : State) (k : Nat) : Bool :=
  s.slots.any (fun e => (e.2.trigs.contains k && e.2.state != 0) || e.2.sent.any (fun x => x.1 == k && decide (s.now < x.2)))

/-- R42: everything a routine that has exited must wait for. -/
def State.routineDone (s : State) (k : Nat) : Bool :=
  let c := s.ctx k
  let sub := ((List.range 8).map (ctxKey (keyCore k))).filter (fun x => (s.ctx x).asg == some k)
  c.exiting && c.put.isNone && c.rest.isEmpty && !s.sends k &&
    !s.msgs.any (fun m => m.dest == k && m.kind != .load && m.stage != .done) &&
    !s.cmds.any (fun x => x.core == keyCore k && x.h == keyCtx k && match x.kind with
      | .pgreq _ => false
      | _ => true) &&
    sub.all (fun x => (s.ctx x).role == .dormant) && (sub.isEmpty || (s.core (keyCore k)).arrivals.isEmpty)

/-- R25, R32, R42, R357: a routine is complete: its contexts become free, its outbound pipes have no producer and its inbound ones no consumer. -/
def State.endRoutine (s : State) (uid k : Nat) : State :=
  let core := keyCore k
  let w := (s.ctx k).work.getD {}
  let sub := ((List.range 8).map (ctxKey core)).filter (fun x => (s.ctx x).asg == some k)
  let s := ((w.resv.map (ctxKey core)) ++ sub).foldl State.freeCtx s
  let s : State := { s with pipes := s.pipes.map (fun p : Pipe => 
    if p.point != uid then p
    else if p.prod = k then { p with prodDone := true, doneAt := s.now }
    else if p.cons = k then { p with consDone := true, wait := [] } else p) }
  (s.freeCtx k).updUnit uid (fun u => { u with open_ := u.open_.filter (· != k) })

/-- R17, R42: a unit counts at its launch's record. -/
def State.countUnit (s : State) (u : Unit) : State :=
  let s := s.changeUnit u.uid (fun u => { u with st := .complete })
  let s := { s with units := drop1 s.units u.uid, pipes := s.pipes.filter (fun p => p.point != u.uid) }
  State.settle 4 u.launch (s.updLevel u.launch (fun l => { l with ndone := l.ndone + 1, err := l.err || u.err, pres := l.pres || u.pres }))

/-- R42, R24, R354: routines of a unit whose conditions hold are complete; when all are, the unit counts at its record's scheduler, or its
count sets out for another die's. -/
def execUnitCompletion (uid : Nat) (s : State) : Out :=
  match s.unit? uid with
  | some u =>
    if u.st != .running then .next s
    else
      let s := (u.open_.filter s.routineDone).foldl (fun s k => s.endRoutine uid k) s
      .next (match s.unit? uid with
        | some v =>
          if !v.open_.isEmpty then s
          else if handleDie v.launch = dieOf v.owner then s.countUnit v
          else s.updUnit uid (fun u => { u with st := .counting })
        | none => s)
  | none => .next s

/-- R354, R42, R360: a count arrives at the record's scheduler. -/
def execCompletionCountArrival (uid : Nat) (s : State) : Out :=
  match s.unit? uid with
  | some u => if u.st == .counting then .next (s.countUnit u) else .next s
  | none => .next s

/-! ### Cancel (R29, R204, R370) -/

/-- Levels below a level, and launches that depend on them (R29), as far as `n` steps go. -/
def State.below (s : State) : Nat → List Nat → List Nat
  | 0, hs => hs
  | n + 1, hs =>
    let more := (s.levels.filter (fun e => !hs.contains e.1 && !e.2.isDone &&
      (hs.contains e.2.parent || e.2.deps.any hs.contains))).map Prod.fst
    if more.isEmpty then hs else s.below n (hs ++ more)

/-- How many instances the chain of a job still has from a phase on (a job's `deps` list its chain). -/
def State.chainFrom (s : State) (job idx : Nat) : Nat :=
  match s.level? job with
  | some l => l.deps.length - (l.deps.idxOf idx)
  | none => 0

/-- R370: the tokens of a job, in queues and on their way, are removed and their instances, with the rest of their chains, are counted; the job may be
complete with that (R352). -/
def State.dropTokens (s : State) (job : Nat) : State :=
  let mine := fun (t : MbToken) => t.toNat / 2 ^ 48 == job % 2 ^ 16
  let rest := fun (t : MbToken) => (s.chainFrom job (t.toNat / 2 ^ 32 % 2 ^ 16))
  let gone := ((s.dies.flatMap (fun e => e.2.tokens)) ++ s.mbs.map (fun m => m.tok)).filter mine
  let s : State := { s with
    dies := s.dies.map (fun e : Nat × Die => (e.1, { e.2 with tokens := e.2.tokens.filter (fun t : MbToken => !mine t) })),
    mbs := s.mbs.filter (fun m : MbMove => !mine m.tok) }
  (s.updLevel job (fun l => { l with ncncl := l.ncncl + (gone.map rest).foldl (· + ·) 0 })).settleJob job

/-- R29, R370: cancel a level and everything below it; the cancel sets out for every die, and is at once at the scheduler that holds the record (log 90). -/
def State.cancel (s : State) (h : Nat) : State :=
  let hs := s.below (s.levels.length + 1) [h]
  let s := hs.foldl (fun s x => s.updLevel x (fun l => { l with cncl := true })) s
  let s : State := { s with
    agenda := (hs.filter (fun x => handleKind x == 1)).map (fun x => Instr.cancelArrival (handleDie x) x) ++ s.agenda }
  let s := { s with cancels := s.cancels ++ ((hs.filter (fun x => handleKind x == 1)).flatMap (fun x => (List.range 4).map (fun d => (d, x)))) }
  (hs.filter (fun x => handleKind x == 4)).foldl (fun s x => s.dropTokens x) s

/-- R204: the handle's level as a context may name it. -/
def State.nameable (s : State) (k h : Nat) : Option Level := match s.level? h with
  | some l => if s.partOf (keyCore k) = some l.part then some l else none
  | none => none

/-- R204. -/
def performQCancel (_ : TQ) (v : W64) (_ : List (List Byte)) (s : State) : State :=
  let h := v.toNat % 2 ^ 32
  match s.nameable s.key h with
  | none => s.status prioQ 2
  | some l =>
    if 3 ≤ handleKind h ∧ !s.isSuper s.key then s.status prioQ 3
    else if l.isDone then s.status prioQ 1
    else (s.cancel h).status prioQ 0

/-- R204. -/
def execQCancel (f : TQ) (s : State) : Out :=
  s.word (Instr.qCancel f).wf f.g (fun s => s.act (.qCancel f) (s.value f.sp) [] (performQCancel f))

/-- Take a unit that is still queued out of its launch (R29): it counts in `ncncl`. -/
def State.cancelUnit (s : State) (u : Unit) : State :=
  let s := u.keys.foldl State.freeCtx (s.changeUnit u.uid (fun u => { u with st := .cancelled }))
  let s := { s with units := drop1 s.units u.uid }
  State.settle 4 u.launch (s.updLevel u.launch (fun l => { l with ncncl := l.ncncl + 1 }))

/-- R370: a cancel arrives at a die: its units that are still queued there are removed. -/
def execCancelArrival (die handle : Nat) (s : State) : Out :=
  if 4 ≤ die then .fault .noSuchAgent
  else if !s.cancels.contains (die, handle) then .next s
  else
    let s := { s with cancels := s.cancels.filter (fun x => x != (die, handle)) }
    let us := (s.units.map Prod.snd).filter (fun u => u.launch == handle && dieOf u.owner == die && (u.st == .queued || u.st == .reserving ||
      u.st == .reserved))
    .next (us.foldl State.cancelUnit s)

/-- R354, R370: a unit reaches its owner's scheduler, in ascending index within its launch; one whose cancel has already been there is
removed. -/
def execUnitTransfer (uid : Nat) (s : State) : Out :=
  match s.unit? uid with
  | some u =>
    let earlier := s.units.any (fun e => e.2.launch == u.launch && e.2.st == .moving && dieOf e.2.owner == dieOf u.owner && decide (e.2.idx < u.idx))
    if u.st != .moving || earlier then .next s
    else
      let cncl := match s.level? u.launch with
        | some l => l.cncl
        | none => false
      if cncl && !s.cancels.contains (dieOf u.owner, u.launch) then .next (s.cancelUnit u)
      else .next (s.updUnit uid (fun x => { x with st := if (s.recOf u).sync.isSome then .reserving else .queued, when_ := s.now }))
  | none => .next s

/-! ### Stealing: who may take what (R38, R208, R363) -/

/-- R38: has a lag counter of a core reached twice its line's threshold? -/
def State.lagsFar (s : State) (core : Nat) : Bool :=
  (List.range 16).any (fun l => (s.line l).eps != 0 && ((s.line l).membersOn core).any (fun k => decide (2 * (s.line l).eps ≤ look 0 (s.line l).lag k)))

/-- R38, R208: the units of core `v` are stealable by core `c`. -/
def State.reaches (s : State) (v c : Nat) : Bool :=
  v != c && s.sameParts v c && ((v / 8 == c / 8 && (s.coreLagging v || (s.core v).offered != 0)) ||
    (dieOf v == dieOf c && (s.lagsFar v || (s.core v).offered == 2)))

/-- R38, R363: may a unit be stolen at all? -/
def State.stealable (s : State) (u : Unit) : Bool := match s.level? u.launch with
  | some l => !l.lrec.nosteal && l.lrec.sync.isNone && !((s.image l.img).tasksOf l.lrec).any (fun t => t.2.flags.testBit 1)
  | none => false

/-- R367: the unit a core claims, once the data of its image are there. -/
def State.claimPick (s : State) (core : Nat) : Option Unit :=
  let mates := (List.range 8).map (fun i => core / 8 * 8 + i)
  let die := (List.range 96).map (fun i => dieOf core * 128 + i)
  let victims := mates.filter (fun v => s.reaches v core) ++ (die.filter (fun v => v / 8 != core / 8 && s.reaches v core))
  victims.findSome? (fun v => (s.units.map Prod.snd).find? (fun u => u.st == .queued && u.owner == v && s.stealable u && (s.mayPlace u core).isSome))

/-- R142, R368: a unit that uses pairs may be claimed only by a core that is in a replica record of every group of its tasks. -/
def State.mayHold (s : State) (u : Unit) (core : Nat) : Bool := match s.level? u.launch with
  | some l => ((s.image l.img).tasksOf l.lrec).all (fun t => t.2.arrays.all (fun a =>
      t.2.replicas.any (fun r => r.1 == a.1 && r.2.2 == gsaOf core 0)))
  | none => false

/-- R367: the unit that a core is about to claim: it has a free context and no available unit of its own. -/
def State.claimNext (s : State) (core : Nat) : Option Unit :=
  if (s.freeCtxs core).isEmpty || !(s.availableTo core).isEmpty then none else (s.claimPick core).filter (fun u => s.mayHold u core)

/-! ### Image data (R356) -/

/-- R356, R358, R367: the core that dispatches a queued unit as soon as the data of its image are on `core`: its owner, or one that claims it. -/
def State.taker (s : State) (core : Nat) (u : Unit) : Option Nat :=
  let on := fun (d : Nat) => (s.mayPlace u d).any (fun ps => (coresIn ps).contains core)
  if on u.owner && ((s.nextUnit u.owner).map (fun x => x.1)) == some u then some u.owner
  else if !s.stealable u then none
  else ((List.range 8).map (fun i => core / 8 * 8 + i)).find? (fun c => s.reaches u.owner c && on c && s.claimNext c == some u)

/-- R356, R363: the core that dispatches a unit for which the data of its image are to be written to `core`; a sync-bound unit has contexts there. While they
are written for one core that dispatches it, they are for no other. -/
def State.loadsFor (s : State) (core : Nat) (u : Unit) : Option Nat :=
  match s.level? u.launch with
  | some l =>
    if (s.core core).image == some l.img || !s.imageFree core l.img || !(s.core core).takes.isNone then none
    else match u.st with
      | .queued => (s.taker core u).filter (fun d => (s.boundTo u).all (· == d))
      | .reserving => if (u.keys.map keyCore).contains core then some u.owner else none
      | _ => none
  | none => none

/-- R356: is a unit dispatched with `core` among its cores as soon as the data of its image are there? -/
def State.wants (s : State) (core : Nat) (u : Unit) : Bool := (s.loadsFor core u).isSome

/-- R356: do the data written to `core` for a unit that `d` dispatches still serve it: the unit is queued and, when `d` is not its owner, stealable by `d`
(R38), or a reservation, and would have contexts of that core? -/
def State.takeStands (s : State) (core uid d : Nat) : Bool := (s.unit? uid).any (fun u =>
  (u.st == .reserving && (u.keys.map keyCore).contains core) ||
    (u.st == .queued && (d == u.owner || (s.stealable u && s.reaches u.owner d)) && (s.mayPlace u d).any (fun ps => (coresIn ps).contains core)))

/-- R356, R29: data being written that no longer serve their unit leave no trace (log 89). -/
def State.dropTakes (s : State) : State :=
  s.cores.foldl (fun s e => match e.2.takes with
    | some (uid, d, _) => if s.takeStands e.1 uid d then s else s.updCore e.1 Core.untake
    | none => s) s

/-- R137, R346, R356: write an image's data and zero its bss in the scratchpad of a core, at the addresses the sections name: also at ones that `ebz-ld`
would not link, which is the model's choice, for R137 gives a loader no check of them (log 94). -/
def State.writeImageData (s : State) (core img : Nat) : State :=
  let im := s.image img
  let m := im.bss.foldl (fun (m : Memory) x => m.clear (gsaOf core x.1) x.2) s.mem
  { s with mem := im.data.foldl (fun (m : Memory) x => m.writeN (gsaOf core x.1) x.2) m }

/-- R137: the bytes of an image's data and bss. -/
def Image.bytes (im : Image) : Nat := (im.data.map (fun x => x.2.length)).foldl (· + ·) 0 + (im.bss.map (fun x => x.2)).foldl (· + ·) 0

/-- R14, R356: the figure of the copy of an image's data, whose source is HBM of the core's die; an image without data needs no copy. -/
def loadTime (im : Image) : Nat := if im.bytes = 0 then 0 else memFigure 0 none + (im.bytes - 1) / 256

/-- R356: the copy of an image's data to a core, by a copy engine of its partition, starts when a unit wants it, and completes when its time has passed,
or when the stack that holds the data leaves self-refresh (R394); which stack that is, is free (log 100). -/
def execImageDataLoad (core : Nat) (s : State) : Out :=
  if !coreExists core then .fault .noSuchAgent
  else match (s.core core).loading with
    | some (img, t) =>
      if s.now + 1 < t ∨ ((s.image img).bytes ≠ 0 ∧ look false s.selfRef (4 * dieOf core + Config.imageStack img (dieOf core) % 4) = true) then .next s
      else .next ((s.writeImageData core img).updCore core (fun c => { c with
        image := some img, loading := none,
        takes := c.takes.filter (fun x => (s.unit? x.1).any (fun u => u.st == .queued)) }))
    | none => match (s.units.map Prod.snd).find? (s.wants core) with
      | some u => .next (s.updCore core (fun c => { c with
          loading := (s.level? u.launch).map (fun l => (l.img, s.now + loadTime (s.image l.img))), image := none,
          takes := (s.loadsFor core u).map (fun d => (u.uid, d, c.image)) }))
      | none => .next s

end Sys2Proof.Machine
end

