-- ==== Sys2Proof/Machine/Work.lean ====
section
/-! DEFINITION. Dormant contexts, completion records read, the choice of primary, sync lines, sync-bound launches, stealing (R20, R30,
R33 to R41, R206, R207, R363, R367 to R369). -/

namespace Sys2Proof.Machine

/-! ### Words (R206, R207) -/

/-- R165: a coin advanced `n` times. -/
def coinAfter : Nat → W64 → W64
  | 0, c => c
  | n + 1, c => coinAfter n (coinStep c)

/-- R207: the lowest reserved contexts become dormant, with coins of their own. -/
def performQHset (f : TQ) (coin : W64) (_ : List (List Byte)) (s : State) : State :=
  let n := f.sub.toNat
  let w := s.cur.work.getD {}
  if w.resv.length + w.hset.getD 0 < n then s.status prioQ (BitVec.ofNat 64 (2 ^ 32))
  else if w.hset.isSome then s.status prioQ (BitVec.ofNat 64 (2 * 2 ^ 32))
  else
    let hs := w.resv.take n
    let key := s.key
    let img := s.cur.img
    let s := (List.range n).foldl (fun s i => s.setCtx (ctxKey s.iss.core (nth0 hs i))
      { role := .dormant, asg := some key, img := img, live := { coin := coinAfter (i + 1) coin } }) s
    (s.updCur (fun c => { c with work := c.work.map (fun w => { w with hset := some n, resv := w.resv.drop n }) })).status prioQ
      (BitVec.ofNat 64 (maskOf hs))

/-- R207. -/
def execQHset (f : TQ) (s : State) : Out :=
  s.word (Instr.qHset f).wf f.g (fun s => s.act (.qHset f) s.cur.live.coin [] (performQHset f))

/-- R206: what `q.srec` reads. -/
def State.recordRead (s : State) (f : TQ) : W64 :=
  if f.sub = 2 then
    let c := s.core s.iss.core
    BitVec.ofNat 64 (c.claims % 2 ^ 32 * 2 ^ 32 + c.claim)
  else match s.nameable s.key ((s.value f.sp).toNat % 2 ^ 32) with
    | some l => l.record (f.sub == 1)
    | none => BitVec.allOnes 64

/-- R206: what was read at issue is written. -/
def performQSrec (_ : TQ) (v : W64) (_ : List (List Byte)) (s : State) : State := s.status prioQ v

/-- R206. -/
def execQSrec (f : TQ) (s : State) : Out :=
  s.word (Instr.qSrec f).wf f.g (fun s => s.act (.qSrec f) (s.recordRead f) [] (performQSrec f))

/-! ### The primary (R20) -/

/-- R20: the primary changes: the latches are zeroed, unless the context keeps its own after a freeze (R383). -/
def State.makePrimary (s : State) (core h : Nat) : State :=
  let old := (s.core core).primary
  let s := s.updCore core (fun x => { x with primary := h, choosing := false })
  s.updCtx (ctxKey core h) (fun c =>
    let c := if h = old || c.keepLatch then c else c.mapArch (fun a => { a with b := [] })
    { c with keepLatch := false })

/-- R20: a core without a primary takes the first ready context in order. -/
def execNextPrimaryChoice (core : Nat) (s : State) : Out :=
  if !coreExists core then .fault .noSuchAgent
  else if (s.core core).choosing || !(s.ctx (ctxKey core (s.core core).primary)).runs then
    match s.chooseNext core (s.core core).primary with
    | some h => .next (s.makePrimary core h)
    | none => .next s
  else .next s

/-! ### Sync lines (R33 to R37) -/

/-- R34: a member arrives at its line with its vote. -/
def State.arrive (s : State) (k : Nat) (b : Bundle) : State :=
  match b.hdr with
  | some f =>
    let l := f.line.toNat
    s.updLine l (fun x => ({ x with
      arr := x.arr ++ [(k, f.v, s.now)], first := some (x.first.getD s.now),
      tmo := if x.first.isSome then x.tmo else if x.synto = 0 then 0 else x.synto.toNat * 1024 + 2 } : Line).check s.now)
  | none => s

/-- R34 to R36: 96 cycles after the last arrival every member's sync bundle may issue and `p7` receives the votes. -/
def execSyncEpisodeResume (line : Nat) (s : State) : Out :=
  if 16 ≤ line then .fault .noSuchAgent
  else
    let l := s.line line
    match l.resume with
    | some t =>
      if s.now < t then .next s
      else
        let v := l.votes || l.arr.any (fun a => a.2.1)
        let s := l.members.foldl (fun s k => s.updCtx k (fun c => { c.mapArch (fun a => a.writeP 7 v) with pendSync := some line })) s
        .next (s.updLine line Line.restart)
    | none => .next s

/-- R35: an episode open for longer than its timeout is abandoned: arrived members that run trap at their sync bundles, frozen ones hold
the trap pending. -/
def execSyncTimeout (line : Nat) (s : State) : Out :=
  if 16 ≤ line then .fault .noSuchAgent
  else
    let l := s.line line
    if l.tmo ≠ 1 ∨ l.first.isNone ∨ l.resume.isSome then .next s
    else
      let t : Trap := { ord := 6, widx := 0, cause := causeSync, tval := BitVec.ofNat 64 line }
      let s := l.arr.foldl (fun s a =>
        if (s.ctx a.1).frozen.isSome then s.updCtx a.1 (fun c => { c with syncTo := some line }) else (s.atBundle a.1).deliverTrap a.1 t) s
      .next (s.updLine line Line.restart)

/-! ### Sync-bound launches (R33, R363) -/

/-- R363: may contexts of a core be reserved for a unit of an image: none there is reserved for a sync-bound unit of another image, and no data are written
there for another unit (log 91)? -/
def State.reserves (s : State) (img : Nat) (u : Unit) (core : Nat) : Bool :=
  (s.core core).takes.all (fun t => t.1 == u.uid) && !s.units.any (fun e =>
    (e.2.st == .reserving || e.2.st == .reserved) && (e.2.keys.map keyCore).contains core && (s.level? e.2.launch).any (fun l => l.img != img))

/-- R362, R363: the first core of the owner's cluster, not among `no`, with `n` contexts free to reserve, and the lowest of them. -/
def State.roomFor (s : State) (img : Nat) (u : Unit) (n : Nat) (no : List Nat) : Option (List Nat) :=
  (((List.range 8).map (fun i => u.owner / 8 * 8 + i)).find? (fun c =>
    !no.contains c && s.reserves img u c && decide (n ≤ (s.freeCtxs c).length))).map (fun c => (s.freeCtxs c).take n)

/-- R362, R363: the contexts that a unit holds in reserve after this cycle, and whether they are all it needs. Those on the owner are taken as they become
free; a loader and a storer on cores of their own get theirs each at once. `plc` 0 is complete with the first of its two placements that there is, and gives
back what that does not need (log 91). -/
def State.reserved (s : State) (l : Level) (u : Unit) : List Nat × Bool :=
  let counts := ((s.image l.img).tasksOf l.lrec).map (fun t => t.2.ctx)
  let need := counts.foldl (· + ·) 0
  let own := u.keys.filter (fun k => keyCore k == u.owner)
  let oth := u.keys.filter (fun k => keyCore k != u.owner)
  let upTo := fun (n : Nat) => sortBy (fun x y => decide (x < y))
    (own ++ if s.reserves l.img u u.owner then (s.freeCtxs u.owner).take (n - own.length) else [])
  let ldr := nth0 counts 0
  let cmp := nth0 counts 1
  let str := nth0 counts 2
  let second := fun (a : List Nat) => s.roomFor l.img u str (u.owner :: a.map keyCore)
  match s.plcOf l with
  | 1 => (upTo need, decide (need ≤ (upTo need).length))
  | 2 =>
    let a := if oth.isEmpty then (s.roomFor l.img u ldr [u.owner]).getD [] else oth.take ldr
    let b := if oth.length ≤ ldr then (if a.isEmpty then [] else (second a).getD []) else oth.drop ldr
    (a ++ upTo cmp ++ b, decide (cmp ≤ (upTo cmp).length) && decide (a.length = ldr) && decide (b.length = str))
  | _ =>
    let one := upTo need
    if need ≤ one.length then (one, true)
    else match s.roomFor l.img u ldr [u.owner] with
      | some a => (match second a with
        | some b => if cmp ≤ one.length then (a ++ one.take cmp ++ b, true) else (one, false)
        | none => (one, false))
      | none => (one, false)

/-- R363, R356: a core reserves contexts for its unit as they become free; the reservation is complete when it has all and the cores hold the image's
data. -/
def State.reserveUnit (s : State) (u : Unit) : State :=
  match s.level? u.launch with
  | none => s
  | some l =>
    if !s.mayLaunch l u.owner then s
    else
      let (keys, whole) := if u.whole then (u.keys, true) else s.reserved l u
      let s := (u.keys.filter (fun k => !keys.contains k)).foldl State.freeCtx s
      let s := (keys.filter (fun k => !u.keys.contains k)).foldl (fun s k => s.setCtx k { role := .reserved, img := l.img }) s
      let all := whole && (keys.map keyCore).all (fun c => s.imageReady c l.img)
      s.updUnit u.uid (fun u => { u with st := if all then .reserved else .reserving, keys := keys, whole := whole })

/-- R33, R363: dispatch every member, and bind the line. -/
def State.dispatchSync (s : State) (l : Level) (line : Nat) (us : List Unit) : State :=
  let ts := (s.image l.img).tasksOf l.lrec
  let s := us.foldl (fun s u => s.dispatch u u.owner false (shareOut ts u.keys)) s
  let members := us.filterMap (fun u => (s.unit? u.uid).map (fun v => nth0 v.keys (if l.lrec.gang then 1 else 0)))
  s.updLine line (fun y => { launch := some l.handle, members := members, synto := y.synto, lagcyc := l.lrec.lagcyc, eps := l.lrec.eps })

/-- R363: reservations are made as contexts become free; when all are made, a cycle at least 256 on is named; in it every member is
dispatched. A cancelled launch is not dispatched (R29). -/
def execSyncLaunchDispatch (handle : Nat) (s : State) : Out :=
  match s.level? handle with
  | some l => (match l.lrec.sync with
    | some line =>
      let us := (s.units.map Prod.snd).filter (fun u => u.launch == handle)
      if us.isEmpty || l.cncl then .next s
      else
        let s := (us.filter (fun u => u.st == .reserving)).foldl State.reserveUnit s
        let us := (s.units.map Prod.snd).filter (fun u => u.launch == handle)
        if !us.all (fun u => u.st == .reserved) then .next s
        else match l.syncAt with
          | none =>
            let (j, s) := s.freeNat
            .next (s.updLevel handle (fun l => { l with syncAt := some (s.now + 256 + j) }))
          | some t => if t ≤ s.now then .next (s.dispatchSync l line us) else .next s
    | none => .next s)
  | none => .next s

/-! ### Stealing (R38 to R41, R367 to R369) -/

/-- R40, R206: note the code of a claim. -/
def State.noteClaim (s : State) (core code : Nat) : State := s.updCore core (fun c => { c with claim := code, claims := c.claims + 1 })

/-- R208, R368: at the end of a cycle, the code of each core whose claim lost to another's in it: 3 when the unit has stopped being stealable, by a withdrawn
offer or an end of lagging, else 1. -/
def State.loseClaims (s : State) : State :=
  s.cores.foldl (fun s e => match e.2.claiming with
    | some v => (s.noteClaim e.1 (if s.reaches v e.1 then 1 else 3)).updCore e.1 (fun c => { c with claiming := none })
    | none => s) s

/-- R367, R368, R371: a core with a free context and no available unit of its own, as the cycle began, claims one; the code is noted, of a claim that lost to
another claim at the end of the cycle. A unit whose contexts another decision has taken since is not dispatched. -/
def execStealClaim (core : Nat) (s : State) : Out :=
  if !coreExists core then .fault .noSuchAgent
  else
    let b := s.atStart
    if (b.freeCtxs core).isEmpty || !(b.availableTo core).isEmpty then .next s
    else match b.claimPick core with
      | none => .next s
      | some u =>
        if !b.mayHold u core then .next (s.noteClaim core 2)
        else if (b.placement u core).isNone then .next s
        else match s.unit? u.uid with
          | none => .next s
          | some v =>
            if v.st == .running then
              if v.claimed then .next (s.updCore core (fun c => { c with claiming := some u.owner })) else .next (s.noteClaim core 3)
            else match s.placement v core with
              | some ps => .next ((s.dispatch v core true ps).noteClaim core 0)
              | none => .next s

end Sys2Proof.Machine
end

