-- ==== Sys2Proof/Machine/Release.lean ====
section
/-! DEFINITION. A T, A or Q word that was held acts when it is released (R118). -/

namespace Sys2Proof.Machine

/-- R118: a held word acts with what it sampled; a word whose change of context state was made on schedule does nothing more. -/
def State.performWord (s : State) (i : Instr) (v : W64) (rs : List (List Byte)) (iss : Iss) : State :=
  let s := { s with iss := iss }
  match i with
  | .tMm f => performTMm f v rs s
  | .tMmg f => performTMmg f v rs s
  | .tLdb f => performTLdb f v rs s
  | .tZclr f => performTZclr f v rs s
  | .tZld f => performTZld f v rs s
  | .tZst f => performTZst f v rs s
  | .tZadd f => performTZadd f v rs s
  | .tCop f => performTCop f v rs s
  | .aFwd f => performAFwd f v rs s
  | .aBwd f => performABwd f v rs s
  | .aUpd f => performAUpd f v rs s
  | .aXfer f => performAXfer f v rs s
  | .aSymw f => performASymw f v rs s
  | .aSymr f => performASymr f v rs s
  | .aProg f => performAProg f v rs s
  | .aCkpt f => performACkpt f v rs s
  | .aGfwd f => performAGfwd f v rs s
  | .aGbwd f => performAGbwd f v rs s
  | .aGupd f => performAGupd f v rs s
  | .aSeed f => performASeed f v rs s
  | .aScl f => performAScl f v rs s
  | .aStat f => performAStat f v rs s
  | .qCopy f => performQCopy f v rs s
  | .qSortc f => performQSortc f v rs s
  | .qTokst f => performQTokst f v rs s
  | .qKclr f => performQKclr f v rs s
  | .qWaitk f => performQWaitk f v rs s
  | .qDrain f => performQDrain f v rs s
  | .qFence f => performQFence f v rs s
  | .qPut f => performQPut f v rs s
  | .qPgreq f => performQPgreq f v rs s
  | .qOffer f => performQOffer f v rs s
  | .qLaunch f => performQLaunch f v rs s
  | .qGlaunch f => performQGlaunch f v rs s
  | .qExit f => performQExit f v rs s
  | .qCancel f => performQCancel f v rs s
  | .qHset f => performQHset f v rs s
  | .qSrec f => performQSrec f v rs s
  | .qCarm f => performQCarm f v rs s
  | .qCtrig f => performQCtrig f v rs s
  | .qCstat f => performQCstat f v rs s
  | _ => s

end Sys2Proof.Machine
end

