-- ==== Sys2Proof/Machine/Freeze.lean ====
section
/-! DEFINITION. Branch resolution, freezing, resuming, quiescence, events taken and ended (R116, R118, R377 to R391). -/

namespace Sys2Proof.Machine

/-! ### Resuming (R384, R386, R391) -/

/-- Does a log matrix command run, or an array command none of whose entries is still to start? -/
def Cmd.inProgress (c : Cmd) : Bool := match c.kind with
  | .array es => es.any (fun e => e.st == .running) && !es.any (fun e => e.st == .queued)
  | _ => c.st == .running

/-- R266, R384: commands of a context that are not running enter their queues again, in their order, behind what is there; an entry that runs, runs on. -/
def State.reenter (s : State) (k : Nat) : State :=
  let mine := fun (c : Cmd) => c.owned && c.core == keyCore k && c.h == keyCtx k && !c.inProgress && (c.isT || c.isA)
  { s with cmds := s.cmds.filter (fun c => !mine c) ++ (s.cmds.filter mine).map (fun c => { c with born := s.now }) }

/-- R386: a frozen context goes on; its context time moves again from the next cycle. -/
def State.wakeCtx (s : State) (k : Nat) : State := ((s.resume k).updCtx k (fun c => { c with thaw := true, pend := none })).reenter k

/-- R390, R413: a reason to hold a context is gone; with the last one it resumes. -/
def State.releaseFor (s : State) (k reason : Nat) : State :=
  let s := s.updCtx k (fun c => { c with why := c.why &&& ~~~(BitVec.ofNat 4 (2 ^ reason)) })
  let c := s.ctx k
  if c.why ≠ 0 then s
  else if c.frozen = some 15 then s.wakeCtx k
  else s.updCtx k (fun c => { c with freezeReq := none })

/-- R391: the trapped context resumes at an address; it stays frozen with cause 15 while something else holds it. -/
def State.resumeTrapped (s : State) (k : Nat) (pc : BitVec 32) : State :=
  let s := s.updCtx k (fun c => { c with noBrk := true, live := { c.live with pc := pc } })
  if (s.ctx k).why = 0 then s.wakeCtx k else s.updCtx k (fun c => { c with frozen := some 15, pend := none })

/-! ### Branch resolution (R116, R118) -/

/-- R118: a held word is released and acts. -/
def State.release (s : State) (k : Nat) (h : Held) : State :=
  match h with
  | .store a n v => s.performStore a n v (s.ctx k).released
  | .access m =>
    if m.stage = .done then { s with msgs := s.msgs ++ [{ m with due := max m.due (s.now + 1) }] } else s.send m
  | .stream id => s.updCmd id (fun c => { c with held := false })
  | .word i v rs sec at_ =>
    let n := (s.ctx k).live.flights.length
    let s := s.performWord i v rs { core := keyCore k, h := keyCtx k, sec := sec, when_ := at_, pc := (s.ctx k).live.pc }
    let new := (s.ctx k).live.flights.drop n
    s.updCtx k (fun c => { c with snaps := c.snaps.map (fun x => { x with arch := { x.arch with flights := x.arch.flights ++ new } }) })
  | .note => s
  | .yield =>
    let s := s.updCtx k (fun c => { c with lastY := c.ctime })
    s.updCore (keyCore k) (fun x => if x.primary = keyCtx k then { x with choosing := true } else x)

/-- R25, R118, R187, R189: does a released word wait for one before it: any word for a drain, a fence or a token wait, a Q word for an entry or an event
that holds the Q slot; or a page request for a stack in self-refresh (R394)? -/
def State.mustWait (s : State) (k : Nat) (h : Held) : Bool :=
  let c := s.ctx k
  c.drain.isSome || c.waitk.isSome || match h with
    | .word i v _ _ _ => ((c.put.isSome || c.pgq.isSome) && i.cls == 8) || s.walkWaits k i v.toNat
    | _ => false

/-- R118: released words act in program order; the first that must wait keeps itself and those after it waiting, but for a set `y`, which has its effect
as soon as its bundle is not speculative. -/
def State.releaseAll (k : Nat) : List Held → State → State
  | [], s => s
  | h :: hs, s =>
    if h != .yield && s.mustWait k h then
      ((hs.filter (· == .yield)).foldl (fun s h => s.release k h) s).updCtx k (fun c => { c with rest := h :: hs.filter (· != .yield) })
    else State.releaseAll k hs (s.release k h)

/-- R118: what a released word waited for has come: the words that wait act, in order. -/
def State.goOn (s : State) (k : Nat) : State := State.releaseAll k (s.ctx k).rest (s.updCtx k (fun c => { c with rest := [] }))

/-- R394: held page requests whose walks no longer wait act, with what waits behind them. -/
def State.goOnWalks (s : State) : State :=
  (s.ctxs.filter (fun e => match e.2.rest with
    | .word (.qPgreq f) v rs sec t :: _ => !s.mustWait e.1 (.word (.qPgreq f) v rs sec t)
    | _ => false)).foldl (fun s e => s.goOn e.1) s

/-- R118: what a squash discards: the streaming commands among the held words, and everything else with them. -/
def State.discard (s : State) (hs : List Held) : State :=
  hs.foldl (fun s h => match h with
    | .stream id => s.dropCmd id
    | _ => s) s

/-- R386: a context that stood still for a freeze that does not come makes up for the cycles. -/
def State.caughtUp (s : State) (k : Nat) : State :=
  let c := s.ctx k
  if c.heldFor = 0 || c.holding s.now then s
  else (s.makeUp k c.heldFor).updCtx k (fun c => { c with live := (List.range c.heldFor).foldl (fun a _ => a.tick) c.live, ctime := c.ctime + c.heldFor, heldFor := 0 })

/-- R34, R118: the sync bundle of a primary that waited for its branches arrives in the cycle in which the last of them resolves. -/
def State.arriveResolved (s : State) (k : Nat) : State :=
  let x := s.core (keyCore k)
  if x.choosing || x.primary != keyCtx k || (s.ctx k).issued == s.now + 1 then s
  else match s.plan k noOffset with
    | .sync b false => s.arrive k b
    | _ => s

/-- R116, R118: the oldest branch of a context resolves: its held words are released in order, or its shadow is squashed and the context
continues on the correct arm. A trap held for the branches is delivered with the last of them. -/
def execBranchResolution (k : Nat) (s : State) : Out :=
  match (s.ctx k).snaps with
  | x :: rest =>
    if 0 < x.rem then .next s
    else if x.mis then
      let s := (s.discard (s.ctx k).held).makeUp k (s.ctx k).heldFor
      .next (s.updCtx k (fun c => { c with
        live := x.arch, snaps := [], trapHold := none, pendSync := none, ctime := c.ctime + c.heldFor, heldFor := 0,
        freezeReq := c.freezeReq.map (fun y => (max y.1 (s.now + 1), y.2)) }))
    else
      let old := (s.ctx k).rest
      let s := State.releaseAll k (old ++ x.held) (s.updCtx k (fun c => { c with snaps := rest, rest := [] }))
      .next (if !rest.isEmpty then s else match (s.ctx k).trapHold with
        | some t => (s.updCtx k (fun c => { c with trapHold := none })).conveyTrap k t
        | none => (s.caughtUp k).arriveResolved k)
  | [] => .next s

/-! ### Freezing (R380, R382, R383) -/

/-- R383, R385: a context freezes at its first unissued bundle once its branches have resolved: for a freeze that was asked for, or for a
trap to be taken before that bundle. -/
def execContextFreeze (k cause : Nat) (s : State) : Out :=
  let c := s.ctx k
  if c.frozen.isSome || !c.snaps.isEmpty || c.role == .free then .next s
  else match c.later with
    | some t => if t.cause = cause then .next (((s.updCtx k (fun c => { c with later := none })).atBundle k).deliverTrap k t) else .next s
    | none => match c.freezeReq with
      | some (due, x) => if due ≤ s.now ∧ x = cause then .next (((s.updCtx k (fun c => { c with freezeReq := none })).atBundle k).freeze k cause) else .next s
      | none => .next s

/-- R382: a context whose time without a yield has reached its limit takes the watchdog trap before its next bundle. -/
def execWatchdogExpiry (k : Nat) (s : State) : Out :=
  let c := s.ctx k
  if c.watchdogDue && c.runs && c.snaps.isEmpty then .next ((s.atBundle k).deliverTrap k { ord := 6, widx := 255, cause := causeWatchdog, tval := 0 }) else .next s

/-- R386: results of a resumed context that are due are written. -/
def execReplayInjection (k : Nat) (s : State) : Out :=
  let c := s.ctx k
  if c.frozen.isSome || c.thaw then .next s
  else
    let now := fun (a : Arch) =>
      (sortBy (fun x y => decide (x.prio < y.prio)) (a.flights.filter (fun f => f.rem ≤ 1))).foldl Arch.deliver
        { a with flights := a.flights.filter (fun f => 1 < f.rem) }
    .next (s.updCtx k (fun c => c.mapArch now))

/-! ### Quiescence (R385) -/

/-- R384: does a command still run that quiescence waits for? -/
def Cmd.unquiet (c : Cmd) : Bool := match c.kind with
  | .product _ | .move _ | .sort _ => c.st == .running
  | .array es => es.any (fun e => e.st == .running)
  | _ => false

/-- R385: is a context frozen, and are its commands stopped or complete? -/
def State.quiescent (s : State) (k : Nat) : Bool :=
  (s.ctx k).frozen.isSome && !s.cmds.any (fun c => c.owned && c.core == keyCore k && c.h == keyCtx k && c.unquiet)

/-- R385, R390: a context becomes quiescent, or runs again: a `p.pmt` that waited for it last signals its token. -/
def execContextQuiescence (k : Nat) (s : State) : Out :=
  .next (s.endPmt k (fun w => if 2 ^ 15 ≤ w.2 then (s.ctx k).frozen.isNone else s.quiescent k))

/-! ### Events taken (R377, R380, R349) -/

/-- R377: the supervisor that takes an event of Causeway: the lowest of the partition on the lowest die where it owns a cluster. -/
def State.superForCauseway (s : State) (p : Nat) : Option Nat :=
  ((List.range 4).find? (fun d => (s.part p).clusters / 2 ^ (12 * d) % 2 ^ 12 != 0)).bind (fun d => s.superOnDie p d)

/-- R349, R377: is an event in a die's queue for context `k`? -/
def State.eventFor (s : State) (d k : Nat) (e : PendEv) : Bool :=
  if e.cls = 0 then (s.supersOf e.core).head? == some k else s.superOnDie e.part d == some k

/-- R380: where the events that wait for a context are: a die's queue (0 to 3), Causeway's (4), or the trapped context (8 and up). -/
def State.waitingFor (s : State) (k : Nat) : List (Nat × PendEv) :=
  ((List.range 4).flatMap (fun d => ((s.die d).evq.filter (s.eventFor d k)).map (fun e => (d, e)))) ++
  (s.cwEvq.filter (fun e => s.superForCauseway e.part == some k)).map (fun e => (4, e)) ++
  s.ctxs.filterMap (fun x => match x.2.pend with
    | some e => if s.handlerOf (keyCore x.1) = some k then some (8 + x.1, e) else none
    | none => none)

/-- R380: older first; in one cycle link events, engine events, context traps by position. -/
def PendEv.before (x y : Nat × PendEv) : Bool :=
  decide (x.2.time < y.2.time) || (x.2.time == y.2.time && (decide (x.2.cls < y.2.cls) || (x.2.cls == y.2.cls && x.2.cls == 2 && decide (x.1 < y.1))))

/-- Remove the first entry equal to `e`. -/
def dropFirst (e : PendEv) : List PendEv → List PendEv
  | [] => []
  | x :: xs => if x = e then xs else x :: dropFirst e xs

/-- R380: take the event a context would take, if there is one. -/
def State.takeEvent (s : State) (k : Nat) : Option State :=
  match (sortBy PendEv.before (s.waitingFor k)).head? with
  | none => none
  | some (w, e) =>
    let s := if w < 4 then s.updDie w (fun d => { d with evq := dropFirst e d.evq })
      else if w = 4 then { s with cwEvq := dropFirst e s.cwEvq }
      else s.updCtx (w - 8) (fun c => { c with pend := none })
    some (s.loadFrame k e)

/-- R380: a supervisor that waits at `p.halt` and holds no frame takes the oldest event. -/
def execEventTake (k : Nat) (s : State) : Out :=
  let c := s.ctx k
  if c.role == .supervisor && c.halted && c.frame.isNone && c.frozen.isNone then
    .next (match s.takeEvent k with
      | some t => t
      | none => s)
  else .next s

/-! ### The end of a frame (R391) -/

/-- R391: what `p.eret` does once the supervisor's writes have drained. -/
def State.endFrame (s : State) (k md : Nat) : State :=
  match (s.ctx k).frame with
  | none => s
  | some e =>
    let t := ctxKey e.core e.h
    let pc := (s.ctx k).tpc
    let s := s.updCtx k (fun c => { c with frame := none })
    if e.src = 0 then
      if (s.ctx t).frozen ≠ some e.cause then s
      else if md / 2 % 2 = 1 then s.killRun t
      else s.resumeTrapped t pc
    else if e.src = 2 then match e.cmd with
      | some id => (s.updCmd id (fun c => { c with err := md % 2 == 1 })).complete id
      | none => s
    else s

/-! ### Waits that end (R25, R118, R187, R197) -/

/-- R187: a wait completes: `b5` receives the tokens found signalled, and with `.chk` an `err` among them raises the token-error trap
before the next bundle. What waits for it goes on (R118). -/
def execTokenWaitCompletion (k : Nat) (s : State) : Out :=
  let c := s.ctx k
  match c.waitk with
  | some w =>
    if !c.waitOver w then .next s
    else
      let sig := c.signalledOf w
      let bad := sig.filter (fun i => (c.token i).err)
      let fl : Flight := { rem := 1, dst := .none, latch := if w.sec then none else some 5, val := BitVec.ofNat 64 (maskOf sig), prio := prioQ }
      let c := { c.mapArch (fun a => { a with flights := a.flights ++ [fl] }) with waitk := none }
      .next ((s.setCtx k (if w.chk && !bad.isEmpty then
        { c with laterAt := s.now + 1, later := some { ord := 6, widx := 255, cause := causeToken, tval := BitVec.ofNat 64 (maskOf bad) } } else c)).goOn k)
  | none => .next s

/-- R25: an entry was popped, or the consumer has gone: the held entry of a producer is placed or dropped. A secondary bundle
writes no latch (R23). -/
def execPipeSpaceFreed (k : Nat) (s : State) : Out :=
  match (s.ctx k).put with
  | some w => (match s.tryPut k w.pipe w.val w.at_ with
    | some (st, s) =>
      let fl : Flight := { rem := 2, dst := .none, latch := if w.sec then none else some 5, val := BitVec.ofNat 64 st, prio := prioQ }
      .next ((s.updCtx k (fun c => { c.mapArch (fun a => { a with flights := a.flights ++ [fl] }) with put := none })).goOn k)
    | none => .next s)
  | none => .next s

/-- R377: an event was posted: a page request that held its Q slot for it goes on. -/
def State.posted (s : State) (e : PendEv) : State :=
  match e.cmd with
  | some id =>
    let k := match s.cmd? id with
      | some x => ctxKey x.core x.h
      | none => ctxKey e.core e.h
    if ((s.ctx k).pgq.map Prod.snd) == some id then (s.updCtx k (fun c => { c with pgq := none })).goOn k else s
  | none => s

/-- R377: the oldest waiting event of a die (of Causeway, 4) enters its event queue when there is room. -/
def execEngineEventPost (die : Nat) (s : State) : Out :=
  if 5 ≤ die then .fault .noSuchAgent
  else if die = 4 then
    match s.cwEvwait with
    | e :: es => if s.cwEvq.length < 64 then .next ({ s with cwEvq := s.cwEvq ++ [e], cwEvwait := es }.posted e) else .next s
    | [] => .next s
  else match (s.die die).evwait with
    | e :: es =>
      if (s.die die).events < 64 then .next ((s.updDie die (fun d => { d with evq := d.evq ++ [e], evwait := es })).posted e) else .next s
    | [] => .next s

/-! ### Drains and fences that end (R88, R189, R391) -/

/-- R189, R391: a drain completes; what waits for it goes on; a `p.eret` that waited for it has its effect. -/
def execDrainCompletion (k : Nat) (s : State) : Out :=
  let c := s.ctx k
  match c.drain with
  | some d =>
    if d.fence || !s.drained k d then .next s
    else
      let s := (s.endDrain k).goOn k
      .next (match c.eret with
        | some md => (s.updCtx k (fun c => { c with eret := none })).endFrame k md
        | none => s)
  | none => .next s

/-- R88, R189: a fence completes: its drain has, and every earlier read has returned. -/
def execFenceCompletion (k : Nat) (s : State) : Out :=
  match (s.ctx k).drain with
  | some d => if d.fence && s.drained k d then .next ((s.endDrain k).goOn k) else .next s
  | none => .next s

end Sys2Proof.Machine
end

