-- ==== Sys2Proof/Machine/Crypto.lean ====
section
/-! DEFINITION. SHA-512 and RSASSA-PKCS1-v1_5, as the standards R148 and R410 name give them (FIPS 180-4, RFC 8017; log 7). -/

namespace Sys2Proof.Machine

/-- FIPS 180-4: the first 64 bits of the fractional parts of the square roots of the first eight primes. -/
def shaStart : List W64 :=
  [0x6A09E667F3BCC908, 0xBB67AE8584CAA73B, 0x3C6EF372FE94F82B, 0xA54FF53A5F1D36F1] ++
  [0x510E527FADE682D1, 0x9B05688C2B3E6C1F, 0x1F83D9ABFB41BD6B, 0x5BE0CD19137E2179]
/-- FIPS 180-4: those of the cube roots of the first eighty primes. -/
def shaKeys : List W64 :=
  [0x428A2F98D728AE22, 0x7137449123EF65CD, 0xB5C0FBCFEC4D3B2F, 0xE9B5DBA58189DBBC, 0x3956C25BF348B538] ++
  [0x59F111F1B605D019, 0x923F82A4AF194F9B, 0xAB1C5ED5DA6D8118, 0xD807AA98A3030242, 0x12835B0145706FBE] ++
  [0x243185BE4EE4B28C, 0x550C7DC3D5FFB4E2, 0x72BE5D74F27B896F, 0x80DEB1FE3B1696B1, 0x9BDC06A725C71235] ++
  [0xC19BF174CF692694, 0xE49B69C19EF14AD2, 0xEFBE4786384F25E3, 0x0FC19DC68B8CD5B5, 0x240CA1CC77AC9C65] ++
  [0x2DE92C6F592B0275, 0x4A7484AA6EA6E483, 0x5CB0A9DCBD41FBD4, 0x76F988DA831153B5, 0x983E5152EE66DFAB] ++
  [0xA831C66D2DB43210, 0xB00327C898FB213F, 0xBF597FC7BEEF0EE4, 0xC6E00BF33DA88FC2, 0xD5A79147930AA725] ++
  [0x06CA6351E003826F, 0x142929670A0E6E70, 0x27B70A8546D22FFC, 0x2E1B21385C26C926, 0x4D2C6DFC5AC42AED] ++
  [0x53380D139D95B3DF, 0x650A73548BAF63DE, 0x766A0ABB3C77B2A8, 0x81C2C92E47EDAEE6, 0x92722C851482353B] ++
  [0xA2BFE8A14CF10364, 0xA81A664BBC423001, 0xC24B8B70D0F89791, 0xC76C51A30654BE30, 0xD192E819D6EF5218] ++
  [0xD69906245565A910, 0xF40E35855771202A, 0x106AA07032BBD1B8, 0x19A4C116B8D2D0C8, 0x1E376C085141AB53] ++
  [0x2748774CDF8EEB99, 0x34B0BCB5E19B48A8, 0x391C0CB3C5C95A63, 0x4ED8AA4AE3418ACB, 0x5B9CCA4F7763E373] ++
  [0x682E6FF3D6B2B8A3, 0x748F82EE5DEFB2FC, 0x78A5636F43172F60, 0x84C87814A1F0AB72, 0x8CC702081A6439EC] ++
  [0x90BEFFFA23631E28, 0xA4506CEBDE82BDE9, 0xBEF9A3F7B2C67915, 0xC67178F2E372532B, 0xCA273ECEEA26619C] ++
  [0xD186B8C721C0C207, 0xEADA7DD6CDE0EB1E, 0xF57D4F7FEE6ED178, 0x06F067AA72176FBA, 0x0A637DC5A2C898A6] ++
  [0x113F9804BEF90DAE, 0x1B710B35131C471B, 0x28DB77F523047D84, 0x32CAAB7B40C72493, 0x3C9EBE0A15C9BEBC] ++
  [0x431D67C49C100D4C, 0x4CC5D4BECB3E42B6, 0x597F299CFC657E2A, 0x5FCB6FAB3AD6FAEC, 0x6C44198C4A475817]

/-- A big-endian number. -/
def bigNat (bs : List Byte) : Nat := bs.foldl (fun x b => x * 256 + b.toNat) 0
/-- A number as `n` big-endian bytes. -/
def bigBytes (n x : Nat) : List Byte := (bytesOf n x).reverse

/-- Cut a list into `n` pieces of `k`. -/
def pieces {α : Type} (k : Nat) : Nat → List α → List (List α)
  | 0, _ => []
  | n + 1, xs => xs.take k :: pieces k n (xs.drop k)

/-- FIPS 180-4: the padded message as blocks of sixteen words. -/
def shaBlocks (m : List Byte) : List (List W64) :=
  let p := m ++ [0x80] ++ List.replicate ((239 - m.length % 128) % 128) 0 ++ bigBytes 16 (8 * m.length)
  (pieces 128 (p.length / 128) p).map (fun b => (pieces 8 16 b).map (fun w => BitVec.ofNat 64 (bigNat w)))

/-- FIPS 180-4: extend the message schedule by one word; the words come youngest first. -/
def shaExtend : Nat → List W64 → List W64
  | 0, w => w
  | n + 1, w =>
    let x := w.getD 14 0
    let y := w.getD 1 0
    let s0 := x.rotateRight 1 ^^^ x.rotateRight 8 ^^^ x >>> 7
    let s1 := y.rotateRight 19 ^^^ y.rotateRight 61 ^^^ y >>> 6
    shaExtend n ((w.getD 15 0 + s0 + w.getD 6 0 + s1) :: w)

/-- FIPS 180-4: one round on the eight working variables. -/
def shaRound (v : List W64) (kw : W64 × W64) : List W64 := match v with
  | [a, b, c, d, e, f, g, h] =>
    let s1 := e.rotateRight 14 ^^^ e.rotateRight 18 ^^^ e.rotateRight 41
    let t1 := h + s1 + (e &&& f ^^^ ~~~e &&& g) + kw.1 + kw.2
    let s0 := a.rotateRight 28 ^^^ a.rotateRight 34 ^^^ a.rotateRight 39
    let t2 := s0 + (a &&& b ^^^ a &&& c ^^^ b &&& c)
    [t1 + t2, a, b, c, d + t1, e, f, g]
  | v => v

/-- FIPS 180-4: one block. -/
def shaBlock (h : List W64) (b : List W64) : List W64 :=
  List.zipWith (· + ·) h ((shaKeys.zip (shaExtend 64 b.reverse).reverse).foldl shaRound h)

/-- SHA-512 of a byte string. -/
def sha512 (m : List Byte) : List Byte := ((shaBlocks m).foldl shaBlock shaStart).flatMap (fun w => bigBytes 8 w.toNat)

/-- RFC 8017 9.2: the encoded message of 512 bytes over a SHA-512 digest. -/
def pkcsEncode (digest : List Byte) : Nat :=
  let info : List Byte := [0x30, 0x51, 0x30, 0x0D, 0x06, 0x09, 0x60, 0x86, 0x48, 0x01, 0x65, 0x03, 0x04, 0x02, 0x03, 0x05, 0x00, 0x04, 0x40]
  bigNat ([0, 1] ++ List.replicate 426 0xFF ++ [0] ++ info ++ digest)

/-- `b` to the power of the low `k` bits of `e`, modulo `n`. -/
def powMod (b n : Nat) : Nat → Nat → Nat
  | 0, _ => 1 % n
  | k + 1, e =>
    let r := powMod (b * b % n) n k (e / 2)
    if e % 2 = 1 then r * b % n else r

/-- RFC 8017 8.2.2: a signature of 512 bytes verifies over a SHA-512 digest. -/
def rsaVerify (modulus : List Byte) (exponent : Nat) (digest sig : List Byte) : Bool :=
  let n := bigNat modulus
  decide (bigNat sig < n) && powMod (bigNat sig) n 32 exponent == pkcsEncode digest

/-- RFC 8017 8.2.1: the signature of a message with a secret exponent. -/
def rsaSign (modulus key m : List Byte) : List Byte :=
  bigBytes 512 (powMod (pkcsEncode (sha512 m)) (bigNat (padTo 512 modulus)) 4096 (bigNat key))

end Sys2Proof.Machine
end

