-- ==== Sys2Proof/Machine/Images.lean ====
section
/-! DEFINITION. The EBO format as a loader and a verifier read it (R132 to R142, R148, R149). -/

namespace Sys2Proof.Machine

/-- An entry of the section table (R134). -/
structure Sect where
  type : Nat
  flags : Nat
  info : Nat
  addr : Nat
  off : Nat
  size : Nat
  entsize : Nat
deriving DecidableEq, Repr

/-- The bytes of a file from an offset. -/
def sub (b : List Byte) (o n : Nat) : List Byte := (b.drop o).take n

/-- R134: the section table. A file whose entry 0 is not all zero is taken, and its entry 0 read as any other: the model's choice (log 94). -/
def sectsOf (b : List Byte) : List Sect :=
  (List.range (fld b 0x14 2)).map (fun i =>
    let e := sub b (fld b 0x10 4 + 48 * i) 48
    { type := fld e 4 2, flags := fld e 6 2, info := fld e 0xC 4, addr := fld e 0x10 8, off := fld e 0x18 8, size := fld e 0x20 8,
      entsize := fld e 0x2C 4 })

/-- R135: the entry size of a table section. -/
def entrySize : Nat → Nat
  | 4 | 6 | 8 | 9 | 10 | 14 => 16
  | 5 | 7 => 32
  | 11 | 13 => 24
  | _ => 0

/-- R133, R5, R8: the header of a file of a kind, for dies whose levels are given. A nonzero reserved bit of `flags` is taken: R133 names reserved bytes,
and that its byte 0x0B is none of them is the model's choice (log 94). -/
def headerOk (b : List Byte) (kind : Nat) (levels : List Nat) : Bool :=
  sub b 0 4 == [0x45, 0x42, 0x4F, 0x1A] && fld b 4 2 == 1 && fld b 8 2 == kind && fld b 0xC 1 == 0 && levels.all (fun l => decide (fld b 0xD 1 ≤ l)) &&
    zeros b 0xE 2 && fld b 0x16 2 == 48 && zeros b 0x1C 4 && fld b 0x20 8 == b.length && zeros b 0x28 24

/-- R143: no symbol of an image is undefined: its section index is not 0. Entry 0 of a table is its null symbol. -/
def symsOk (b : List Byte) (x : Sect) : Bool :=
  x.type != 11 || ((List.range (x.size / 24)).drop 1).all (fun i => fld (sub b (x.off + 24 * i) 24) 4 2 != 0)

/-- R135, R138: the sections a loader can take; one of a reserved type is not read. Two points are the model's choice (log 94): a section of a known type
that runs past the end of the file is not taken, and a bank-format table of any multiple of 16 bytes is, a byte it lacks or has too many being no entry. -/
def sectsOk (b : List Byte) (ss : List Sect) : Bool :=
  ss.all (fun x => (decide (x.type < 16) || x.flags.testBit 1) && (entrySize x.type == 0 || x.size % entrySize x.type == 0) && x.type != 13 &&
    (x.type == 3 || x.type == 0 || decide (16 ≤ x.type) || decide (x.off + x.size ≤ b.length)) && symsOk b x &&
    (x.type != 4 || (sub b x.off x.size).all (fun c => decide (c.toNat ≤ 10) || c.toNat == 255))) &&
  ([4, 5, 6, 7, 8, 9, 10, 15]).all (fun t => decide ((ss.filter (fun x => x.type == t)).length ≤ 1))

/-- R135: the entries of the one section of a type, cut at that type's size; what the section says of entsize, link and info is not compared: the model's
choice (log 94). -/
def entriesOf (b : List Byte) (ss : List Sect) (t : Nat) : List (List Byte) :=
  match ss.find? (fun x => x.type == t) with
  | some x => (List.range (x.size / entrySize t)).map (fun i => sub b (x.off + entrySize t * i) (entrySize t))
  | none => []

/-- A run of a list. -/
def runOf {α : Type} (l : List α) (first n : Nat) : List α := (l.drop first).take n

/-- R139, R140, R142: a task with its records. A `ctx` outside 1 to 8, an `rcount` above 16 and a run that passes its table are taken, the run cut at the end
of the table: the model's choice, no rule has a loader reject them (log 94). -/
def taskOf (ranges arrays replicas : List (List Byte)) (e : List Byte) : Task :=
  let as := runOf arrays (fld e 0x18 4) (fld e 0x1C 2)
  { entry := fld e 4 4, gx := fld e 8 2, gy := fld e 0xA 2, gz := fld e 0xC 2, ctx := fld e 0xE 1, flags := fld e 0xF 1,
    ranges := (runOf ranges (fld e 0x10 4) (fld e 0x14 2)).map (fun r => (fld r 0 8, fld r 8 4, fld r 0xC 1, fld r 0xD 1)),
    arrays := as.map (fun a => (fld a 4 1, fld a 5 1, fld a 6 1)),
    replicas := as.flatMap (fun a => (runOf replicas (fld a 8 4) (fld a 0xC 2)).map (fun r => (fld r 4 1, fld r 5 1, fld r 8 4))) }

/-- R141: a gang with its pipes. -/
def gangOf (pipes : List (List Byte)) (e : List Byte) : Gang :=
  { ldr := fld e 4 4, cmp := fld e 8 4, sto := fld e 0xC 4, gx := fld e 0x10 2, gy := fld e 0x12 2, gz := fld e 0x14 2, plc := fld e 0x16 1,
    pipes := (runOf pipes (fld e 0x18 4) (fld e 0x1C 2)).map (fun p => (fld p 4 4, fld p 8 4, fld p 0xC 1)) }

/-- The task indices of a gang's members. -/
def Gang.members (g : Gang) : List Nat := [g.ldr, g.cmp, g.sto]

/-- R141: three distinct gang members; each pipe of its run between two of them. A pipe whose head is outside 4 to 7 is rejected: the model's choice, the
spec lists no rejection for it (log 94). -/
def gangOk (tasks : List Task) (g : Gang) : Bool :=
  let ms := g.members
  ms.Nodup && ms.all (fun t => (tasks.getD t {}).flags.testBit 0) &&
    g.pipes.all (fun p => ms.contains p.1 && ms.contains p.2.1 && decide (4 ≤ p.2.2) && decide (p.2.2 ≤ 7))

/-- R141: the two tasks of every pipe record of a file belong to one gang; one pipe per head of a consumer. -/
def pipesOk (gangs : List Gang) (pipes : List (List Byte)) : Bool :=
  pipes.all (fun p => gangs.any (fun g => g.members.contains (fld p 4 4) && g.members.contains (fld p 8 4))) &&
    (pipes.map (fun p => (fld p 8 4, fld p 0xC 1))).Nodup

/-- R136 to R142: an image and its code, when a loader takes the file; one of kind 2 that holds a sig section is taken all the same: the model's choice, for
R148 lists no rejection. So are a section to be placed whose `alloc` is clear, code sections that leave a gap, which reads as pad words, and one whose size is
no multiple of 12 or that passes 2^32, where the code space of the next image number begins (log 94). -/
def loadImage (b : List Byte) (kind : Nat) (levels : List Nat) : Option (Image × List (Nat × List Byte)) :=
  let ss := sectsOf b
  if !headerOk b kind levels || !sectsOk b ss then none
  else
    let tasks := (entriesOf b ss 5).map (taskOf (entriesOf b ss 6) (entriesOf b ss 9) (entriesOf b ss 10))
    let gangs := (entriesOf b ss 7).map (gangOf (entriesOf b ss 8))
    let code := (ss.filter (fun x => x.type == 1)).map (fun x => (x.addr, sub b x.off x.size))
    if !gangs.all (gangOk tasks) || !pipesOk gangs (entriesOf b ss 8) then none
    else some ({ codeLen := (code.map (fun c => c.1 + c.2.length)).foldl max 0,
                 fmts := match ss.find? (fun x => x.type == 4) with
                   | some x => (sub b x.off x.size).map (fun c => c.toNat)
                   | none => List.replicate 16 255,
                 data := (ss.filter (fun x => x.type == 2)).map (fun x => (x.addr, sub b x.off x.size)),
                 bss := (ss.filter (fun x => x.type == 3)).map (fun x => (x.addr, x.size)),
                 tasks := tasks, gangs := gangs }, code)

/-- Install an image and its code under a fresh number. Fetches and descriptor reads find what the loader read, also after the image's memory is
overwritten, where R150 allows old or new contents: the model's choice (log 93). -/
def State.installImage (s : State) (im : Image) (code : List (Nat × List Byte)) : Nat × State :=
  let id := s.nextId + 2
  (id, { s with nextId := id + 1, images := put s.images id im,
                mem := code.foldl (fun (m : Memory) c => m.writeN (codeKey id c.1) c.2) s.mem })

/-- R148, R404, R409: the fused key hash of a slot. -/
def State.fusedHash (s : State) (slot : Nat) : List Byte := look (Config.keyHash slot) s.mon.hashes slot

/-- R148: the signature block of a firmware image: its offset. -/
def sigOf (b : List Byte) : Option Nat :=
  if fld b 8 2 = 3 ∧ fld b 0xA 2 / 2 % 2 = 1 ∧ ((sectsOf b).filter (fun x => x.type == 15)).length = 1 then ((sectsOf b).find? (fun x => x.type == 15 && x.size == 1120 && x.off + 1120 == b.length)).map
    (fun x => x.off)
  else none

/-- R148, R149: does a firmware image verify under a key slot? The reserved bytes of the block are ignored (R3). -/
def State.verifies (s : State) (b : List Byte) (slot : Nat) : Bool :=
  match sigOf b with
  | none => false
  | some o =>
    let g := sub b o 1120
    fld g 0 2 == 1 && fld g 2 2 == slot && fld g 8 8 == o && fld g 0x450 4 % 2 == 1 && decide (3 ≤ fld g 0x450 4) &&
      sha512 (sub b 0 o) == sub g 0x10 64 && sha512 (sub g 0x250 512) == s.fusedHash slot && rsaVerify (sub g 0x250 512) (fld g 0x450 4) (sub g 0x10 64) (sub g 0x50 512)

/-- R133, R135, R404, R405: does a file verify as a die's image: under key slot 0, with a header and sections a loader takes? A die has level 0 until its
image is accepted (R5), so that is the level `minfw` may not exceed. -/
def State.dieImageOk (s : State) (b : List Byte) : Bool := s.verifies b 0 && headerOk b 3 [0] && sectsOk b (sectsOf b)

/-- R149: the measurement of an image: its `digest`. -/
def measurementOf (b : List Byte) : List Byte := match sigOf b with
  | some o => sub b (o + 0x10) 64
  | none => []

end Sys2Proof.Machine
end

