-- ==== Sys2Proof/Machine/Job.lean ====
section
/-! DEFINITION. The job mailbox, jobs, phases and micro-batch tokens (R27, R28, R350 to R352, R364 to R366, R417). -/

namespace Sys2Proof.Machine

/-! ### The mailbox (R350, R351) -/

/-- R351: the status word of a mailbox. -/
def Part.mbst (p : Part) : Nat := p.dropped * 2 ^ 16 + p.mbox.length

/-- R417: a notice enters the mailbox, ahead of later addresses, when there is room. -/
def Part.moveNotice (p : Part) : Part := match p.notices with
  | n :: ns => if p.mbox.length < 16 then { p with mbox := p.mbox ++ [n], notices := ns } else p
  | [] => p

/-- R351, R352: a read takes the oldest entry, or 0; the runtime, some time after it has popped a job address, starts the job. -/
def State.popMailbox (s : State) (part : Nat) : W64 × State :=
  match (s.part part).mbox with
  | [] => (0, s)
  | a :: rest =>
    let s := s.updPart part (fun p => { p with mbox := rest }.moveNotice)
    let (j, s) := s.freeNat
    (a, if a.toNat < 2 ^ 57 then { s with inputs := s.inputs ++ [(s.now + 1 + j, .jobStart part a)] } else s)

/-- R351: a supervisor of the partition reads its mailbox. -/
def execMailboxPop (part : Nat) (s : State) : Out := .next (s.popMailbox part).2

/-- R350: a host write of `jaddr`. -/
def execJobAddressWrite (part : Nat) (addr : W64) (s : State) : Out :=
  let p := s.part part
  if !p.live then .next s
  else if 2 ^ 57 ≤ addr.toNat ∨ addr.toNat % 64 ≠ 0 ∨ 16 ≤ p.mbox.length ∨ !p.notices.isEmpty then
    .next (s.updPart part (fun p => { p with dropped := min (p.dropped + 1) 65535 }))
  else .next (s.updPart part (fun p => { p with mbox := p.mbox ++ [addr] }))

/-! ### Job start (R352, R364) -/

/-- R364: an entry of the phase table. -/
structure PhaseRec where
  die : Nat
  nl : Nat
  next : Nat
  lrec : Nat
deriving DecidableEq, Repr

/-- R364: read entry `k` of a phase table; `none` where a field is out of range or the bytes cannot be read. -/
def State.phaseRec (s : State) (part ptab k : Nat) : Option PhaseRec :=
  match s.virtBytes part (ptab + 0x10 + 32 * k) 32 with
  | some b =>
    if fld b 0 1 ≤ 3 ∧ 1 ≤ fld b 1 1 ∧ fld b 1 1 ≤ 4 ∧ zeros b 4 4 ∧ zeros b 0x10 16 then
      some { die := fld b 0 1, nl := fld b 1 1, next := fld b 2 2, lrec := fld b 8 8 }
    else none
  | none => none

/-- R364: the chain of phases from an index, `none` when it is not a proper one. -/
def State.chainOf (s : State) (part ptab nph : Nat) : Nat → Nat → List Nat → Option (List Nat)
  | 0, _, _ => none
  | n + 1, k, seen =>
    if nph ≤ k ∨ seen.contains k then none
    else match s.phaseRec part ptab k with
      | none => none
      | some r => if r.next = 0xFFFF then some (seen ++ [k]) else s.chainOf part ptab nph n r.next (seen ++ [k])

/-- R27: a micro-batch token. -/
def mbToken (job phase m : Nat) : W64 := BitVec.ofNat 64 (job % 2 ^ 16 * 2 ^ 48 + phase * 2 ^ 32 + m)

/-- The job a token names. -/
def State.jobOf (s : State) (t : W64) : Option Level :=
  ((s.levels.map Prod.snd).find? (fun l => handleKind l.handle == 4 && l.handle % 2 ^ 16 == t.toNat / 2 ^ 48))

/-- R353, R364: the entries of a die's token queue that are taken, or meant for tokens on their way. -/
def State.tokensFor (s : State) (d : Nat) : Nat := (s.die d).tokens.length + (s.mbs.filter (fun m => m.to_ == d)).length

/-- R364: the die the runtime's first tokens set out from: the lowest on which the partition has a cluster (log 88). -/
def State.tokenSource (s : State) (part : Nat) : Nat :=
  ((List.range 4).find? (fun d => (s.part part).clusters / 2 ^ (12 * d) % 2 ^ 12 != 0)).getD 0

/-- R352: a refused job: a completion record with `err` set and `nout` 0. -/
def State.refuseJob (s : State) (part cdone : Nat) : State := s.virtWrite part cdone (bytesOf 8 5 ++ bytesOf 8 0)

/-- R8: the levels of the dies a partition runs on. -/
def State.levelsOf (s : State) (part : Nat) : List Nat :=
  ((List.range 4).filter (fun d => (s.part part).clusters / 2 ^ (12 * d) % 2 ^ 12 != 0)).map (fun d => (s.die d).fwlvl.toNat)

/-- R352, R364: start a job whose record is `b`. -/
def State.startJob (s : State) (part : Nat) (b : List Byte) : State :=
  let cdone := fld b 0x18 8
  let ptab := fld b 0x10 8
  let nph := fld b 2 2
  let img := fld b 8 8
  if fld b 0 1 ≠ 0x4A ∨ 7 < fld b 1 1 ∨ nph = 0 ∨ !zeros b 4 4 ∨ !zeros b 0x20 32 then s.refuseJob part cdone
  else match s.virtBytes part img 64, s.virtBytes part ptab 16 with
    | some h, some p =>
      let nmb := fld p 0 2
      let first := fld p 2 2
      match (s.virtBytes part img (fld h 0x20 8)).bind (fun f => loadImage f 2 (s.levelsOf part)), s.chainOf part ptab nph (nph + 1) first [] with
      | some (im, code), some chain =>
        let dies := chain.filterMap (fun k => (s.phaseRec part ptab k).map (fun r => r.die))
        if nmb = 0 ∨ 256 < nmb ∨ !zeros p 4 12 ∨ dies.any (fun d => decide (256 < s.tokensFor d + nmb)) then s.refuseJob part cdone
        else
          let (id, s) := s.installImage im code
          let (j, s) := s.freeNat
          let die := dies.headD 0
          let idx := ((List.range 65536).map (fun i => (j + i) % 65536)).find? (fun i => !s.levels.any (fun e =>
            handleKind e.1 == 4 && e.1 % 2 ^ 16 == i))
          let h := 4 * 2 ^ 28 + die * 2 ^ 26 + idx.getD 0
          let l : Level := { handle := h, part := part, img := id, total := nmb * chain.length, ptab := ptab, nmb := nmb, cdone := cdone,
                             prio := fld b 1 1, deps := chain }
          (List.range nmb).foldl (fun s m => s.sendToken (s.tokenSource part) die (mbToken h first m)) { s with levels := put s.levels h l }
      | _, _ => s.refuseJob part cdone
    | _, _ => s.refuseJob part cdone

/-- R28, R352: the runtime reads the job record and starts the job, or refuses it. -/
def execJobStart (part : Nat) (addr : W64) (s : State) : Out :=
  match s.virtBytes part addr.toNat 64 with
  | some b => .next (s.startJob part b)
  | none => .next s

/-! ### Phases (R365, R366) -/

/-- R353, R365: a token enters the die's queue; it waits at the die while that holds 256. -/
def execMicroBatchTokenArrival (die : Nat) (t : W64) (s : State) : Out :=
  if 4 ≤ die then .fault .noSuchAgent
  else if 256 ≤ (s.die die).tokens.length then .next s
  else .next ({ s with mbs := s.mbs.filter (fun m : MbMove => !(m.to_ == die && m.at_ == die && m.tok == t)) }.updDie die
    (fun d => { d with tokens := d.tokens ++ [t] }))

/-- R365, R416: create the launches of a phase in record order; a refused one counts as cancelled and sets `err`. On a die that has failed all are refused. -/
def State.phaseLaunches (s : State) (die part img phase lrec : Nat) : Nat → Nat → State
  | 0, _ => s
  | n + 1, i =>
    let b := (s.virtBytes part (lrec + 64 * i) 48).getD (List.replicate 48 255)
    match (if (s.die die).failed then (5, 0, s) else s.createLaunch die part img phase false [] b) with
    | (0, h, s) => State.phaseLaunches (State.settle 4 h s) die part img phase lrec n (i + 1)
    | (_, _, s) => State.phaseLaunches (s.updLevel phase (fun l => { l with ncncl := l.ncncl + 1, err := true })) die part img phase lrec n (i + 1)

/-- R375: the first address of a run at which a read of the partition's virtual space is a translation fault. -/
def State.readFault (s : State) (part va n : Nat) : Option Nat :=
  ((List.range n).find? (fun i => match s.walk part (va + i) with
    | some l => l.access (va + i) true false == .fault
    | none => true)).map (va + ·)

/-- R377: the event of the copy engine (a number on its die) that fetches launch records for a phase and meets a translation fault. It names no context
and no token. -/
def State.fetchEvent (s : State) (part eng va : Nat) : PendEv :=
  { time := s.now, cls := 1, core := 0, h := 0, cause := causeTranslation, widx := 255, src := 1, tval := BitVec.ofNat 64 va, eidx := eng, kind := 1,
    part := part }

/-- R365, R377: the launch records of a phase have been fetched, which waits for a stack in self-refresh (R394): its launches are created, unless it is cancelled. Where they cannot be read, the launches
are refused, and a translation fault posts its event, when there is room: until then the engine waits. -/
def State.fetched (s : State) (die : Nat) (l : Level) (lrec : Nat) : State :=
  let n := l.total
  let done := fun (s : State) => s.updLevel l.handle (fun l => { l with fetch := none })
  if l.cncl then (done s).updLevel l.handle (fun l => { l with ncncl := n })
  else if (s.die die).failed then (done s).phaseLaunches die l.part l.img l.handle lrec n 0
  else if n ≠ 0 ∧ s.rangeAsleep l.part lrec (64 * n) = true then s
  else match s.readFault l.part lrec (64 * n) with
    | some va =>
      if 64 ≤ ((s.die die).evq.filter (fun e => e.cls == 1)).length then s
      else
        let (e, s) := s.freeNat
        (done (s.updDie die (fun d => { d with evq := d.evq ++ [s.fetchEvent l.part (s.engineOf l.part die e) va] }))).phaseLaunches die l.part l.img l.handle
          lrec n 0
    | none => (done s).phaseLaunches die l.part l.img l.handle lrec n 0

/-- R365: the phases of a die whose launch records can be there, but for those of a partition that has faulted (R402). -/
def State.fetches (s : State) (die : Nat) : List (Level × Nat) :=
  s.levels.filterMap (fun e => match e.2.fetch with
    | some (t, a) => if handleDie e.1 = die ∧ t ≤ s.now ∧ !(s.part e.2.part).faulted then some (e.2, a) else none
    | none => none)

/-- R365, R402: the token of a die that starts the next phase instance: the oldest, those of partitions that have faulted apart. -/
def State.nextToken (s : State) (die : Nat) : Option W64 := (s.die die).tokens.find? (fun t => !(s.jobOf t).any (fun j => (s.part j.part).faulted))

/-- R14, R365: the figure of the copy of `n` launch records to a die from where they lie. -/
def State.fetchTime (s : State) (part die va n : Nat) : Nat := memFigure die (s.walk part va) + (64 * n - 1) / 256

/-- R365: phases whose launch records are there go on; then the oldest token, of a partition that has not faulted (R402), of a die starts its phase instance when a phase record is free: the engine
sets out to fetch its launch records. -/
def execPhaseStart (die : Nat) (s : State) : Out :=
  if 4 ≤ die then .fault .noSuchAgent
  else
    let s := (s.fetches die).foldl (fun s x => s.fetched die x.1 x.2) s
    match s.nextToken die with
    | none => .next s
    | some t =>
      if 256 ≤ (s.levels.filter (fun e => handleDie e.1 == die && handleKind e.1 == 3)).length then .next s
      else
        let s := s.updDie die (fun d => { d with tokens := d.tokens.erase t })
        match s.jobOf t with
        | none => .next s
        | some job =>
          let k := t.toNat / 2 ^ 32 % 2 ^ 16
          let r := (s.phaseRec job.part job.ptab k).getD { die := die, nl := 0, next := 0xFFFF, lrec := 0 }
          let (h, s) := s.newHandle 3 die
          let h' := s.homeOf job.part r.lrec die
          let (j, s) := if s.allCached job.part die r.lrec (64 * r.nl) then s.slack (memPlace h' :: s.wayTo 4 die h') else s.freeNat
          let l : Level := { handle := h, part := job.part, img := job.img, parent := job.handle, total := r.nl, phase := k, next := r.next,
                             mb := t.toNat % 2 ^ 32, prio := job.prio, fetch := some (s.now + s.fetchTime job.part die r.lrec r.nl + j, r.lrec) }
          .next { s with levels := put s.levels h l }

/-- R366, R353: a phase instance is complete: the token for the next phase sets out, or the rest of a cancelled chain is counted; its
levels are freed. -/
def execPhaseCompletion (handle : Nat) (s : State) : Out :=
  match s.level? handle with
  | some l =>
    if handleKind handle ≠ 3 ∨ !l.isDone ∨ l.reported then .next s
    else
      let rest := if l.cncl then s.chainFrom l.parent l.phase - 1 else 0
      let s := s.updLevel l.parent (fun j => { j with ndone := j.ndone + 1, ncncl := j.ncncl + rest })
      let s := if l.cncl || l.next == 0xFFFF then s
        else match s.level? l.parent with
          | some j => s.sendToken (handleDie handle) (((s.phaseRec j.part j.ptab l.next).map (fun r => r.die)).getD 0) (mbToken j.handle l.next l.mb)
          | none => s
      let gone := handle :: (s.levels.filter (fun e => e.2.parent == handle || (match s.level? e.2.parent with
        | some g => g.parent == handle
        | none => false))).map Prod.fst
      .next (({ s with levels := s.levels.filter (fun e => !gone.contains e.1) }).settleJob l.parent)
  | none => .next s

/-- R199, R353: the record of a level that belongs to no phase is freed the cycle after it is complete. -/
def State.freeLevels (s : State) : State :=
  { s with levels := s.levels.filter (fun e => !(e.2.reported && handleKind e.1 ≤ 2 && e.2.super && decide (e.2.doneAt < s.now))) }

/-- R417: a notice for every partition that owns a cluster. -/
def State.notice (s : State) (die code : Nat) : State :=
  { s with parts := s.parts.map (fun e => (e.1, if e.2.live && e.2.clusters != 0 then
      { e.2 with notices := e.2.notices ++ [BitVec.ofNat 64 (2 ^ 63 + die * 256 + code)] }.moveNotice else e.2)) }

end Sys2Proof.Machine
end

