-- ==== Sys2Proof/Machine/Link.lean ====
section
/-! DEFINITION. Boardwalk links: flits, replay, rates, retraining, back-off, lane retirement (R301 to R314). -/

namespace Sys2Proof.Machine

/-- Change both ends of a link. -/
def State.updBoth (s : State) (d n : Nat) (f : LinkEnd → LinkEnd) : State :=
  let s := s.updLink d n f
  match otherEnd d n with
  | some (e, m) => s.updLink e m f
  | none => s

/-- Is an end one of a spoke's? -/
def isSpoke (d n : Nat) : Bool := d == 4 || n == 2

/-- R304: modules of a link. -/
def modulesOf (d n : Nat) : Nat := if isSpoke d n then 2 else 6

/-- Does an event name a link end of a die, or of Causeway? -/
def linkOk (d n : Nat) : Bool := (decide (d < 4) && decide (n < 3)) || (d == 4 && decide (n < 4))

/-! ### Rate, retraining (R308, R309) -/

/-- R312: time at a step up to now. -/
def LinkEnd.timeAt (l : LinkEnd) (step now : Nat) : Nat := look 0 l.tm step + if l.rate.toNat = step then now - l.tmFrac else 0

/-- R308, R312: the step in force changes. -/
def LinkEnd.setRate (l : LinkEnd) (r now : Nat) : LinkEnd :=
  { l with tm := put l.tm l.rate.toNat (l.timeAt l.rate.toNat now), tmFrac := now, rate := BitVec.ofNat 3 r }

/-- R307, R309: the whole link retrains, for at most 3 µs. -/
def State.retrain (s : State) (d n : Nat) : State :=
  let (j, s) := s.freeNat
  s.updBoth d n (fun l => { l with train := 1 + j % 6000 })

/-- R308: a step code written at an end: step 7, and a step above 2 on a spoke, are ignored; the step in force changes nothing. -/
def execLinkRateWrite (die link rate : Nat) (s : State) : Out :=
  if !linkOk die link then .fault .noSuchAgent
  else if 7 ≤ rate ∨ (isSpoke die link = true ∧ 2 < rate) ∨ (s.link die link).rate.toNat = rate then .next s
  else .next ((s.updBoth die link (fun l => l.setRate rate s.now)).retrain die link)

/-- R306, R309: replay everything unacknowledged. -/
def LinkEnd.replayAll (l : LinkEnd) : LinkEnd := { l with vcs := l.vcs.map (fun v => (v.1, { v.2 with resend := v.2.unacked })) }

/-- R309, R310: a retrain ends: of the whole link (module 7), whose unacknowledged flits are replayed, or of one module. -/
def execLinkRetrainCompletion (die link mod : Nat) (s : State) : Out :=
  if !linkOk die link then .fault .noSuchAgent
  else if mod = 7 then
    if (s.link die link).train = 1 then .next (s.updBoth die link (fun l => { l with train := 0 }.replayAll)) else .next s
  else if look 0 (s.link die link).modTrain mod = 1 then .next (s.updBoth die link (fun l => { l with modTrain := drop1 l.modTrain mod }))
  else .next s

/-! ### Link events (R311, R349) -/

/-- R311: the syndrome. -/
def syndrome (rate lane mod link ev : Nat) : W64 :=
  BitVec.ofNat 64 (rate * 2 ^ 24 + lane * 2 ^ 17 + mod * 2 ^ 14 + link * 2 ^ 12 + ev)

/-- R349: deliver a link event on a die to the core its `csr.evctx` names, when it is enabled and that core has a supervisor of the
partition with `lnk`. -/
def State.degradeAt (s : State) (d n lane mod ev : Nat) : State :=
  let x := s.die d
  let core := coreId d x.evClu.toNat x.evCore.toNat
  let part := (s.partOf core).getD 16
  if x.evEn && (s.part part).lnk && !(s.supersOf core).isEmpty then
    let e : PendEv := { time := s.now, cls := 0, core := core, h := 0, cause := causeLink, widx := 255, src := 3,
                        tval := syndrome (s.link d n).rate.toNat lane mod n ev, part := part }
    s.updDie d (fun y => { y with evq := y.evq ++ [e] })
  else s

/-- R311: on each die at an end of the link. -/
def State.degrade (s : State) (d n lane mod ev : Nat) : State :=
  let s := s.degradeAt d n lane mod ev
  match otherEnd d n with
  | some (e, m) => s.degradeAt e m lane mod ev
  | none => s

/-- R309: replays of a window above the threshold step the link down and retrain it; both ends start new windows. -/
def execAutomaticBackOff (die link : Nat) (s : State) : Out :=
  if !linkOk die link then .fault .noSuchAgent
  else
    let l := s.link die link
    if l.abo && decide (l.rthr.toNat < l.winRply) && decide (0 < l.rate.toNat) then
      let s := s.updBoth die link (fun l => { l.setRate (l.rate.toNat - 1) s.now with winFlits := 0, winRply := 0 })
      .next ((s.retrain die link).degrade die link 127 7 1)
    else .next s

/-! ### Lanes (R310) -/

/-- A module's width: 0 retired, 1 half, 2 full. -/
def LinkEnd.width (l : LinkEnd) (m : Nat) : Nat := l.widths.getD m 0

/-- R303: the packets an end keeps that the other end has not received, in order: those of flits from its next sequence number on, then those not sent. -/
def Vc.undelivered (v : Vc) (rseq : Nat) : List Nat :=
  ((v.unacked.dropWhile (fun u => decide (2048 ≤ (u.1 + 4096 - rseq) % 4096))).flatMap (fun u => u.2.2)) ++ v.outq.map Prod.snd

/-- R302, R310: a packet that stands at die `d` goes on: an access, its response, a token, or one of VC1 to VC3. -/
def State.forwardPacket (s : State) (d id : Nat) : State := match s.msg? id with
  | some m => if m.home then s else (s.updMsg id (fun m => { m with here := some d })).onward { m with here := some d } d
  | none => match s.mbs.find? (fun m => m.id == id) with
    | some m => s.tokenOn m d
    | none => match s.pkts.find? (fun p => p.id == id) with
      | some p => s.pktOn p d
      | none => s

/-- R303, R310: the link is down: flits on it are lost; what an end kept and the other had not received goes on by another path, each packet once. -/
def State.takeDown (s : State) (d n : Nat) : State := match otherEnd d n with
  | none => s
  | some (e, m) =>
    let keeps := fun (a b : LinkEnd) => (List.range 4).flatMap (fun v => (a.vc v).undelivered (b.vc v).rseq)
    let near := keeps (s.link d n) (s.link e m)
    let far := keeps (s.link e m) (s.link d n)
    let s := s.updBoth d n (fun l => { l with up := false, vcs := [], credit := [] })
    let s : State := { s with flying := s.flying.filter (fun x : Flying => !((x.die == d && x.link == n) || (x.die == e && x.link == m))) }
    far.foldl (fun s i => s.forwardPacket e i) (near.foldl (fun s i => s.forwardPacket d i) s)

/-- R310, R311: a lane is unusable: its module narrows to the other half, or, already narrow, is retired; with none left the link is down. -/
def execLaneRetirement (die link mod lane : Nat) (s : State) : Out :=
  if !linkOk die link || !decide (mod < modulesOf die link) || !decide (lane < 64) then .fault .noSuchAgent
  else
    let w := (s.link die link).width mod
    let high := decide (32 ≤ lane)
    if w = 2 then
      let (j, s) := s.freeNat
      let s := s.updBoth die link (fun l => { l with widths := l.widths.set mod 1, lostHalf := put l.lostHalf mod high,
                                                     modTrain := put l.modTrain mod (1 + j % 6000) })
      .next (s.degrade die link lane mod 2)
    else if w = 1 ∧ look false (s.link die link).lostHalf mod ≠ high then
      let s := s.updBoth die link (fun l => { l with widths := l.widths.set mod 0 })
      let s := s.degrade die link lane mod 3
      .next (if (s.link die link).widths.all (· == 0) then (s.takeDown die link).degrade die link 127 7 4 else s)
    else .next s

/-! ### Flits (R305 to R307) -/

/-- R312: a saturating 64-bit counter. -/
def sat64 (n : Nat) : Nat := min n (2 ^ 64 - 1)

/-- R306: the acknowledgement or refusal an end owes: (channel, sequence number, kind). -/
def LinkEnd.owes (l : LinkEnd) : Option (Nat × Nat × Nat) :=
  match (List.range 4).find? (fun v => (l.vc v).gap == 1) with
  | some v => some (v, (l.vc v).rseq, 2)
  | none => ((List.range 4).find? (fun v => decide (0 < (l.vc v).toAck))).map (fun v => (v, ((l.vc v).rseq + 4095) % 4096, 1))

/-- R306: what was owed is sent. -/
def LinkEnd.paid (l : LinkEnd) : LinkEnd := match l.owes with
  | some (v, _, 2) => l.setVc v (fun x => { x with gap := 2 })
  | some (v, _, _) => l.setVc v (fun x => { x with toAck := 0, ackAge := 0 })
  | none => l

/-- R307: the next message of a channel among those that may go: the sub-queues of VC0 alternate. -/
def Vc.pick (v : Vc) (may : Nat → Bool) : Option (Bool × Nat) := match v.outq.find? (fun x => x.1 == v.turn && may x.2) with
  | some x => some x
  | none => v.outq.find? (fun x => may x.2)

/-- R306: the next flit of a channel in cycle `now`: a replay first, then a new one, of a packet that may go, while the window has room: (sequence number,
response, payload) and the channel after. -/
def Vc.next (v : Vc) (may : Nat → Bool) (now : Nat) : Option ((Nat × Bool × List Nat) × Vc) :=
  match v.resend with
  | r :: rs => some (r, { v with resend := rs, sent := put v.sent r.1 now })
  | [] => if 2048 ≤ v.unacked.length then none else match v.pick may with
    | some (rsp, id) =>
      let f := (v.nseq, rsp, [id])
      some (f, { v with outq := v.outq.erase (rsp, id), unacked := v.unacked ++ [f], nseq := (v.nseq + 1) % 4096, turn := !rsp,
                        sent := put v.sent v.nseq now })
    | none => none

/-- R13 to R15: the delay of a flit on a link: none for accesses of an example on a quiet machine, else free (log 2). -/
def State.flitSlack (s : State) (ids : List Nat) : Nat × State :=
  if !ids.isEmpty && ids.all (fun i => match s.msg? i with
    | some m => s.quietFor (ctxKey m.core m.h) []
    | none => false) then (0, s)
  else s.freeNat

/-- R305, R309, R312: send a flit from an end: it is counted, and flies behind those before it, for a time that is free when the package is busy. -/
def State.sendFlit (s : State) (d n : Nat) (f : Flit) : State :=
  let (j, s) := s.flitSlack f.pay
  let s := s.updLink d n (fun l =>
    let full := decide (2 ^ 20 ≤ l.winFlits + 1)
    { l with flits := sat64 (l.flits + 1), winFlits := if full then 0 else l.winFlits + 1, winRply := if full then 0 else l.winRply })
  match otherEnd d n with
  | some (e, m) =>
    let last := ((s.flying.filter (fun x => x.die == e && x.link == m)).map (fun x => x.due)).foldl max 0
    { s with flying := s.flying ++ [{ die := e, link := m, due := max last (s.now + 1 + j), flit := f }] }
  | none => s

/-- R304: the rate of a step, in GT/s. -/
def stepRate (step : Nat) : Nat := nth0 [16, 24, 32, 36, 40, 44, 48] step

/-- R304, R305: what a module gains in a cycle toward a flit slot, of 64: full width at 32 GT/s sends a flit every 2 cycles. -/
def LinkEnd.gain (l : LinkEnd) (mod : Nat) : Nat := stepRate l.rate.toNat * l.width mod / 2

/-- R304, R310: is a module of an end in use? -/
def LinkEnd.active (l : LinkEnd) (mod : Nat) : Bool := l.up && l.train == 0 && decide (0 < l.width mod) && look 0 l.modTrain mod == 0

/-- R305: has a module of an end in use a flit slot? -/
def LinkEnd.ready (l : LinkEnd) (mod : Nat) : Bool := l.active mod && decide (64 ≤ look 0 l.credit mod)

/-- R305: a module has used a flit slot. -/
def LinkEnd.spend (l : LinkEnd) (mod : Nat) : LinkEnd := { l with credit := put l.credit mod (look 0 l.credit mod - 64) }

/-- R306, R307: the order in which a module's slot considers the channels: VC0 first; while a channel replays, the module goes round, so that the others keep
flowing and VC0 has at least one slot in four (log 61). -/
def LinkEnd.slotOrder (l : LinkEnd) (mod : Nat) : List Nat :=
  if (List.range 4).all (fun v => (l.vc v).resend.isEmpty) then List.range 4
  else (List.range 4).map (fun i => (look 3 l.last mod + 1 + i) % 4)

/-- R305 to R307: a module's flit slot: a channel's flit, or an idle one when only a refusal is owed; acknowledgements ride on flits, or wait for their timer. -/
def execFlitTransmission (die link mod : Nat) (s : State) : Out :=
  if !linkOk die link then .fault .noSuchAgent
  else
    let l := s.link die link
    if !l.ready mod then .next s
    else
      let (av, aq, ak) := l.owes.getD (0, 0, 0)
      match (l.slotOrder mod).findSome? (fun v => ((l.vc v).next (s.inTurn die (l.vc v)) s.now).map (fun x => (v, x))) with
      | some (v, (sq, rsp, ids), c) =>
        let f : Flit := { vc := v, rsp := rsp, seq := sq, avc := av, aseq := aq, akt := ak, idle := false, pay := ids }
        .next ((s.updLink die link (fun l => { (((l.setVc v (fun _ => c)).paid).spend mod) with last := put l.last mod v })).sendFlit die link f)
      | none =>
        if ak ≠ 2 then .next s
        else
          let f : Flit := { vc := 0, rsp := false, seq := 0, avc := av, aseq := aq, akt := ak, idle := true, pay := [] }
          .next ((s.updLink die link (fun l => l.paid.spend mod)).sendFlit die link f)

/-- R306: flits up to a sequence number are acknowledged. -/
def Vc.acked (v : Vc) (sq : Nat) : Vc :=
  if v.unacked.any (fun u => u.1 == sq) then
    let left := (v.unacked.dropWhile (fun u => u.1 != sq)).tail
    { v with unacked := left, resend := v.resend.filter left.contains, sent := v.sent.filter (fun x => left.any (fun u => u.1 == x.1)) }
  else v

/-- R306: every unacknowledged flit from the first that a test picks is to be sent again; their times start anew. -/
def Vc.replayFrom (v : Vc) (p : Nat → Bool) (now : Nat) : Vc :=
  let again := v.unacked.dropWhile (fun u => !p u.1)
  { v with resend := again, sent := again.foldl (fun m u => put m u.1 now) v.sent }

/-- R306: has a flit of a channel gone unacknowledged for 4 µs? -/
def Vc.overdue (v : Vc) (now : Nat) : Bool := v.unacked.any (fun u => decide (look 0 v.sent u.1 + 8000 ≤ now))

/-- R306, R309, R312: an end replays a channel, which counts once. -/
def State.replay (s : State) (d n v : Nat) (p : Nat → Bool) : State :=
  s.updLink d n (fun l => { (l.setVc v (fun x => x.replayFrom p s.now)) with rply := sat64 (l.rply + 1), winRply := l.winRply + 1 })

/-- R306, R312: the sender acts on a refusal: it replays from the named flit. -/
def State.refused (s : State) (d n v sq : Nat) : State := s.replay d n v (· == sq)

/-- R306. -/
def execRefusalReceipt (die link vc seq : Nat) (s : State) : Out :=
  if !linkOk die link || !decide (vc < 4) then .fault .noSuchAgent else .next (s.refused die link vc seq)

/-- R302, R303: the packets of a delivered flit: at their die, or on to the next link. -/
def State.deliverFlit (s : State) (d : Nat) (ids : List Nat) : State :=
  ids.foldl (fun s i => match s.msg? i with
    | some m =>
      if m.bound = d then s.updMsg i (fun m => { m with home := true, here := none })
      else (s.updMsg i (fun m => { m with here := some d })).onward { m with here := some d } d
    | none => match s.mbs.find? (fun m => m.id == i) with
      | some m => ({ s with mbs := s.mbs.map (fun x : MbMove => if x.id = i then { x with at_ := d } else x) }).tokenOn m d
      | none => match s.pkts.find? (fun p => p.id == i) with
        | some p =>
          if p.to_ = d then { s with pkts := s.pkts.filter (fun x => x.id != i) }
          else ({ s with pkts := s.pkts.map (fun x : Packet => if x.id = i then { x with at_ := d } else x) }).pktOn p d
        | none => s) s

/-- R305, R306, R312: a flit arrives: a bad one is counted and leaves a gap in its channel, or the missing one is missing again, unless it only repeats one
received before; a good one's acknowledgement is acted on, and its payload is delivered when it is the next in sequence. -/
def execFlitReception (die link : Nat) (f : Flit) (good : Bool) (s : State) : Out :=
  if !linkOk die link || !decide (f.vc < 4) || !decide (f.avc < 4) then .fault .noSuchAgent
  else
    let again := decide (2048 ≤ (f.seq + 4096 - ((s.link die link).vc f.vc).rseq) % 4096)
    let owe := fun (l : LinkEnd) =>
      if !again ∧ ((l.vc f.vc).gap = 0 ∨ f.seq = (l.vc f.vc).rseq) then l.setVc f.vc (fun v => { v with gap := 1 }) else l
    if !good then .next (s.updLink die link (fun l => let l := { l with crc := sat64 (l.crc + 1) }; if f.idle then l else owe l))
    else
      let s := if f.akt = 1 then s.updLink die link (fun l => l.setVc f.avc (fun v => v.acked f.aseq))
        else if f.akt = 2 then s.refused die link f.avc f.aseq else s
      if f.idle then .next s
      else if f.seq = ((s.link die link).vc f.vc).rseq then
        let s := s.updLink die link (fun l => l.setVc f.vc (fun v => { v with rseq := (v.rseq + 1) % 4096, gap := 0, toAck := v.toAck + 1 }))
        .next (s.deliverFlit die f.pay)
      else if !again then .next (s.updLink die link owe)
      else .next (s.updLink die link (fun l => l.setVc f.vc (fun v => { v with toAck := v.toAck + 1 })))

/-- R305, R306: 64 flits, or 1 µs, have gone without an acknowledgement: an idle flit carries it, in the first flit slot of a module. -/
def execAcknowledgementTimer (die link vc : Nat) (s : State) : Out :=
  if !linkOk die link || !decide (vc < 4) then .fault .noSuchAgent
  else
    let l := s.link die link
    let v := l.vc vc
    match (List.range (modulesOf die link)).find? l.ready with
    | some m =>
      if 0 < v.toAck ∧ (64 ≤ v.toAck ∨ 2000 ≤ v.ackAge) then
        let f : Flit := { vc := 0, rsp := false, seq := 0, avc := vc, aseq := (v.rseq + 4095) % 4096, akt := 1, idle := true, pay := [] }
        .next ((s.updLink die link (fun l => (l.setVc vc (fun v => { v with toAck := 0, ackAge := 0 })).spend m)).sendFlit die link f)
      else .next s
    | none => .next s

/-- R306, R312: a flit has gone unacknowledged for 4 µs: its channel is replayed. -/
def execReplayTimeout (die link vc : Nat) (s : State) : Out :=
  if !linkOk die link || !decide (vc < 4) then .fault .noSuchAgent
  else
    if ((s.link die link).vc vc).overdue s.now then .next (s.replay die link vc (fun _ => true)) else .next s

/-! ### Registers (R312 to R314) -/

/-- R313. -/
def LinkEnd.ctl (l : LinkEnd) : Nat := (if l.abo then 2 ^ 16 else 0) + l.rthr.toNat * 2 ^ 8 + l.rate.toNat

/-- R314: the link state: training until it has been trained; down with no active module. -/
def LinkEnd.state (l : LinkEnd) : Nat := if l.train ≠ 0 ∨ l.widths.isEmpty then 1 else if l.up then 2 else 0

/-- R314. -/
def LinkEnd.status (l : LinkEnd) : Nat :=
  l.state * 2 ^ 20 + ((List.range 6).map (fun m => l.width m * 2 ^ (8 + 2 * m))).foldl (· + ·) 0 + l.rate.toNat

/-- R312: the lanes out of service. -/
def LinkEnd.lanesOut (l : LinkEnd) : Nat :=
  ((List.range l.widths.length).map (fun m => (2 - l.width m) * 32 * 2 ^ (8 * m))).foldl (· + ·) 0

/-- R304, R310, R406: an end after training, with the widths its modules trained to; the step in force and the counters stay. -/
def LinkEnd.trained (l : LinkEnd) (widths : List Nat) : LinkEnd :=
  { l with up := widths.any (· != 0), widths := widths, train := 0, modTrain := [], lostHalf := [] }

/-- R312: the counters of an end at a die reset. -/
def LinkEnd.zeroed (l : LinkEnd) (now : Nat) : LinkEnd :=
  { l with flits := 0, crc := 0, rply := 0, tm := [], tmFrac := now, winFlits := 0, winRply := 0 }

/-- R404, R416: train a link: its modules come up at widths that are free, retired lanes recorded. -/
def State.trainLink (s : State) (d n : Nat) : State :=
  let ws := (List.range (modulesOf d n)).map (fun i => 2 - Config.freeNat (s.free + i) % 3)
  ({ s with free := s.free + 6 }).updBoth d n (fun l => l.trained ws)

/-! ### The bits of a flit (R305) -/

/-- R305: the header of a flit, as a number of 32 bits. -/
def flitHeader (f : Flit) : Nat :=
  f.vc % 4 * 2 ^ 30 + (if f.rsp then 2 ^ 29 else 0) + f.seq % 4096 * 2 ^ 17 + f.avc % 4 * 2 ^ 15 + f.aseq % 4096 * 2 ^ 3 + f.akt % 4 * 2 + if f.idle then 1 else 0

/-- One bit of the division of CRC-32. -/
def crcBit (r : Nat) : Nat := if r % 2 = 1 then (r / 2) ^^^ 0xEDB88320 else r / 2
/-- R305: CRC-32 with the IEEE 802.3 polynomial, as that standard gives it (PRESUMED, log 61): bits least significant first, ones before, complemented after. -/
def crc32 (bs : List Byte) : Nat :=
  (bs.foldl (fun r b => (List.range 8).foldl (fun r _ => crcBit r) (r ^^^ b.toNat)) (2 ^ 32 - 1)) ^^^ (2 ^ 32 - 1)

/-- R305: the 256 bytes of a flit: header, payload, CRC. -/
def flitBytes (f : Flit) : List Byte :=
  let b := bytesOf 4 (flitHeader f) ++ (Config.packetBytes (if f.idle then [] else f.pay) ++ List.replicate 248 0).take 248
  b ++ bytesOf 4 (crc32 b)

/-- R305, R306: does the CRC of received bytes hold? -/
def crcHolds (bs : List Byte) : Bool := crc32 (bs.take 252) == ofBytes (bs.drop 252)

/-- Bytes as a link delivers them: noise `n`, a bit for each, is added; none of it leaves them as they are. -/
def withNoise (bs : List Byte) (n : Nat) : List Byte := bytesOf bs.length (ofBytes bs ^^^ n % 2 ^ (8 * bs.length))

end Sys2Proof.Machine
end

