-- ==== Sys2Proof/Machine/MemoryWords.lean ====
section
/-! DEFINITION. The M class: loads, stores, atomics, handler stores (R178 to R182). -/

namespace Sys2Proof.Machine

/-- R180: an M word whose address passes its checks goes on; else it traps with the computed address. -/
def State.checked (s : State) (global : Bool) (ea : W64) (n : Nat) (op : AccessOp) (v : W64) (body : State → Out) : Out :=
  match s.accessCause global s.iss.core ea n op v with
  | some c => s.raise 6 c ea
  | none => body s

/-- R179: a local load: to `reg` unless `nw`, and to `b2` or `b3`. A write collision comes before the address (R112 rows 5 and 6). -/
def State.loadLocal (s : State) (f : MM) (ea : W64) (lat : Nat) : Out :=
  let n := accessBytes f
  if s.cur.live.collides (if f.nw then .none else .g f.reg.toNat) lat then s.raise 5 causeSchedule (BitVec.ofNat 64 s.iss.widx) else
  s.checked false ea n .load 0 (fun s =>
    let (v, s) := s.localRead s.key (accessKey false s.iss.core ea) n
    s.result (if f.nw then .none else .g f.reg.toNat) lat s.mLatch (loadValue f.sx n v))

/-- R178, R179. -/
def execMLd (f : MM) (s : State) : Out := s.word (Instr.mLd f).wf f.g (fun s => s.loadLocal f (s.effAddr f) 4)

/-- R178: unsigned index. -/
def execMLda (f : MM) (s : State) : Out := s.word (Instr.mLda f).wf f.g (fun s => s.loadLocal f (s.indexAddr f) 6)

/-- R178, R179: a store of the low bytes of `reg`. -/
def execMSt (f : MM) (s : State) : Out :=
  s.word (Instr.mSt f).wf f.g (fun s =>
    let ea := s.effAddr f
    let v := s.cur.live.readG f.reg.toNat
    s.checked false ea (accessBytes f) .store v (fun s =>
      .next (s.localStore (accessKey false s.iss.core ea) (accessBytes f) v)))

/-- R178: the queue head of a queue-returning word. -/
def queueOf (f : MM) : Nat := f.reg.toNat / 4

/-- R178, R179: the value is an entry of `q[dq]`. -/
def execMLdg (f : MM) (s : State) : Out :=
  s.word (Instr.mLdg f).wf f.g (fun s =>
    let ea := s.effAddr f
    s.checked true ea (accessBytes f) .load 0 (fun s =>
      .next (s.issueAccess .load ea.toNat (accessBytes f) 0 f.sx (queueOf f))))

/-- R178, R70: a global address on the issuing core is a local store. -/
def execMStg (f : MM) (s : State) : Out :=
  s.word (Instr.mStg f).wf f.g (fun s =>
    let ea := s.effAddr f
    let v := s.cur.live.readG f.reg.toNat
    s.checked true ea (accessBytes f) .store v (fun s =>
      .next (if gsaCore ea.toNat = s.iss.core then s.localStore ea.toNat (accessBytes f) v
        else s.issueAccess .store ea.toNat (accessBytes f) v false 0)))

/-- R182: the handler address must fit 32 bits and be a packet address. -/
def handlerOk (h : W64) : Bool := decide (h.toNat < 2 ^ 32) && h.toNat % 12 == 0

/-- R178, R180, R182. -/
def execMSth (f : MM) (s : State) : Out :=
  s.word (Instr.mSth f).wf f.g (fun s =>
    let ea := s.value f.sa
    let v := s.cur.live.readG f.reg.toNat
    let h := s.cur.live.readG f.off.toNat
    s.checked true ea (accessBytes f) .store v (fun s =>
      if !handlerOk h then s.raise 6 causeIllegal (s.iss.word.zeroExtend 64)
      else .next (s.issueAccess (.sth h.toNat) ea.toNat (accessBytes f) v false 0)))

/-- R181: the operation an `m.amo` names. -/
def amoOp (f : MM) : Nat := (if f.nw then 4 else 0) + (if f.sx then 2 else 0) + f.off.toNat / 16
/-- R181: the operand register. -/
def amoReg (f : MM) : Nat := f.off.toNat % 16

/-- R178, R181: the old value is an entry of `q[dq]`. -/
def execMAmo (f : MM) (s : State) : Out :=
  s.word (Instr.mAmo f).wf f.g (fun s =>
    let ea := s.value f.sa
    let v := s.cur.live.readG (amoReg f)
    s.checked true ea (accessBytes f) .atomic v (fun s =>
      .next (s.issueAccess (.amo (amoOp f) (s.cur.live.readG (amoReg f + 1))) ea.toNat (accessBytes f) v false (queueOf f))))

end Sys2Proof.Machine
end

