-- ==== Sys2Proof/Machine/Stream.lean ====
section
/-! DEFINITION. Streaming commands: what each computes, when it samples, how it issues and completes (R214 to R217, R65). -/

namespace Sys2Proof.Machine

/-- What a streaming command computes from the store it samples. -/
def VJob.run (j : VJob) (m : Memory) : VRes :=
  match j.word with
  | .vAdd _ | .vSub _ | .vMul _ | .vMax _ | .vMin _ => elementwise j.word j.dd j.da.count .none [j.da, j.db] m
  | .vFma _ | .vClip _ => elementwise j.word j.dd j.da.count .none [j.da, j.db, j.dc] m
  | .vAbs _ | .vNeg _ => elementwise j.word j.dd j.da.count .none [j.da] m
  | .vScal f => elementwise j.word j.dd j.da.count (scalarOf f.md j.sv) [j.da] m
  | .vAxpy f => elementwise j.word j.dd j.da.count (scalarOf f.md j.sv) [j.da, j.dd] m
  | .vFill f => elementwise j.word j.dd j.dd.count (scalarOf f.md j.sv) [] m
  | .vCpy _ => copyRegion j.dd j.da .rne m
  | .vCvt f => copyRegion j.dd j.da (rndOf f.md.toNat) m
  | .vCmp f => compareRegion f.md.toNat j.dd j.da j.db m
  | .vSel _ => selectRegion j.dd j.da j.db j.dc m
  | .vAnd _ => bitsRegion (· &&& ·) j.dd j.da j.db m
  | .vOr _ => bitsRegion (· ||| ·) j.dd j.da j.db m
  | .vXor _ => bitsRegion (· ^^^ ·) j.dd j.da j.db m
  | .vShl _ => shiftRegion true false j.sv.toNat j.dd j.da m
  | .vShr f => shiftRegion false (f.md.getLsbD 0) j.sv.toNat j.dd j.da m
  | .vIota f => iotaRegion j.dd j.sv.toInt f.md.toInt
  | .vGath _ => gatherRegion j.dd j.da j.db m
  | .vScat _ => scatterRegion j.dd j.da j.db m
  | .vPerm _ => permRegion j.dd j.da j.db m
  | .vRsum _ => sumRegion j.da m
  | .vRmax f => extremeRegion true (f.md.getLsbD 0) j.da m
  | .vRmin f => extremeRegion false (f.md.getLsbD 0) j.da m
  | .vRdot _ => dotRegion j.da j.db m
  | .vNfck f => nfCheck (f.md.getLsbD 0) j.dd j.da m
  | .vPgen _ => pulseRegion j.dd j.da j.db m
  | .vRscale _ => rescaleRegion j.sv.toInt j.dd j.da m
  | .vSkinit f => j.dd.putRecord 0 (some (emptyRecord f j.sv))
  | .vSkq _ => skqRegion j.dd j.da j.coin m
  | .vSkh _ => skhRegion j.kw j.dd j.da m
  | .vSkd _ => skdRegion j.dd j.da m
  | .vSkm _ => skmRegion j.dd j.da j.coin m
  | .vSkqq _ => skqqRegion j.da j.sv m
  | .vSkest _ => skestRegion j.da m
  | .vSktop _ => sktopRegion j.dd j.da m
  | .xLd _ => patternRegion j.da m
  | .xApp _ | .xRot _ | .xBc _ | .xTr _ | .xRev _ => lanesRegion j.word j.pat j.dd j.da m
  | _ => specialRegion (specialOpOf j.word) j.dd j.da m

/-- R216: the bytes a command may read, one span per region. -/
def VJob.spans (j : VJob) : List (Nat × Nat) := [j.dd.span, j.da.span, j.db.span, j.dc.span]

/-- R384: what is left of a streaming command that has computed everything and has done its first `done` writes. -/
def Cmd.leftTo (c : Cmd) : Cmd := if c.done = 0 then c else
  { c with out := c.out.drop c.done, flags := (c.out.drop c.done).foldl (fun f w => f ||| w.fl) (c.flags &&& ~~~orFlags (c.out.map ElemW.fl)) }

/-- R216: a streaming command computes from its sources as they stand, and from what it has read before. -/
def State.computeStream (s : State) (id : Nat) : State :=
  match s.cmd? id with
  | some c => (match c.kind with
    | .stream sl j none =>
      let r := j.run (c.taken.foldl (fun (m : Memory) w => m.writeN w.addr w.bytes) (s.streamView c))
      s.updCmd id (fun c => ({ c with kind := .stream sl j (some (r.b4, r.pat)), out := r.out, flags := r.flags } : Cmd).leftTo)
    | _ => s)
  | none => s

/-- R216, R217: a streaming command reads the source elements it has not read yet: what it will write and set is known from now on
(log 22). -/
def State.sampleStream (s : State) (id : Nat) : State :=
  match s.cmd? id with
  | some c => (match c.kind with
    | .stream _ j none => (j.spans.foldl (fun s x => s.touch x.1 x.2) s).computeStream id
    | _ => s)
  | none => s

/-- R216, R118: the store as a streaming command that issues now reads it. -/
def State.issueView (s : State) : Memory :=
  if s.cur.speculative then (s.cur.rest ++ s.cur.held).foldl (heldStore s.iss.core) s.mem else s.mem

/-- R214, R215: start a streaming command of the context in hand, for `S` cycles of its slot and `S + tail` to its completion. It
samples at issue when `now'`, for the sources have then been touched; else at a free cycle before its completion. -/
def State.stream (s : State) (slot tail S : Nat) (now' : Bool) (job : VJob) : Out :=
  let rem := S + tail
  if job.b4 && s.b4Busy rem then s.raise 5 causeSchedule (BitVec.ofNat 64 s.iss.widx)
  else
    let (x, s) := s.freeNat
    let samp := if now' then rem else 1 + x % rem
    let (id, s) := s.freshId
    let spec := s.cur.speculative
    let cmd : Cmd := { id := id, core := s.iss.core, h := s.iss.h, kind := .stream slot { job with samp := samp } none, tok := none,
                       st := .running, born := s.now, rem := rem, held := spec }
    let s := { s with cmds := s.cmds ++ [cmd] }
    let s := if spec then s.hold (.stream id) else s
    .next (if now' then s.computeStream id else if samp = rem then s.sampleStream id else s)

/-- R215, R216: an element write performs; a meeting write of another command may perform before it or after it. -/
def State.performElem (s : State) (cov : List (Nat × Nat)) (w : ElemW) : State :=
  s.writeAt w.addr w.bytes cov

/-- R215: perform the element writes of a command in element order. -/
def State.performElems (s : State) (cov : List (Nat × Nat)) (ws : List ElemW) : State := ws.foldl (fun s w => s.performElem cov w) s

/-- R215: a command completes: the writes left, their flags, `b4`, and the lane pattern. The scalar reaches a context that stands still for a freeze as
much later as it has stood (R383, R384). -/
def State.completeStream (s : State) (c : Cmd) : State :=
  let k := ctxKey c.core c.h
  match c.kind with
  | .stream _ j (some (v, pat)) =>
    let s := (s.dropCmd c.id).performElems (s.ctx k).released c.out
    s.updCtx k (fun x =>
      let x := x.setFlags c.flags
      let put4 := fun (n : Nat) (a : Arch) => { a with flights := a.flights ++ [{ rem := 1 + n, dst := .none, latch := some 4, val := v }] }
      let x := if j.b4 then { x with live := put4 x.heldFor x.live, snaps := x.snaps.map (fun y => { y with arch := put4 0 y.arch }) } else x
      if pat.isEmpty then x else x.setPattern pat)
  | _ => s

/-- R65, R215: the first `n` element writes of a command perform, and their flags are set, with `more` of the flags that no element write of it raises. -/
def State.runAhead (s : State) (c : Cmd) (n : Nat) (more : Flags) : State :=
  let k := ctxKey c.core c.h
  let fl := orFlags ((c.out.take n).map ElemW.fl) ||| (more &&& c.flags &&& ~~~orFlags (c.out.map ElemW.fl))
  ((s.updCmd c.id (fun x => x.after65 (c.out.drop n) fl)).performElems (s.ctx k).released (c.out.take n)).raiseFlags [(k, fl)]

/-- R65, R215, R228: a command still running that raises flags may have raised some by now: a free number of its writes, in element order, has performed
and set theirs, and of the flags of elements that it only reads, as `v.nfck` does, a free part is set (log 22). -/
def State.earlyFlag (k : Nat) (s : State) (c : Cmd) : State :=
  if ctxKey c.core c.h = k ∧ c.flags ≠ (0 : Flags) ∧ c.held = false ∧ s.standing c = false then
    let (n, s) := s.freeNat
    let (m, s) := s.freeNat
    s.runAhead c (n % (c.out.length + 1)) (BitVec.ofNat 5 m)
  else s

/-- R384, R65: a freeze stops a streaming command at a free element: the writes before it have performed, and their flags are set. The command goes on with
its context. -/
def State.settle384 (s : State) (c : Cmd) : State :=
  let frozen := (s.ctx (ctxKey c.core c.h)).frozen.isSome
  if !c.isStream || frozen == c.stopped then s
  else if !frozen then s.updCmd c.id (fun x => { x with stopped := false })
  else
    let s := if c.held || (c.out.isEmpty && c.flags == 0) then s else
      let (n, s) := s.freeNat
      let (m, s) := s.freeNat
      s.runAhead c (n % (c.out.length + 1)) (BitVec.ofNat 5 m)
    s.updCmd c.id (fun x => { x with stopped := true })

/-- R65, R228: of every command of a context. -/
def State.earlyFlags (s : State) (k : Nat) : State := s.cmds.foldl (State.earlyFlag k) s

/-- R217, R118: a squashed command writes nothing. -/
def State.squashStream (s : State) (id : Nat) : State := s.dropCmd id

/-- R237, R383: a load of the lane pattern whose context stands still, or makes up for having stood still, waits: an X word of that time uses the
pattern before. -/
def State.patternWaits (s : State) (c : Cmd) : Bool :=
  let x := s.ctx (ctxKey c.core c.h)
  c.loadsPattern && (x.frozen.isSome || x.thaw || x.holding s.now || x.heldFor != 0)

/-- R215: a V, F or X command completes. -/
def execStreamingCommandCompletion (id : Nat) (s : State) : Out :=
  match s.cmd? id with
  | some c => (match c.kind with
    | .stream _ _ _ =>
      if c.st == .running && decide (c.rem ≤ 1) && !c.held && !s.patternWaits c then
        let s := s.sampleStream id
        .next (match s.cmd? id with
          | some c => s.completeStream c
          | none => s)
      else .next s
    | _ => .next s)
  | none => .next s

end Sys2Proof.Machine
end

