-- ==== Sys2Proof/Machine/Privileged.lean ====
section
/-! DEFINITION. Control registers, and the P words but for saving and loading (R340 to R351, R381, R382, R388 to R391). -/

namespace Sys2Proof.Machine

/-! ### The control-register map (R342, R381) -/

/-- R342, R381: the largest `md` of a mapped control register. -/
def csrMax (n : Nat) : Option Nat :=
  if n = 0x002 ∨ n = 0x003 then some 1
  else if n = 0x005 then some 7
  else if n = 0x025 ∨ n = 0x026 ∨ n = 0x027 ∨ n = 0x048 then some 15
  else if n = 0x02A then some 3
  else if n = 0x078 ∨ n = 0x079 ∨ n = 0x07A then some 6
  else if [0x000, 0x001, 0x004, 0x010, 0x020, 0x021, 0x022, 0x023, 0x024, 0x028, 0x029, 0x02B, 0x040, 0x041, 0x042, 0x049, 0x050, 0x051,
      0x052, 0x060, 0x061, 0x062, 0x064, 0x065, 0x066, 0x068, 0x069, 0x06A, 0x06C, 0x06D, 0x06E, 0x070, 0x071, 0x072, 0x074, 0x075, 0x076,
      0x07C, 0x07D, 0x07E].contains n then some 0
  else none

/-- R381: the registers `csr.tsel` redirects. -/
def isTarget (n : Nat) : Bool := decide (n ≤ 0x005) || (decide (0x025 ≤ n) && decide (n ≤ 0x02A))

/-- R342, R381: registers a supervisor may only read. -/
def csrReadOnly (n : Nat) : Bool :=
  [0x010, 0x020, 0x022, 0x023, 0x040, 0x041, 0x042, 0x049, 0x051, 0x052].contains n || decide (0x064 ≤ n)

/-- R381: the context whose register a number reaches; none when the target is not frozen. -/
def State.csrCtx (s : State) (n : Nat) : Option Nat :=
  if isTarget n && s.cur.tselEn then
    let t := ctxKey s.iss.core s.cur.tselCtx.toNat
    if (s.ctx t).frozen.isSome then some t else none
  else some s.key

/-- R342: a register a context holds, its own or a target's. -/
def Ctx.csr (c : Ctx) (n md : Nat) : W64 := match n with
  | 0x000 => c.live.vstat.zeroExtend 64
  | 0x001 => c.live.coin
  | 0x002 => if md = 0 then c.lcsv0.pack.2 else c.lcsv0.pack.1
  | 0x003 => if md = 0 then c.lcsv1.pack.2 else c.lcsv1.pack.1
  | 0x004 => c.cpat
  | 0x005 => BitVec.ofNat 64 (ofBytes ((List.range 8).map (fun i => c.patByte (8 * md + i))))
  | 0x020 => c.tcause
  | 0x021 => c.tpc.zeroExtend 64
  | 0x022 => c.tval
  | 0x023 => c.tsrc
  | 0x024 => BitVec.ofNat 64 ((if c.tselEn then 2 ^ 15 else 0) + c.tselCtx.toNat)
  | 0x025 => c.live.readG md
  | 0x026 => c.live.readG (16 + md)
  | 0x027 => (c.live.desc md).pack
  | 0x028 => BitVec.ofNat 64 c.live.predByte
  | 0x029 => c.wdog.zeroExtend 64
  | 0x02A => let b := look {} c.brk md; BitVec.ofNat 64 (b.addr.toNat * 4 + if b.en then 1 else 0)
  | _ => c.tvec.zeroExtend 64

/-- R342, R381: write a register a context holds. Bits of `csr.vstat` written 1 are cleared (R64: W1C, R2). -/
def Ctx.setCsr (c : Ctx) (n md : Nat) (v : W64) : Ctx := match n with
  | 0x000 => { c with live := { c.live with vstat := clearFlags c.live.vstat v } }
  | 0x001 => { c with live := { c.live with coin := v } }
  | 0x002 => { c with lcsv0 := if md = 0 then c.lcsv0.setLow v else c.lcsv0.setHigh v }
  | 0x003 => { c with lcsv1 := if md = 0 then c.lcsv1.setLow v else c.lcsv1.setHigh v }
  | 0x004 => { c with cpat := v }
  | 0x005 => c.setPattern (((List.range 64).zip c.pattern).map (fun x =>
      if x.1 / 8 = md then v.extractLsb' (8 * (x.1 % 8)) 8 else x.2))
  | 0x021 => { c with tpc := v.extractLsb' 0 32 }
  | 0x024 => { c with tselEn := v.getLsbD 15, tselCtx := v.extractLsb' 0 3 }
  | 0x025 => { c with live := c.live.writeG md v }
  | 0x026 => { c with live := c.live.writeG (16 + md) v }
  | 0x027 => { c with live := { c.live with d := Machine.put c.live.d md (Desc.unpack v) } }
  | 0x028 => { c with live := { c.live with p := v.extractLsb' 0 8 ||| 1 } }
  | 0x029 => { c with wdog := v.extractLsb' 0 32 }
  | 0x02A => { c with brk := Machine.put c.brk md { addr := v.extractLsb' 2 30, en := v.getLsbD 0 } }
  | 0x02B => { c with tvec := v.extractLsb' 0 32 }
  | _ => c

/-- Numbers of the registers a context holds. -/
def isCtxCsr (n : Nat) : Bool := decide (n ≤ 0x005) || (decide (0x020 ≤ n) && decide (n ≤ 0x02B))

/-- R343: `csr.priv`. -/
def State.privWord (s : State) : W64 :=
  BitVec.ofNat 64 ((s.partOf s.iss.core).getD 0 * 256 + s.iss.h * 16 + if s.isSuper s.key then 1 else 0)

/-- R312 to R316, R342 to R351: the value of a register of the core, die, line or partition. -/
def State.csrAt (s : State) (n md : Nat) : Nat :=
  let core := s.iss.core
  let d := dieOf core
  let part := s.part ((s.partOf core).getD 16)
  let l := s.link d (n % 4)
  if n = 0x010 then s.privWord.toNat
  else if n = 0x040 then s.svmask core
  else if n = 0x041 then (match s.partOf core with
    | some p => 16 + p
    | none => 0)
  else if n = 0x042 then s.apown core
  else if n = 0x048 then (s.line md).synto.toNat
  else if n = 0x049 then (if part.lnk then 2 ^ 16 else 0) + part.lines.toNat
  else if n = 0x050 then
    (if (s.die d).evEn then 2 ^ 12 else 0) + (s.die d).evClu.toNat * 8 + (s.die d).evCore.toNat
  else if n = 0x052 then part.mbst
  else if n < 0x064 then l.ctl
  else if n < 0x068 then l.status
  else if n < 0x06C then l.flits
  else if n < 0x070 then l.crc
  else if n < 0x074 then l.rply
  else if n < 0x078 then l.lanesOut
  else if n < 0x07C then min (l.timeAt md s.now / 2 ^ 20) (2 ^ 32 - 1)
  else if n = 0x07C then (s.die d).inc.toNat
  else if n = 0x07D then (s.die d).stale % 2 ^ 32
  else (s.die d).rloss % 2 ^ 32

/-- R342, R348, R349: may the supervisor in hand write a register? -/
def State.csrMayWrite (s : State) (n md : Nat) : Bool :=
  let part := s.part ((s.partOf s.iss.core).getD 16)
  if csrReadOnly n then false
  else if n = 0x048 then part.lines.getLsbD md
  else if 0x050 ≤ n then part.lnk
  else true

/-- R308: queue a rate write behind those already made in this cycle by higher-numbered dies, so that the lowest acts last. -/
def rateWrite (d n r : Nat) : List Instr → List Instr
  | .linkRateWrite e m x :: es => if d ≤ e then .linkRateWrite e m x :: rateWrite d n r es else .linkRateWrite d n r :: .linkRateWrite e m x :: es
  | es => .linkRateWrite d n r :: es

/-- R345: may the supervisor in hand read a register? `csr.synto` of a line its partition does not own meets the protection trap, as a write does. -/
def State.csrMayRead (s : State) (n md : Nat) : Bool := n != 0x048 || (s.part ((s.partOf s.iss.core).getD 16)).lines.getLsbD md

/-- R342, R348, R349, R313: write a register of the line or die. -/
def State.setCsrAt (s : State) (n md : Nat) (v : W64) : State :=
  let d := dieOf s.iss.core
  if n = 0x048 then s.updLine md (fun l => { l with synto := v.extractLsb' 0 32 })
  else if n = 0x050 then
    s.updDie d (fun x => { x with evEn := v.getLsbD 12, evClu := v.extractLsb' 3 4, evCore := v.extractLsb' 0 3 })
  else
    let s := s.updLink d (n % 4) (fun l => { l with abo := v.getLsbD 16, rthr := v.extractLsb' 8 8 })
    { s with agenda := rateWrite d (n % 4) (v.toNat % 8) s.agenda }

/-! ### Frames of the words -/

/-- R106, R111, R104: the frame of a P word other than `p.trap`. -/
def State.pword (s : State) (legal g : Bool) (body : State → Out) : Out :=
  if !legal then s.illegal
  else if !s.isSuper s.key then s.raise 4 causeProtection (s.iss.word.zeroExtend 64)
  else if s.annulled g then .next s
  else body s

/-- R342: does a word name a control register that exists? -/
def mapped (f : PV) : Bool := match csrMax f.csr.toNat with
  | some m => decide (f.md.toNat ≤ m)
  | none => false

/-- R112, R342, R381: a word that names a control register: first unmapped numbers, then its privilege, then a write collision of its result (`busy`),
then targets that are not frozen and refused writes. A word on `csr.vstat` finds the flags of element writes that commands of its context have made
by now (R65). -/
def State.withCsr (s : State) (legal : Bool) (f : PV) (write busy : Bool) (body : Nat → State → Out) : Out :=
  if legal && !s.annulled f.g && !mapped f then s.illegal
  else s.pword legal f.g (fun s =>
    let n := f.csr.toNat
    if busy then s.raise 5 causeSchedule (BitVec.ofNat 64 s.iss.widx)
    else match s.csrCtx n with
    | none => s.raise 6 causeProtection (BitVec.ofNat 64 n)
    | some k =>
      if !s.csrMayRead n f.md.toNat || (write && !s.csrMayWrite n f.md.toNat) then s.raise 6 causeProtection (BitVec.ofNat 64 n)
      else body k (if n = 0 then s.earlyFlags k else s))

/-- R389: the value of the register a word names; a read of `csr.mbox` pops it (R351). -/
def State.csrRead (s : State) (k n md : Nat) : W64 × State :=
  if isCtxCsr n then ((s.ctx k).csr n md, s)
  else if n = 0x051 then s.popMailbox ((s.partOf s.iss.core).getD 16)
  else (BitVec.ofNat 64 (s.csrAt n md), s)

/-- R389: write the register a word names. -/
def State.csrWrite (s : State) (k n md : Nat) (v : W64) : State :=
  if isCtxCsr n then s.updCtx k (fun c => c.setCsr n md v) else s.setCsrAt n md v

/-! ### The PV words (R389) -/

/-- R389, R380, R401: the user trap; of a supervisor, a monitor call or a supervisor fault. -/
def execPTrap (f : PV) (s : State) : Out :=
  s.word (Instr.pTrap f).wf f.g (fun s => s.raise 6 causeUser (f.csr.zeroExtend 64))

/-- R391: the supervisor's writes drain at package scope; then the frame ends. -/
def execPEret (f : PV) (s : State) : Out :=
  s.pword (Instr.pEret f).wf f.g (fun s =>
    if s.cur.frame.isNone then s.illegalHere
    else .next { (s.updCur (fun c => { c with eret := some f.md.toNat, drain := some { scope := 3, fence := false, at_ := s.iss.when_ } })) with
      agenda := .drainCompletion s.key :: s.agenda })

/-- R389. -/
def execPCsrr (f : PV) (s : State) : Out :=
  s.withCsr (Instr.pCsrr f).wf f false (s.cur.live.collides (.g f.sa.toNat) 2) (fun k s =>
    let (v, t) := s.csrRead k f.csr.toNat f.md.toNat
    t.result (.g f.sa.toNat) 2 (some 0) v)

/-- R389. -/
def execPCsrw (f : PV) (s : State) : Out :=
  s.withCsr (Instr.pCsrw f).wf f true false (fun k s =>
    .next (s.csrWrite k f.csr.toNat f.md.toNat (s.value f.sa)))

/-- R389. -/
def execPCsrs (f : PV) (s : State) : Out :=
  s.withCsr (Instr.pCsrs f).wf f true false (fun k s =>
    .next (s.csrWrite k f.csr.toNat f.md.toNat ((s.csrRead k f.csr.toNat f.md.toNat).1 ||| s.value f.sa)))

/-- R389. -/
def execPCsrc (f : PV) (s : State) : Out :=
  s.withCsr (Instr.pCsrc f).wf f true false (fun k s =>
    .next (s.csrWrite k f.csr.toNat f.md.toNat ((s.csrRead k f.csr.toNat f.md.toNat).1 &&& ~~~(s.value f.sa))))

/-! ### The TQ words (R390) -/

/-- R390, R376: invalidate cached translations. -/
def execPTlbi (f : TQ) (s : State) : Out :=
  s.pword (Instr.pTlbi f).wf f.g (fun s =>
    let va := s.value f.sp + extUnsigned 0 0 s.iss.ext
    if 2 ^ 57 ≤ va.toNat then s.raise 6 causeTranslation va
    else s.withToken f (fun s =>
      .next ((s.accept f prioP (.tlbi (if f.sub.getLsbD 0 then none else some va.toNat)) none false []).updCmd s.nextId
        (fun c => { c with st := .running }))))

/-- R390, R376: the invalidation takes effect, and its token signals. -/
def execTlbInvalidationCompletion (id : Nat) (s : State) : Out :=
  match s.cmd? id with
  | some c => (match c.kind with
    | .tlbi va => .next ((s.invalidateAll ((s.partOf c.core).getD 16) va).complete id)
    | _ => .next s)
  | none => .next s

/-- R390: wait for an event: one that waits is taken at once, and the context keeps the issue stage (R20). -/
def execPHalt (f : TQ) (s : State) : Out :=
  s.pword (Instr.pHalt f).wf f.g (fun s =>
    if s.cur.frame.isSome then s.illegalHere
    else
      let waiting := !(s.waitingFor s.key).isEmpty
      let s := s.updCur (fun c => { c with halted := true })
      .next (if waiting then { s with agenda := .eventTake s.key :: s.agenda }
        else s.updCore s.iss.core (fun x => if x.primary = s.iss.h then { x with choosing := true } else x)))

/-- R390: the contexts of a core that a `p.pmt` acts on. -/
def State.pmtActs (s : State) (core mask : Nat) (res : Bool) : List Nat :=
  ((bitsSet 8 mask).map (ctxKey core)).filter (fun k =>
    let c := s.ctx k
    (c.role == .unit || c.role == .handler) &&
      (if res then c.frozen == some 15 && c.why.getLsbD 0 else c.frozen.isNone || c.frozen == some 15))

/-- R390, R385: pre-empt, within the halt bound of 3,000 cycles, or resume. -/
def State.pmt (s : State) (f : TQ) (core : Nat) : State :=
  let res := f.sub.getLsbD 8
  let ks := s.pmtActs core (f.sub.toNat % 256) res
  let (id, s) := s.freshId
  let s := s.armIf s.key f.kw f.k.toNat
  let s := if f.kw then ks.foldl (fun s k => s.updCtx k (fun c => { c with
      pmtWait := (id, s.key * 8 + f.k.toNat + if res then 2 ^ 15 else 0) :: c.pmtWait })) s else s
  let s := if f.kw && ks.isEmpty then s.endTok s.key f.k.toNat false false false else s
  let s := ks.foldl (fun s k => if res then s.releaseFor k 0 else
    let (j, s) := s.freeNat
    s.haltFor k 0 (s.now + 1 + j % 2996)) s
  s.status prioP (BitVec.ofNat 64 (maskOf (ks.map keyCtx)))

/-- R390. -/
def execPPmt (f : TQ) (s : State) : Out :=
  s.pword (Instr.pPmt f).wf f.g (fun s =>
    let a := s.value f.sp + extUnsigned 0 0 s.iss.ext
    if decide (2 ^ 32 ≤ a.toNat) || gsaOff a.toNat != 0 || !coreExists (gsaCore a.toNat) then s.raise 6 causeAddress a
    else if !s.sameParts s.iss.core (gsaCore a.toNat) then s.raise 6 causeProtection a
    else s.withToken f (fun s => .next (s.pmt f (gsaCore a.toNat))))

end Sys2Proof.Machine
end

