-- ==== Sys2Proof/Machine/Save.lean ====
section
/-! DEFINITION. Saving and loading contexts and the stores of a core (R387, R392). -/

namespace Sys2Proof.Machine

/-! ### The context save block (R387) -/

/-- The little-endian bytes of doublewords. -/
def words8 (vs : List W64) : List Byte := vs.flatMap (fun v => bytesOf 8 v.toNat)

/-- R387: the kind byte of a command; the spec gives no codes (log 40). -/
def Cmd.areaKind (c : Cmd) : Nat := match c.kind with
  | .stream _ _ _ => 1
  | .product _ => 2
  | .move _ => 3
  | .array _ => 4
  | .copy _ _ => 5
  | .sort _ => 6
  | _ => 0

/-- R387: the streaming slot or ADC group of a command. -/
def Cmd.areaSlot (c : Cmd) : Nat := match c.kind with
  | .stream sl _ _ => sl
  | .array es => (es.head?.map AEntry.grp).getD 0
  | _ => 0

/-- R384: elements, rows, chunks, tokens or columns of a command that are done; those of all its entries for an array command. -/
def Cmd.progress (c : Cmd) : Nat := match c.kind with
  | .array es => (es.map AEntry.done).foldl (· + ·) 0
  | _ => c.done

/-- R384: has a command begun, so that a freeze stopped it? -/
def Cmd.begun (c : Cmd) : Bool := c.st == .running || c.progress != 0 || match c.kind with
  | .array es => es.any (fun e => e.st != .queued)
  | _ => false

/-- R387: a region as the record of a streaming command holds it (log 40). -/
def Region.save (r : Region) : List Byte :=
  bytesOf 4 (r.base % 2 ^ 23) ++ bytesOf 2 (r.stride % 65536).toNat ++ bytesOf 2 r.count ++ bytesOf 1 r.fmt
/-- R387: a region of the same core with what such a record holds. -/
def Region.load (r : Region) (b : List Byte) (o : Nat) : Region :=
  { base := r.base / 2 ^ 23 * 2 ^ 23 + fld b o 4 % 2 ^ 23, stride := sfld b (o + 4) 2, count := fld b (o + 6) 2, fmt := fld b (o + 8) 1 }

/-- R387: the sampled record of a streaming command (log 40): its word, `kwid`, scalar and coin, its regions, and the lane pattern of a command that uses
one. -/
def VJob.save (j : VJob) : List Byte :=
  bytesOf 4 ((encode j.word).getD 0).toNat ++ bytesOf 4 j.kw ++ bytesOf 8 j.sv.toNat ++ bytesOf 8 j.coin.toNat ++ j.dd.save ++ j.da.save ++
    (if j.pat.isEmpty then j.db.save ++ j.dc.save else j.pat)
/-- R387: a streaming command of the same word with what such a record holds. -/
def VJob.load (j : VJob) (b : List Byte) : VJob :=
  let j := { j with kw := fld b 4 4, sv := BitVec.ofNat 64 (fld b 8 8), coin := BitVec.ofNat 64 (fld b 16 8), dd := j.dd.load b 24, da := j.da.load b 33 }
  if j.pat.isEmpty then { j with db := j.db.load b 42, dc := j.dc.load b 51 } else { j with pat := (b.drop 42).take 64 }

/-- R387: the sampled record of a command; a streaming one has none of the spec's. -/
def Cmd.record (c : Cmd) : List Byte := padTo 112 (match c.kind with
  | .stream _ j _ => j.save
  | _ => c.raw)

/-- R387: one entry of the engine area; the progress is the count of elements or steps done, with the number `id` of the save above it (log 40). -/
def Cmd.areaEntry (c : Cmd) (id gtab : Nat) : List Byte :=
  [BitVec.ofNat 8 c.areaKind, if c.begun then 1 else 0] ++ bytesOf 2 c.areaSlot ++ bytesOf 1 gtab ++ [0, 0, 0] ++
    bytesOf 8 (id * 2 ^ 32 + c.progress % 2 ^ 32) ++ c.record

/-- R387: the engine area; an unused entry names the save alone. -/
def engineArea (id : Nat) : List Cmd → Nat → List Byte
  | [], _ => []
  | c :: cs, g => if c.isGrouped then c.areaEntry id g ++ engineArea id cs (g + 1) else c.areaEntry id 0xFF ++ engineArea id cs g

/-- R387: one entry of the replay buffer. -/
def Flight.entry (f : Flight) : List Byte :=
  let reg := match f.dst with
    | .g n => n
    | .p n => 64 + n
    | _ => 0xFF
  bytesOf 1 reg ++ bytesOf 1 (f.latch.getD 0xFF) ++ bytesOf 2 f.rem ++ [0, 0, 0, 0] ++ bytesOf 8 f.val.toNat

/-- R383: what the block shows of registers: a descriptor in flight and flags in flight have no replay entry, so they are already set. -/
def Arch.settled (a : Arch) : Arch :=
  let isD := fun (f : Flight) => match f.dst with
    | .d _ _ => true
    | _ => false
  { ((a.flights.filter isD).foldl Arch.deliver a) with
    flights := a.flights.filter (fun f => !isD f), vstat := a.flights.foldl (fun v f => v ||| f.fl) a.vstat }

/-- R387: the block of a context; `id` names the save, `cs` are its commands. -/
def Ctx.block (c : Ctx) (id : Nat) (cs : List Cmd) : List Byte :=
  let a := c.live.settled
  let lp := fun (l : Loop) => words8 [l.pack.2, l.pack.1]
  let r := List.range
  words8 ((r 32).map a.readG) ++ words8 ((r 16).map (fun i => (a.desc i).pack)) ++
  bytesOf 4 a.pc.toNat ++ bytesOf 1 a.predByte ++ bytesOf 1 (c.frozen.getD 15) ++
  (match c.syncTo with
    | some l => bytesOf 1 (1 + 16 * l)
    | none => [0]) ++ [0] ++
  words8 [a.coin, a.vstat.zeroExtend 64, c.cpat] ++ lp c.lcsv0 ++ lp c.lcsv1 ++ words8 ((r 6).map a.readB) ++
  words8 [c.wdog.zeroExtend 64, BitVec.ofNat 64 c.ctime] ++ c.pattern ++
  words8 ((r 8).map (fun i => BitVec.ofNat 64 (c.token i).word)) ++ words8 ((r 4).map (c.csr 0x02A)) ++
  (r 4).flatMap (fun q => bytesOf 4 (a.queue q).length) ++ (r 4).flatMap (fun q => bytesOf 2 (a.queue (4 + q)).length) ++ bytesOf 8 0 ++
  bytesOf 4 (gsaOf c.origin 0) ++ List.replicate 60 0 ++
  padTo 1024 (a.flights.flatMap Flight.entry ++ (r (64 - a.flights.length)).flatMap (fun _ => bytesOf 16 0xFFFF)) ++
  (r 4).flatMap (fun q => padTo 512 (words8 (a.queue (4 + q)))) ++
  padTo 8192 (engineArea id cs 0 ++ (r (64 - cs.length)).flatMap (fun _ => bytesOf 16 (id * 2 ^ 96) ++ List.replicate 112 0)) ++
  padTo 24576 ((r 4).flatMap (fun q => words8 (a.queue q))) ++ List.replicate 256 0 ++
  padTo 16384 ((cs.filter Cmd.isGrouped).flatMap (fun x => padTo 2048 (x.raw.drop 112)))

/-- A doubleword of bytes. -/
def word8 (b : List Byte) (o : Nat) : W64 := BitVec.ofNat 64 (fld b o 8)

/-- R387: a loop register of the block. -/
def loopAt (b : List Byte) (o : Nat) : Loop := (({} : Loop).setLow (word8 b o)).setHigh (word8 b (o + 8))

/-- R387: the results in flight of the block. -/
def flightsAt (b : List Byte) : List Flight :=
  (List.range 64).filterMap (fun i =>
    let o := 0x300 + 16 * i
    let reg := fld b o 1
    let lat := fld b (o + 1) 1
    if reg = 0xFF ∧ lat = 0xFF then none
    else some { rem := fld b (o + 2) 2, val := word8 b (o + 8), latch := if lat = 0xFF then none else some lat, prio := 0,
                dst := if reg < 32 then .g reg else if 64 ≤ reg ∧ reg < 72 then .p (reg - 64) else .none })

/-- R387: the queue entries of the block. -/
def queuesAt (b : List Byte) : SMap (List W64) :=
  let n := fun q => fld b (0x2A0 + 4 * q) 4
  let starts := fun q => ((List.range q).map n).foldl (· + ·) 0
  (List.range 4).map (fun q => (q, (List.range (n q)).map (fun i => word8 b (0x2F00 + 8 * (starts q + i))))) ++
  (List.range 4).map (fun q => (4 + q, (List.range (fld b (0x2B0 + 2 * q) 2)).map (fun i => word8 b (0x700 + 512 * q + 8 * i))))

/-- R186: a token from the word `q.tokst` gives. -/
def tokenAt (w : Nat) : Token := { cnt := w / 2 ^ 16 % 2 ^ 16, part := w.testBit 3, nres := w.testBit 2, err := w.testBit 1 }

/-- R387: a block loaded into a context that held `c` when it was saved. -/
def Ctx.load (c : Ctx) (b : List Byte) : Ctx :=
  let live : Arch :=
    { pc := BitVec.ofNat 32 (fld b 0x180 4), g := (List.range 31).map (fun i => (i + 1, word8 b (8 * (i + 1)))),
      p := BitVec.ofNat 8 (fld b 0x184 1) ||| 1, b := (List.range 6).map (fun i => (i, word8 b (0x1C0 + 8 * i))),
      d := (List.range 16).map (fun i => (i, Desc.unpack (word8 b (0x100 + 8 * i)))), coin := word8 b 0x188,
      vstat := (word8 b 0x190).extractLsb' 0 5, q := queuesAt b, flights := flightsAt b }
  { c with
    frozen := some 15, why := 1, live := live, snaps := [], trapHold := none, pend := none, cpat := word8 b 0x198,
    lcsv0 := loopAt b 0x1A0, lcsv1 := loopAt b 0x1B0, wdog := BitVec.ofNat 32 (fld b 0x1F0 4), ctime := fld b 0x1F8 8,
    xpat := (List.range 64).map (fun i => (i, BitVec.ofNat 8 (fld b (0x200 + i) 1))),
    tok := (List.range 8).map (fun i => (i, tokenAt (fld b (0x240 + 8 * i) 8))),
    brk := (List.range 4).map (fun i => (i, { addr := (word8 b (0x280 + 8 * i)).extractLsb' 2 30, en := (word8 b (0x280 + 8 * i)).getLsbD 0 })),
    syncTo := if fld b 0x186 1 % 2 = 1 then some (fld b 0x186 1 / 16) else none,
    origin := gsaCore (fld b 0x2C0 4) }

/-! ### Moving what refers to a context -/

/-- Another name for a number. -/
def renamed (a b k : Nat) : Nat := if k = a then b else k

/-- The entry of a table under another key. -/
def moveKey {α : Type} (d : α) (a b : Nat) (m : SMap α) : SMap α := if has m a then put (drop1 m a) b (look d m a) else m

/-- Everything that refers to context `a` refers to `b` from now on, and its state moves there. -/
def State.rename (s : State) (a b : Nat) : State :=
  let r := renamed a b
  let tk := fun (t : Nat × Nat) => (r t.1, t.2)
  { s with
    ctxs := (moveKey {} a b s.ctxs).map (fun e : Nat × Ctx => (e.1, { e.2 with asg := e.2.asg.map r })),
    msgs := s.msgs.map (fun m : Msg => { m with dest := r m.dest }),
    cmds := s.cmds.map (fun c : Cmd => if ctxKey c.core c.h = a then { c with core := keyCore b, h := keyCtx b } else c),
    units := s.units.map (fun e : Nat × Unit => (e.1, { e.2 with keys := e.2.keys.map r, open_ := e.2.open_.map r })),
    pipes := s.pipes.map (fun p : Pipe => { p with prod := r p.prod, cons := r p.cons }),
    lines := s.lines.map (fun e : Nat × Line => (e.1, {
      e.2 with
      members := e.2.members.map r, arr := e.2.arr.map (fun x => (r x.1, x.2)), offs := moveKey [] a b e.2.offs,
      lag := moveKey 0 a b e.2.lag, lastOff := moveKey 0 a b e.2.lastOff })),
    levels := s.levels.map (fun e : Nat × Level => (e.1, { e.2 with toks := e.2.toks.map tk })),
    slots := s.slots.map (fun e : Nat × Slot => (e.1, { e.2 with toks := e.2.toks.map tk, waitToks := e.2.waitToks.map tk })) }

/-- The commands of a context, in their order. -/
def State.cmdsOf (s : State) (k : Nat) : List Cmd := s.cmds.filter (fun c => ctxKey c.core c.h == k && c.owned && c.inEngineArea)

/-- R392: after a complete save with `.rel`, the context is free; what still comes for it waits on the shelf (R385). -/
def State.relContext (s : State) (k id : Nat) : State :=
  let s := s.endPmt k (fun _ => true)
  let t := s.rename k (shelfKey id)
  let t := t.updCtx (shelfKey id) (fun c => { c with live := { c.live with q := [] } })
  { t with cmds := t.cmds.map (fun c => if ctxKey c.core c.h = shelfKey id then { c with owned := false } else c) }

/-- R387: the number of the save a block comes from. -/
def blockId (b : List Byte) : Nat := fld b (0x0F00 + 12) 4

/-- R273 to R297: what a command does, read from a record and the tables of a grouped one in place of those it was made from, with the barrier that
stands there; none where its word would reject them. `owns` are the pairs that the tables may name, `pairOf` the pair map. -/
def CmdKind.reread (x : CmdKind) (grouped : Bool) (pairOf : Nat → Nat) (owns : Nat → Bool) (rec tab : List Byte) : Option (CmdKind × Option Nat) :=
  let cnts := tab.take 256
  let offs := (tab.drop 256).take 256
  let bar := fun (o : Nat) => barTok (fld rec o 1)
  match x with
  | .stream sl j _ => some (.stream sl (j.load rec) none, none)
  | .product p =>
    if productOk p.grouped rec && !(p.grouped && (badGroup rec cnts offs).isSome) then some (.product (p.ofRecord rec cnts offs), bar 0x0D) else none
  | .move m => if m.op != .zclr && moveOk m.op rec then some (.move (m.ofRecord rec), bar 0x0A) else none
  | .copy r readers => if copyOk rec then some (.copy (copyOf rec r.fmts) readers, none) else none
  | .sort _ => if sortOk rec then some (.sort (sortOf rec), none) else none
  | .array es => match es with
    | [] => none
    | e :: _ =>
      if grouped then
        let recs := [rec, [], cnts, offs, tab.drop 512]
        if groupedOk e.op.form rec && (badGroups e.op.form (fld rec 0x1C 1) recs owns).isNone then
          let xs := ({ e with st := .queued, rem := 0, done := 0, early := none } : AEntry).ofGroups pairOf recs
          some (.array (if xs.length = es.length then List.zipWith (fun (x y : AEntry) => { x with st := y.st, rem := y.rem, done := y.done }) xs es else xs),
                bar 0x1D)
        else none
      else if (e.op.recordOk rec).1 then some (.array [({ e with early := none } : AEntry).ofRecord rec], (e.op.recordOk rec).2.bind bar) else none
  | _ => none

/-- R384, R387: a command stopped at a progress, or not started, where its save left it otherwise. -/
def Cmd.standAt (c : Cmd) (stopped : Bool) (prog : Nat) : Cmd :=
  if c.begun = stopped ∧ c.progress % 2 ^ 32 = prog then c
  else
    let at_ := fun (d : Nat) => if stopped then d / 2 ^ 32 * 2 ^ 32 + prog else 0
    match c.kind with
    | .array [e] => { c with kind := .array [{ e with done := at_ e.done, st := if stopped then e.st else .queued }] }
    | .array _ => c
    | .stream sl j _ => { c with kind := .stream sl j none, done := at_ 0, out := [], flags := 0, taken := [] }
    | _ => { c with done := at_ c.done }

/-- R387: a saved command as an entry of the engine area gives it: where the record or the tables there are not those of the save, the command does what
they say (log 40). -/
def Cmd.fromArea (c : Cmd) (pairOf : Nat → Nat) (owns : Nat → Bool) (stopped : Bool) (prog : Nat) (rec tab : List Byte) : Cmd :=
  let same := rec = c.record ∧ (!c.isGrouped ∨ tab = padTo 2048 (c.raw.drop 112))
  let c := if same then c else match c.kind.reread c.isGrouped pairOf owns rec tab with
    | some (x, bar) => { c with
        kind := x, bar := if stopped then none else bar, out := [], flags := 0, taken := [],
        raw := if c.isStream then [] else if c.isGrouped then rec ++ tab else rec }
    | none => c
  c.standAt stopped prog

/-- R387: may a command stand under the slot number of an entry? A V command may take another V slot; a grouped one names a table slot. -/
def Cmd.slotOk (c : Cmd) (sl gtab : Nat) : Bool := match c.kind with
  | .stream old _ _ => sl == old || (decide (sl < 3) && decide (old < 3))
  | _ => !c.isGrouped || decide (gtab < 8)

/-- R387: a V command in the slot that an entry names. -/
def Cmd.inSlot (c : Cmd) (sl : Nat) : Cmd := match c.kind with
  | .stream _ j d => { c with kind := .stream sl j d }
  | _ => c

/-- R387: the commands of a save, `cs`, as the engine area of a block has them, in its order: each with the state, progress, slot, record and tables
that stand there; an entry of another kind is none of them (log 40). -/
def areaCmds (b : List Byte) (pairOf : Nat → Nat) (owns : Nat → Bool) (cs : List Cmd) : List Cmd :=
  (List.zip (List.range cs.length) cs).filterMap (fun x =>
    let o := 0x0F00 + 128 * x.1
    let gtab := fld b (o + 4) 1
    let sl := fld b (o + 2) 2
    if fld b o 1 = x.2.areaKind ∧ x.2.slotOk sl gtab then
      some ((x.2.inSlot sl).fromArea pairOf owns (decide (fld b (o + 1) 1 = 1)) (fld b (o + 8) 4) ((b.drop (o + 16)).take 112)
        (if x.2.isGrouped then (b.drop (0x9000 + 2048 * gtab)).take 2048 else []))
    else none)

/-- R385: a token of a block, with the signals that have come for it since its context was saved. -/
def Token.since (t saved now : Token) : Token :=
  { cnt := t.cnt - (saved.cnt - now.cnt), part := t.part || now.part, nres := t.nres || now.nres, err := t.err || now.err }

/-- Commands of an old snapshot, again, with numbers of their own; `ids` pairs the old numbers with the new ones. -/
def State.reissue (s : State) (k : Nat) (ids : List (Nat × Nat)) : List Cmd → State
  | [] => s
  | c :: cs =>
    let (id, s) := s.freshId
    State.reissue { s with cmds := s.cmds ++ [{ c with
        id := id, core := keyCore k, h := keyCtx k, st := if c.isStream then c.st else .queued, born := s.now,
        after := c.after.filterMap (fun a => (ids.find? (fun x => x.1 == a)).map Prod.snd) }] } k ((c.id, id) :: ids) cs

/-- R387, R278, R347: the commands of a save as a block that context `k` has loaded has them; none on a pair that its partition no longer owns. -/
def State.areaCmds (s : State) (k : Nat) (b : List Byte) (cs : List Cmd) : List Cmd :=
  let pairOf := (s.ctx k).mapPair
  let owns := fun (p : Nat) => (s.apown (keyCore k)).testBit p
  (Machine.areaCmds b pairOf (fun v => owns (pairOf v)) cs).filter (fun c => match c.kind with
    | .array es => es.all (fun e => owns e.pair)
    | _ => true)

/-- R392, R385, R387: a block is loaded into a free context, with the commands its engine area names: with what has come for it since it was released
(signals of its tokens, queue entries, the votes or the timeout of its sync line), or, when it was not released, as saved. -/
def State.loadContext (s : State) (k : Nat) (b : List Byte) (run : Bool) : State :=
  let id := blockId b
  let key := shelfKey id
  let old := look {} s.shelf id
  let role := fun (r : Role) => if r == .handler then Role.handler else .unit
  let s :=
    if has s.ctxs key then
      let w := s.ctx key
      let s := (s.setCtx k {}).rename key k
      let c := w.load b
      let s := s.setCtx k { c with
        role := role w.role, pendSync := w.pendSync, asg := (s.ctx k).asg,
        tok := (List.range 8).map (fun i => (i, (c.token i).since (old.ctx.token i) (w.token i))),
        syncTo := if w.syncTo = old.ctx.syncTo then c.syncTo else w.syncTo,
        live := { c.live with p := if w.pendSync = old.ctx.pendSync then c.live.p else (c.live.p &&& 127) ||| (w.live.p &&& 128),
                              q := (List.range 8).map (fun q => (q, c.live.queue q ++ w.live.queue q)) } }
      let kept := s.areaCmds k b (old.cmds.map (fun x => (s.cmd? x.id).getD x))
      { s with cmds := s.cmds.filterMap (fun c : Cmd =>
          if ctxKey c.core c.h ≠ k then some c
          else if old.cmds.any (fun x => x.id == c.id) then (kept.find? (fun x => x.id == c.id)).map (fun x => { x with owned := true })
          else some { c with owned := true }) }
    else
      let s := s.setCtx k { (old.ctx.load b) with role := role old.ctx.role, img := if old.ctx.img = 0 then (s.core (keyCore k)).image.getD 0 else old.ctx.img }
      s.reissue k [] (s.areaCmds k b old.cmds)
  let s := s.updCtx k (fun c => { c with why := c.why ||| s.heldAtStart (keyCore k) })
  if run then s.releaseFor k 0 else s

/-! ### The words (R392) -/

/-- R392: a save or load record. -/
def saveRecOk (b : List Byte) : Bool :=
  decide (fld b 0 4 % 2 ^ 23 = 0) && coreExists (gsaCore (fld b 0 4)) && decide (fld b 4 1 ≤ 7)

/-- R392: bytes of a part. -/
def partBytes (part : Nat) : Nat := match part with
  | 0 => 53248
  | 1 => 0x400000
  | 2 => 0x300000
  | 3 => 0x40000
  | _ => 32832

/-- R72, R392: every context of the core is frozen, free or dormant. A context that a unit holds in reserve is not free (R357), and a supervisor at
`p.halt` is neither frozen nor free (R390). -/
def State.coreStill (s : State) (core : Nat) : Bool :=
  (List.range 8).all (fun h =>
    let c := s.ctx (ctxKey core h)
    c.frozen.isSome || c.role == .free || c.role == .dormant)

/-- R392: does the target meet the condition of its part? -/
def State.targetOk (s : State) (load : Bool) (part core h : Nat) : Bool :=
  let k := ctxKey core h
  match part with
  | 0 => if load then (s.ctx k).role == .free && (s.ctx k).frozen.isNone
    else ((s.ctx k).role == .unit || (s.ctx k).role == .handler) && s.quiescent k
  | 2 => s.coreStill core && !(List.range 192).any (s.tileBusy core)
  | 4 => s.coreStill core && !s.cmds.any (fun c => c.core == core && c.isA && s.queuedOrRuns c)
  | _ => s.coreStill core

/-- R392: the block names another core as its origin. -/
def State.elsewhere (s : State) (core va : Nat) : Bool :=
  match s.virtBytes ((s.partOf core).getD 16) (va + 0x2C0) 4 with
  | some b => gsaCore (ofBytes b) != core
  | none => false

/-- R392: what `p.ctxsv` and `p.ctxld` do with their record. -/
def State.moveWord (s : State) (f : TQ) (load : Bool) (b : List Byte) : State :=
  let core := gsaCore (fld b 0 4)
  let h := fld b 4 1
  let va := fld b 8 8
  let part := f.sub.toNat % 8
  if !saveRecOk b then s.reject f prioP 1
  else if !s.targetOk load part core h then s.reject f prioP 2
  else if load && part == 0 && s.elsewhere core va then s.reject f prioP 3
  else
    let id := s.nextId
    let (e, s) := s.freeNat
    let s := (s.accept f prioP (.ctxmove load part core h va (f.sub.getLsbD 3)) none false b).updCmd id (fun c => { c with
      st := .running, rem := memFigure (dieOf core) (s.walk ((s.partOf core).getD 16) va) + (partBytes part - 1) / 256,
      eng := s.engineFor core e })
    if load && part == 0 then s.setCtx (ctxKey core h) { role := .loaded, frozen := some 15 } else s

/-- R392, R345: the word with its record; a core of another partition raises the protection trap. -/
def State.moveTrap (s : State) (f : TQ) (load : Bool) (b : List Byte) : Out :=
  if saveRecOk b && !s.sameParts s.iss.core (gsaCore (fld b 0 4)) then s.raise 6 causeProtection (BitVec.ofNat 64 (fld b 0 4))
  else .next (s.moveWord f load b)

/-- R392. -/
def execPCtxsv (f : TQ) (s : State) : Out :=
  s.pword (Instr.pCtxsv f).wf f.g (fun s => s.withRecord f 16 (fun b s => s.moveTrap f false b))

/-- R392. -/
def execPCtxld (f : TQ) (s : State) : Out :=
  s.pword (Instr.pCtxld f).wf f.g (fun s => s.withRecord f 16 (fun b s => s.moveTrap f true b))

/-! ### The move -/

/-- R392: the bytes of a part of a core. -/
def State.partOut (s : State) (part core h id : Nat) : List Byte := match part with
  | 0 => (s.ctx (ctxKey core h)).block id (s.cmdsOf (ctxKey core h))
  | 1 => s.mem.readN (gsaOf core 0) 0x400000
  | 2 => s.mem.readN (gsaOf core 0x400000) 0x300000
  | 3 => s.mem.readN (obKey core 0 0) 0x40000
  | _ =>
    let adc := fun g => look {} (s.core core).adc g
    (List.range 8).flatMap (fun g => (List.range 1024).flatMap (fun l => bytesOf 4 ((adc g).lane l).toNat)) ++
      (List.range 8).flatMap (fun g => bytesOf 8 (adc g).flags.toNat)

/-- R392: the bytes of a part put in place. -/
def State.partIn (s : State) (part core h : Nat) (run : Bool) (b : List Byte) : State := match part with
  | 0 => s.loadContext (ctxKey core h) b run
  | 1 => { s with mem := (s.mem.clear (gsaOf core 0) 0x400000).writeN (gsaOf core 0) b }
  | 2 => { s with mem := (s.mem.clear (gsaOf core 0x400000) 0x300000).writeN (gsaOf core 0x400000) b }
  | 3 => { s with mem := (s.mem.clear (obKey core 0 0) 0x40000).writeN (obKey core 0 0) b }
  | _ => s.updCore core (fun x => { x with adc := (List.range 8).map (fun g =>
      (g, { (look {} x.adc g) with
            flags := BitVec.ofNat 4 (fld b (32768 + 8 * g) 8),
            lanes := (List.range 1024).map (fun l => (l, BitVec.ofNat 32 (fld b (4096 * g + 4 * l) 4))) })) })

/-- Write a list of pieces to virtual memory: whether a page was not resident, or why it stopped. -/
def State.writeChunks (s : State) (core : Nat) : List (List Byte) → Nat → Bool → Host.Outcome (Bool × State) (Nat × State) State
  | [], _, nr => .next (nr, s)
  | b :: bs, va, nr => match s.spot core 1 va b.length false true with
    | (.fault va, s) => .fault (va, s)
    | (.wait, s) => .refused s
    | (p, s) => State.writeChunks (s.putSpot [] p b) core bs (va + b.length) (nr || p == .nonres)

/-- Read `n` pieces of `sz` bytes from virtual memory: the bytes (those of a page that is not resident read as zero, R75), whether a page was not
resident, and where a fault stopped it, which has the bytes before it; none while it waits. -/
def State.readChunks (s : State) (core sz : Nat) : Nat → Nat → Option (List Byte × Bool × Option Nat × State)
  | 0, _ => some ([], false, none, s)
  | n + 1, va => match s.spot core 1 va sz true false with
    | (.fault va, s) => some ([], false, some va, s)
    | (.wait, _) => none
    | (p, s) =>
      let (b, s) := s.getSpot p sz
      (State.readChunks s core sz n (va + sz)).map (fun r => (b ++ r.1, r.2.1 || p == .nonres, r.2.2))

/-- R72, R73, R392: does the target of a save or load still stand as its part asks? The bytes of an operand buffer move under R72's whole condition: no
tile is busy (R73). -/
def State.targetStill (s : State) (load : Bool) (part core h : Nat) : Bool :=
  if load && part == 0 then (s.ctx (ctxKey core h)).role == .loaded
  else s.targetOk load part core h && (part != 3 || !(List.range 192).any (s.tileBusy core))

/-- R392, R75, R193: what a load of a part has read is put in place: all of a part that it read whole, the bytes before a fault, and with a page that is not
resident everything, its bytes as zero; a context is loaded only whole. -/
def State.loaded (s : State) (part core h : Nat) (run whole : Bool) (b : List Byte) : State :=
  if part = 0 then if whole then s.partIn 0 core h run b else s
  else if whole then s.partIn part core h run b
  else s.partIn part core h run (b ++ (s.partOut part core h 0).drop b.length)

/-- R392: a save or load moves its bytes and ends; while its target does not stand as its part asks, it waits. A block whose pages were not resident at
issue and that names another core as its origin is not loaded, and ends with `err` (log 87). -/
def moveDone (id : Nat) (c : Cmd) (load : Bool) (part core h va : Nat) (opt : Bool) (s : State) : Out :=
  let k := ctxKey core h
  let drop := fun (s : State) => if load && part == 0 then s.setCtx k {} else s
  let failed := fun (s : State) (va : Nat) => drop (s.updCmd id (fun c => { c with err := true, fault := some va }))
  if c.fault.isSome || decide (1 < c.rem) || !s.targetStill load part core h then .next s
  else if load then
    match s.readChunks core 64 (partBytes part / 64) va with
    | none => .next s
    | some (b, _, some a, s) => .next (failed (s.loaded part core h opt false b) a)
    | some (b, nr, none, s) =>
      if nr then .next ((drop ((s.loaded part core h opt false b).updCmd id (fun c => { c with nres := true, err := true }))).complete id)
      else if part = 0 ∧ gsaCore (fld b 0x2C0 4) ≠ core then .next ((drop (s.updCmd id (fun c => { c with err := true }))).complete id)
      else .next ((s.loaded part core h opt true b).complete id)
  else
    let (n, s1) := s.freshId
    let bs := s1.partOut part core h n
    match s1.writeChunks core (chunksOf 64 (bs.length / 64 + 1) bs) va false with
    | .refused _ => .next s
    | .fault (a, s) => .next (failed s a)
    | .next (nr, s) =>
      if nr then .next ((s.updCmd id (fun c => { c with nres := true, err := true })).complete id)
      else if part ≠ 0 then .next (s.complete id)
      else
        let s : State := { s with shelf := put s.shelf n { ctx := s.ctx k, cmds := s.cmdsOf k } }
        .next ((if opt then s.relContext k n else s).complete id)

/-- R195, R392: a copy, a save or a load completes. -/
def execCopyCompletion (id : Nat) (s : State) : Out :=
  match s.cmd? id with
  | some c => (match c.kind with
    | .ctxmove load part core h va opt => moveDone id c load part core h va opt s
    | _ => copyDone id s)
  | none => .next s

end Sys2Proof.Machine
end

