-- ==== Sys2Proof/Machine/Start.lean ====
section
/-! DEFINITION. Supervisors, die reset, cold and warm starts, power domains (R309 to R316, R341, R346, R394, R404 to R406, R412, R416,
R417). -/

namespace Sys2Proof.Machine

/-! ### Supervisors and cores at rest -/

/-- R341, R416: a supervisor context at the entry of its partition's image; it stands there while something holds it. -/
def State.startSupervisor (s : State) (part k : Nat) : State :=
  s.setCtx k { role := .supervisor, img := (s.part part).img, origin := keyCore k, live := { pc := BitVec.ofNat 32 (s.part part).entry },
               why := s.heldAtStart (keyCore k), frozen := if s.heldAtStart (keyCore k) = 0 then none else some 15 }

/-- R341: the supervisor contexts of a core start: not in P3, where it is its return to P0 that starts them (R412), nor for a partition that has faulted
(R402). -/
def State.startSupervisors (s : State) (core : Nat) : State := match s.partOf core with
  | some p =>
    if look 0 s.power (clusterIndex core) = 3 ∨ (s.part p).faulted then s
    else ((List.range 8).filter (fun h => (s.part p).svm.getLsbD h)).foldl (fun s h => s.startSupervisor p (ctxKey core h)) s
  | none => s

/-- R206, R412: a core that was without power: what stays are its arrays, and the count and code of its claims, which only a die reset ends. -/
def Core.cleared (x : Core) : Core := { pairs := x.pairs, claim := x.claim, claims := x.claims }

/-- R206, R346: a core that changes hands: its ADC groups stay too. -/
def Core.moved (x : Core) : Core := { x.cleared with adc := x.adc }

/-- R206, R296, R404, R406, R416: a core of a die that is reset: what stays are its arrays; every group is seeded as with value 0. -/
def Core.reset (x : Core) : Core := { pairs := x.pairs }

/-- R346, R412, R416: scratchpad, accumulators and operand buffers of a core are written with zeros. -/
def State.zeroStores (s : State) (core : Nat) : State :=
  { s with mem := (s.mem.clear (gsaOf core 0) 0x700000).clear (obKey core 0 0) 0x40000 }

/-- The context keys of cores a test picks, with those that hold something. -/
def State.keysWhere (s : State) (p : Nat → Bool) : List Nat := (s.ctxs.filter (fun e => p (keyCore e.1))).map Prod.fst

/-- R391, R412, R416: every unit and handler run of some cores ends as by an unhandled trap; those that had exited go on ending. -/
def State.killAll (s : State) (p : Nat → Bool) : State :=
  (s.keysWhere p).foldl (fun s k =>
    let c := s.ctx k
    if (c.role == .unit || c.role == .handler) && !c.exiting then s.killRun k
    else if c.role == .loaded then s.setCtx k {} else s) s

/-- The commands and buffered accesses of some cores are gone, with what their contexts waited for. -/
def State.dropWork (s : State) (p : Nat → Bool) : State :=
  { s with
    cmds := s.cmds.filter (fun c : Cmd => !p c.core),
    msgs := s.msgs.filter (fun m : Msg => !(p m.core && (m.stage == .table || m.stage == .cluster || m.stage == .ring || gsaCore m.addr == m.core))),
    ctxs := s.ctxs.map (fun e : Nat × Ctx => (e.1, if p (keyCore e.1) then
      if e.2.role == .free then {}
        else if e.2.exiting then { e.2 with put := none, pgq := none, frozen := none, live := {}, xpat := [], cpat := 0 }
        else { e.2 with put := none, pgq := none }
      else e.2)) }

/-- R346, R412, R416: some cores lose their digital state, but for what `f` keeps of a core, supervisors with it. -/
def State.clearCores (s : State) (f : Core → Core) (cores : List Nat) : State :=
  let p := fun c => cores.contains c
  let s := (s.killAll p).dropWork p
  let s := (s.keysWhere p).foldl (fun s k => if (s.ctx k).role == .supervisor then (s.freeCtx k).setCtx k {} else s) s
  let s : State := { s with mon := { s.mon with calls := s.mon.calls.filter (fun x => !p (keyCore x.1)) } }
  cores.foldl (fun s c => (s.zeroStores c).updCore c f) s

/-! ### Die reset (R315, R316, R416, R417) -/

/-- R316: does a copy have a side on a die? -/
def State.copyOn (s : State) (c : Cmd) (d : Nat) : Bool := match c.kind with
  | .copy r _ => (List.range r.transfers).any (fun t => (r.sides t).any (fun x =>
      if x.1 = 1 then (s.pageDies ((s.partOf c.core).getD 16) x.2.1 (s.moved c.core r t x.2.2.1 x.2.2.2.1)).contains d else dieOf (gsaCore x.2.1) == d))
  | .ctxmove _ part core _ va _ => dieOf core == d || (s.pageDies ((s.partOf core).getD 16) va (partBytes part)).contains d
  | _ => false

/-- R316: copies of other dies with a side on a die that is reset complete with `err`. -/
def State.endCopies (s : State) (d : Nat) : State :=
  (s.cmds.filter (fun c => dieOf c.core != d && s.copyOn c d)).foldl
    (fun s c => ((s.updCmd c.id (fun c => { c with err := true })).complete c.id).filledBy c) s

/-- R316, R323: a collective transfer with a side on that die is counted as denied; so is each send that waits for a source there. -/
def State.denyTransfers (s : State) (d : Nat) : State :=
  let rec_ := fun (t : CollTransfer) => (s.slot ((t.own.map Prod.fst).getD 0)).crec
  let there := fun (t : CollTransfer) (w : Nat × Nat × Nat) => (s.sourceDies (rec_ t) t.part w.1 ((rec_ t).tlen * (rec_ t).esz)).contains d
  let on := fun (t : CollTransfer) => t.dies.contains d || match t.kind with
    | .away _ => false
    | .held sends => sends.all (there t)
    | _ => if t.virt then (s.pageDies t.part t.addr t.data.length).contains d else dieOf (gsaCore t.addr) == d
  let peers := s.xfers.flatMap (fun t => match t.own, t.kind with
    | some (slot, _), .held sends => (sends.filter (there t)).map (fun w => (slot, w.2.2))
    | some x, _ => if on t then [x] else []
    | none, _ => [])
  let left := (s.xfers.filter (fun t => !on t)).map (fun t => match t.kind with
    | .held sends => { t with kind := .held (sends.filter (fun w => !there t w)) }
    | _ => t)
  peers.foldl (fun s x => s.refuse x.1 x.2) { s with xfers := left }

/-- R406, R416: does a die's image still have the measurement recorded at the last cold start? -/
def State.imageUnchanged (s : State) (d : Nat) : Bool :=
  let b := look (Config.flashImage d) s.mon.flash d
  match sigOf b with
  | some o => sha512 (sub b 0 o) == (s.die d).meas
  | none => false

/-- The cores of a die. -/
def coresOf (d : Nat) : List Nat := allCores.filter (fun c => dieOf c == d)

/-- R315: requests of a die from before its last reset have performed before the next one is complete, so that no response is older than one
incarnation; an `m.sth` among them, whose handler may have to wait, goes on, and its acknowledgement is of no incarnation that comes (log 92). -/
def State.finishOld (s : State) (d : Nat) : State :=
  (s.msgs.filter (fun m => dieOf m.core == d && m.stage == .far && m.inc != (s.die d).inc.toNat)).foldl (fun s m => match m.kind with
    | .sth _ => s.updMsg m.id (fun m => { m with inc := 16 })
    | _ =>
      let (s, m) := s.performLocal m s.mem (fun n => (look 0 (s.core (gsaCore m.addr)).fmt n).toNat)
      s.updMsg m.id (fun _ => m)) s

/-- R315: the responses that routers held for a die are delivered to it before its reset is complete, and dropped there. -/
def State.dropResponses (s : State) (d : Nat) : State :=
  (s.msgs.filter (fun m => dieOf m.core == d && m.stage == .done)).foldl
    (fun s m => if dieOf (gsaCore m.addr) = d then s.dropMsg m.id else s.staleResponse m) s

/-- R353, R354: round-robin pointers and placement pointers that a die's scheduler holds are 0. -/
def State.resetPointers (s : State) (d : Nat) : State :=
  ({ s with parts := s.parts.map (fun e : Nat × Part => (e.1, { e.2 with ptr := drop1 e.2.ptr d })) }).updDie d (fun x => { x with rr := [] })

/-- R416: reset a die. -/
def State.resetDie (s : State) (d : Nat) : State :=
  let shelved := (s.ctxs.filter (fun e => decide (2 ^ 20 ≤ e.1) && dieOf e.2.origin == d)).map Prod.fst
  let s := shelved.foldl (fun s k => s.killRun k) s
  let s := s.clearCores Core.reset (coresOf d)
  let s := (s.msgs.filter (fun m => dieOf m.core != d && dieOf (gsaCore m.addr) == d && !(m.stage == .done && m.home))).foldl State.endAccess s
  let s := (s.endCopies d).denyTransfers d
  let ok := s.imageUnchanged d
  let s := (List.range 3).foldl (fun s n => (s.takeDown d n).updLink d n (fun l => l.zeroed s.now)) s
  let s := ((s.finishOld d).resetPointers d).updDie d (fun x => { x with
    inc := x.inc + 1, tlb := [], evq := [], evwait := [], failed := !ok, stale := 0, rloss := 0,
    fwlvl := if ok then Config.imageLevel (look (Config.flashImage d) s.mon.flash d) else 0 })
  let s := s.dropResponses d
  if ok then
    let s := (List.range 3).foldl (fun s n => (s.trainLink d n).retrain d n) s
    ((coresOf d).foldl State.startSupervisors s).notice d 1
  else s.notice d 2

/-! ### Starts (R404 to R406) -/

/-- R299, R404: σ of every pair of a core without an owner is measured: values within the range of R279, free (log 45). -/
def State.calibrate (s : State) (core : Nat) : State :=
  s.updCore core (fun x => { x with pairs := (List.range 32).foldl (fun ps a =>
    if look 255 s.owners (core * 32 + a) ≠ 255 then ps
    else put ps a { look {} ps a with sigma := (List.range 512).map (fun j =>
      (j, (((Config.freeNat (s.free + (core * 32 + a) * 512 + j) % 255 : Nat) : Int) - 127))) }) x.pairs })

/-- R346, R347: the event by which the service that waits with a request goes on. -/
def againOf (req : Nat) : Instr := if req < 2 ^ 8 then .destroyPartition else if req < 2 ^ 50 then .reassignCluster else .setPairOwner

/-- What a start leaves of events to come: those from outside; a service that waits and jobs about to start are gone with it. -/
def State.outside (s : State) : List (Nat × Instr) :=
  (match s.mon.waits with
    | some req => (s.inputs.reverse.eraseP (fun x : Nat × Instr => x.2 == againOf req)).reverse
    | none => s.inputs).filter (fun x => match x.2 with
      | .jobStart _ _ => false
      | _ => true)

/-- R406, R404: nothing of the digital state of the compute dies and of Causeway's engines survives a start, and no service or call; arrays, pair owners and
the memories of the package do. A start ends the debug-unlocked state and a freeze (R409, R414). -/
def State.cleared (s : State) : State :=
  { s with
    mon := { s.mon with busy := false, waits := none, noDispatch := 0, calls := [], nonce := none, frozen := false,
                        lc := if s.mon.lc = 2 then 1 else s.mon.lc, caps := 0 },
    agenda := match s.mon.waits with
      | some req => s.agenda.filter (· != againOf req)
      | none => s.agenda,
    mem := s.mem.filter (fun c => decide (2 ^ 41 ≤ c.1)), tags := [], msgs := [], cmds := [], ctxs := [],
    cores := s.cores.map (fun e : Nat × Core => (e.1, e.2.reset)),
    dies := s.dies.map (fun e : Nat × Die => (e.1, { inc := e.2.inc, meas := e.2.meas })),
    links := s.links.map (fun e : Nat × LinkEnd => (e.1, { e.2.zeroed s.now with vcs := [], credit := [] })),
    flying := [], mbs := [], lines := [], parts := [], slots := [], xfers := [], levels := [], units := [], pipes := [], cancels := [],
    cwEvq := [], cwEvwait := [], power := [], waking := [], selfRef := [], saved := [], shelf := [], turn := [], inputs := s.outside }

/-- R404, R406: each die has its image. -/
def State.startDies (s : State) (inc : Die → BitVec 4) : State :=
  (List.range 4).foldl (fun s d =>
    let b := look (Config.flashImage d) s.mon.flash d
    s.updDie d (fun x => { inc := inc x, fwlvl := Config.imageLevel b, meas := measurementOf b })) s

/-- R404, R406, R312: the links train at step 2 (cold) or retrain (warm); their counters start at 0. -/
def State.trainAll (s : State) : State :=
  let s := (List.range 4).foldl (fun s d => (s.trainLink d 0).trainLink d 2) s
  { s with links := s.links.map (fun e : Nat × LinkEnd => (e.1, e.2.zeroed s.now)) }

/-- R404: has every die a working path? -/
def State.pathsOk (s : State) : Bool := (List.range 4).all (fun d => (List.range 3).any (fun n => (s.link d n).up))

/-- R404, R398: the monitor is at a stage. -/
def State.atStage (s : State) (n : Nat) : State := { s with mon := { s.mon with stage := n } }

/-- R404, R411: stage 8: ready. The key registers are loaded in the secure state. -/
def Mon.started (m : Mon) : Mon :=
  { m with stage := 8, fail := 0, keyReg := if m.lc = 1 ∧ !m.keyKilled then m.idKey else m.keyReg }

/-- R404: stages 2 and 3: self-test, fuses; which of them fail is free (log 46). Where one fails, the attempt is over. -/
def State.testStages (s : State) : Bool × State :=
  let (tests, s) := (s.atStage 2).freeBit
  if !tests then (false, s)
  else
    let (fuses, s) := (s.atStage 3).freeBit
    (fuses, if fuses then { s with mon := { s.mon with metaBase := (List.range 4).map (fun d => (d, Config.metaBase d)) } } else s)

/-- R404, R406: links and HBM train, in the stages named; whether the stacks can be trained is free (log 46). -/
def State.trainStages (s : State) (links hbm : Nat) : Bool × State :=
  let s := (s.atStage links).trainAll
  if !s.pathsOk then (false, s)
  else
    let (ok, s) := (s.atStage hbm).freeBit
    (ok, s)

/-- R5, R6, R404: stages 6 and 7: the images, calibration (free, log 46). `fwlvl` is 0 until stage 6 has taken the images of all four dies, whatever the
stages after it find: a die whose own image verifies while another's does not shows no level, which is the model's choice (log 98). -/
def State.loadStages (s : State) : Bool × State :=
  let s := s.atStage 6
  if !(List.range 4).all (fun d => s.dieImageOk (look (Config.flashImage d) s.mon.flash d)) then (false, s)
  else
    let (groups, s) := ((s.startDies (fun _ => 0)).atStage 7).freeBit
    if !groups then (false, s)
    else
      let s := allCores.foldl State.calibrate s
      (true, { s with mon := { s.mon with ageFrom := s.now }, free := s.free + 512 * 32 * 512 })

/-- R404: one cold-start attempt: whether it succeeds, and the state it ends in, `stage` at the stage that failed. The stages take no time of the model
(log 46). -/
def State.coldAttempt (s : State) : Bool × State :=
  let s := s.cleared
  let s : State := { s with mon := { s.mon with stage := 1, status := 0, seq := 0, buf := 0, len := 0 }, links := [] }
  match s.testStages with
  | (false, s) => (false, s)
  | (true, s) => match s.trainStages 4 5 with
    | (false, s) => (false, s)
    | (true, s) => match s.loadStages with
      | (false, s) => (false, s)
      | (true, s) => (true, { s with mon := s.mon.started })

/-- R405: cold-start attempts until one succeeds or the third in a row has failed. -/
def State.coldStart : Nat → State → State
  | 0, s => s
  | n + 1, s => match s.coldAttempt with
    | (true, s) => s
    | (false, s) =>
      if s.mon.fail < 2 then State.coldStart n { s with mon := { s.mon with fail := s.mon.fail + 1 } }
      else { s with mon := { s.mon with fail := 3, stage := 9 } }

/-- R406, R405: a warm start: links and HBM retrain; an image that has changed turns it into a cold-start attempt; a die left without a path, or a stack that
cannot be trained, makes it a failed attempt. -/
def State.warmStart (s : State) : State :=
  match (s.cleared.atStage 10).trainStages 10 10 with
  | (false, s) =>
    if s.mon.fail < 2 then State.coldStart 3 { s with mon := { s.mon with fail := s.mon.fail + 1 } }
    else { s with mon := { s.mon with fail := 3, stage := 9 } }
  | (true, s) =>
    if (List.range 4).all s.imageUnchanged then
      let s := s.startDies (fun x => x.inc + 1)
      { s with mon := s.mon.started }
    else s.coldStart 3

/-- R404: power is applied: the first cold-start attempt. -/
def execPowerOn (s : State) : Out := .next (s.coldStart 3)

/-- R404: a fundamental reset of the host port. -/
def execPcieFundamentalReset (s : State) : Out := .next (s.coldStart 3)

/-- R418: an uncorrectable error resets the die. -/
def execUncorrectableError (die : Nat) (s : State) : Out := if 4 ≤ die then .fault .noSuchAgent else .next (s.resetDie die)

/-- R418: a corrected error is counted, and changes nothing a program sees. -/
def execCorrectedError (die : Nat) (s : State) : Out :=
  if 4 ≤ die then .fault .noSuchAgent else .next { s with mon := { s.mon with corr := put s.mon.corr die (look 0 s.mon.corr die + 1) } }

/-! ### Power (R394, R412) -/

/-- The cores of a cluster, by 12·die + cluster. -/
def coresOfCluster (cl : Nat) : List Nat := (List.range 8).map (fun i => coreId (cl / 12) (cl % 12) i)

/-- R394: does a core hold live tiles? -/
def State.liveTiles (s : State) (core : Nat) : Bool :=
  (List.range 8).any (fun h => let c := s.ctx (ctxKey core h); c.role == .unit || c.role == .handler || c.role == .loaded)

/-- R394: the clusters of a stack (4·die + stack). -/
def clustersOfStack (st : Nat) : List Nat := (List.range 3).map (fun i => 12 * (st / 4) + 3 * (st % 4) + i)

/-- R394: where the tiles of a core go in the reserved area of its stack. -/
def reservedKey (core : Nat) : Nat :=
  let cl := clusterOf core
  hbmKey (Config.reservedBase (4 * dieOf core + cl / 3) + (8 * (cl % 3) + coreInCluster core) * 0x300000)

/-- R394: save the tiles of a core to the reserved area. -/
def State.saveTiles (s : State) (core : Nat) : State :=
  { s with mem := (s.mem.clear (reservedKey core) 0x300000).writeN (reservedKey core) (s.mem.readN (gsaOf core 0x400000) 0x300000) }

/-- R394, R412: put them back. -/
def State.restoreTiles (s : State) (core : Nat) : State :=
  { s with mem := (s.mem.clear (gsaOf core 0x400000) 0x300000).writeN (gsaOf core 0x400000) (s.mem.readN (reservedKey core) 0x300000) }

/-- R413: is a core debug-halted or traced? -/
def State.debugged (s : State) (core : Nat) : Bool :=
  (s.core core).trace.isSome || (s.core core).halted || (List.range 8).any (fun h => (s.ctx (ctxKey core h)).why.getLsbD 1)

/-- R412: a cluster sets out for P0: within 200 cycles from P1, 20 µs from P2, 2 ms from P3. -/
def State.wakeCluster (s : State) (cl : Nat) : State :=
  let p := look 0 s.power cl
  if p = 0 ∨ has s.waking cl then s
  else
    let (j, s) := s.freeNat
    { s with waking := put s.waking cl (s.now + 1 + j % (if p = 1 then 200 else if p = 2 then 40000 else 4000000)) }

/-- R394, R412: a cluster to P1 or P2: its contexts are frozen. -/
def State.sleepCluster (s : State) (cl p : Nat) : State :=
  let ks := (coresOfCluster cl).flatMap (fun c => (List.range 8).map (ctxKey c))
  let s := ks.foldl (fun s k => if (s.ctx k).role == .free || (s.ctx k).role == .reserved then s else s.haltFor k 2 (s.now + 1)) s
  { s with power := put s.power cl p, waking := drop1 s.waking cl }

/-- R394, R412: a cluster to P3, its tiles saved first when `save`. -/
def State.offCluster (s : State) (cl : Nat) (save : Bool) : State :=
  let cs := coresOfCluster cl
  let s := if save then cs.foldl State.saveTiles s else s
  let s := s.clearCores Core.cleared cs
  { s with power := put s.power cl 3, waking := drop1 s.waking cl, saved := put s.saved cl save }

/-- R394: a request for a cluster: 0 done, 1 busy. -/
def State.clusterRequest (s : State) (cl target : Nat) (force : Bool) : Nat × State :=
  let cs := coresOfCluster cl
  match target with
  | 0 => (0, s.wakeCluster cl)
  | 3 =>
    if look 0 s.power cl = 3 then (0, { s with waking := drop1 s.waking cl })
    else if cs.any s.debugged then (1, s)
    else if cs.any s.liveTiles then (if force then (0, s.offCluster cl true) else (1, s))
    else (0, s.offCluster cl false)
  | p => if look 0 s.power cl = 3 then (0, s) else (0, s.sleepCluster cl p)

/-- R394: a request for a stack: 0 done, 1 busy. Forced, it saves the tiles of the clusters that have power; what a forced request for P3 has saved stays. -/
def State.stackRequest (s : State) (st : Nat) (enter force : Bool) : Nat × State :=
  let cs := (clustersOfStack st).flatMap coresOfCluster
  if !enter then (0, { s with selfRef := put s.selfRef st false })
  else if !cs.any s.liveTiles then (0, { s with selfRef := put s.selfRef st true })
  else if force then
    (0, { ((cs.filter (fun c => look 0 s.power (clusterIndex c) != 3)).foldl State.saveTiles s) with selfRef := put s.selfRef st true })
  else (1, s)

/-- R394, R401: a power request of a partition: 0 done, 1 busy, 2 refused when it does not own the domain. -/
def State.powerReq (s : State) (part g1 g2 g3 : Nat) : Nat × State :=
  let d := g1 / 16 % 4
  let i := g1 % 16
  let p := s.part part
  if g1.testBit 15 then
    if decide (4 ≤ i) || !(List.range 64).all (fun c => p.pchan.testBit (256 * d + 64 * i + c)) then (2, s)
    else s.stackRequest (4 * d + i) (g2.testBit 0) (g3.testBit 0)
  else if decide (12 ≤ i) || !p.clusters.testBit (12 * d + i) then (2, s)
  else s.clusterRequest (12 * d + i) (g2 % 4) (g3.testBit 0)

/-- R412, R394: a cluster is back in P0: from P3 its registers and stores are zero, also what has been written there without power, its tiles restored when they were saved, its
supervisors restarted; from P1 and P2 its contexts go on. -/
def execReturnToP0 (die cluster : Nat) (s : State) : Out :=
  if 4 ≤ die ∨ 12 ≤ cluster then .fault .noSuchAgent
  else
    let cl := 12 * die + cluster
    let p := look 0 s.power cl
    if p = 0 ∨ !has s.waking cl ∨ s.now + 1 < look 0 s.waking cl then .next s
    else
      let cs := coresOfCluster cl
      let s : State := { s with power := drop1 s.power cl, waking := drop1 s.waking cl }
      .next (if p = 3 then
          let s := s.clearCores Core.cleared cs
          let s := if look false s.saved cl then cs.foldl State.restoreTiles s else s
          cs.foldl State.startSupervisors { s with saved := drop1 s.saved cl }
        else (cs.flatMap (fun c => (List.range 8).map (ctxKey c))).foldl (fun s k => if (s.ctx k).why.getLsbD 2 then s.releaseFor k 2 else s) s)

end Sys2Proof.Machine
end

