-- ==== Sys2Proof/Machine/Monitor.lean ====
section
/-! DEFINITION. The monitor: calls of supervisors, services of the host (R346, R347, R390 to R418). -/

namespace Sys2Proof.Machine

/-! ### Monitor calls (R401) -/

/-- R401: the address of the bundle after the one at an address. -/
def State.afterBundle (s : State) (img : Nat) (pc : BitVec 32) : BitVec 32 := match s.fetch img pc with
  | .bundle b => b.next
  | .trap _ _ => pc + 4

/-- R401: a call ends: its status is in `g1`, and the context goes on at the bundle after its `p.trap`, with all else as it was. One that something else
holds is frozen there; one that the call itself has left without power is gone (R412). -/
def State.endCall (s : State) (k st : Nat) : State :=
  let s : State := { s with mon := { s.mon with calls := s.mon.calls.filter (fun x => x.1 != k) } }
  let c := s.ctx k
  if !s.isSuper k || c.frozen != some 8 then s
  else
    let next := s.afterBundle c.img c.live.pc
    let s := s.updCtx k (fun c => { c with live := { c.live.writeG 1 (BitVec.ofNat 64 st) with pc := next } })
    if c.why ≠ 0 then s.freeze k 15
    else (s.updCtx k (fun c => { c with frozen := none, keepLatch := true, thaw := true })).reenter k

/-- R399: does the monitor turn to the call of a context: the oldest that waits, with no service of the host running? -/
def State.callNext (s : State) (k : Nat) : Bool := !s.mon.busy && (s.mon.calls.head?.map Prod.fst) == some k

/-- R401: the monitor turns to the call of this context, and it is call `n`. -/
def State.callReady (s : State) (k n : Nat) : Bool := !s.mon.busy && s.mon.calls.head? == some (k, n)

/-- R401, R394: call 0. -/
def execMonitorPowerCall (k : Nat) (s : State) : Out :=
  if !s.callReady k 0 then .next s
  else
    let g := fun n => ((s.ctx k).live.readG n).toNat
    let (st, s) := s.powerReq ((s.partOf (keyCore k)).getD 16) (g 1) (g 2) (g 3)
    .next (s.endCall k st)

/-- R401, R372, R374: set the root of the page tables of a partition: 0, or 3 when the table is not aligned or not owned. -/
def State.setRoot (s : State) (part pa : Nat) : Nat × State :=
  if pa % 0x20000 ≠ 0 ∨ !s.ownsFrame (s.part part) false pa 0x20000 then (3, s)
  else (0, (s.updPart part (fun p => { p with ptroot := pa })).invalidateAll part none)

/-- R401: call 1; a number that names no call gives 3. -/
def execMonitorPageTableRootCall (k : Nat) (s : State) : Out :=
  if s.callReady k 1 then
    let (st, s) := s.setRoot ((s.partOf (keyCore k)).getD 16) ((s.ctx k).live.readG 1).toNat
    .next (s.endCall k st)
  else if s.callNext k ∧ !s.callReady k 0 then .next (s.endCall k 3)
  else .next s

/-! ### The service block (R397, R398) -/

/-- R398: the status word. -/
def Mon.stat (m : Mon) : Nat :=
  (if m.busy then 2 ^ 31 else 0) + m.fail % 16 * 2 ^ 20 + m.lc % 16 * 2 ^ 16 + m.stage % 16 * 2 ^ 12 + m.status % 2 ^ 8

/-- R397, R402: bit p is set while partition p has faulted. -/
def State.pflt (s : State) : Nat := maskOf ((List.range 16).filter (fun p => (s.part p).faulted))

/-- R397: the service block as the host reads it; what a read of the write-only `cmd` gives is the `cmd` here, which the spec leaves open. -/
def State.serviceBlock (s : State) (cmd : W32) : List Byte :=
  bytesOf 4 cmd.toNat ++ bytesOf 4 s.mon.stat ++ bytesOf 8 s.mon.buf ++ bytesOf 4 s.mon.len ++ bytesOf 4 s.mon.seq ++ bytesOf 2 s.pflt ++
    List.replicate 38 0

/-- R411: what a debug read or a scan gives of the key registers. -/
def Mon.keyScan (m : Mon) : List Byte := if m.lc = 1 then List.replicate 512 0 else padTo 512 m.keyReg

/-! ### Services (R399, R400) -/

/-- The request buffer. -/
def State.request (s : State) (n : Nat) : List Byte := s.mem.readN (hostKey s.mon.buf) n

/-- R399: a service completes with a status; its response is in the buffer. -/
def State.finishService (s : State) (st : Nat) (resp : List Byte) : State :=
  { s with mem := s.mem.writeN (hostKey s.mon.buf) resp, mon := { s.mon with busy := false, status := st, seq := (s.mon.seq + 1) % 2 ^ 32 } }

/-- R399, R400, R405, R414: the frame of a service: what a frozen package and recovery accept, the lifecycle states it is accepted in, the
buffer it needs; then what it does. -/
def State.serve (s : State) (code : Nat) (lcs : List Nat) (need : Nat) (body : State → Out) : Out :=
  if s.mon.busy then .next s
  else if s.mon.frozen && code != 0x01 && code != 0x16 then .next (s.finishService 2 [])
  else if s.mon.stage == 9 && code != 0x01 && code != 0x19 then .next (s.finishService 2 [])
  else if s.mon.stage != 9 && code == 0x19 then .next (s.finishService 2 [])
  else if !lcs.contains s.mon.lc then .next (s.finishService 4 [])
  else if s.mon.len < need then .next (s.finishService 3 [])
  else body s

/-- A service that completes at once: its own effect, a status and a response. -/
def State.service (s : State) (code : Nat) (lcs : List Nat) (need : Nat) (body : State → Nat × List Byte × State) : Out :=
  s.serve code lcs need (fun s =>
    let (st, resp, s) := body s
    .next (s.finishService st resp))

/-- All lifecycle states. -/
def lcAll : List Nat := [0, 1, 2, 3]

/-- R407: the identity response. -/
def State.identity (s : State) : List Byte :=
  let d := fun i => s.die i
  let r := List.range 4
  bytesOf 8 Config.serial.toNat ++ bytesOf 1 s.mon.lc ++ r.map (fun i => (d i).fwlvl) ++ [0, 0, 0] ++ r.map (fun i => (d i).inc.zeroExtend 8) ++
    List.replicate 12 0 ++ r.flatMap (fun i => bytesOf 8 (look 0 s.mon.corr i)) ++ padTo 64 Config.cwMeasurement ++
    r.flatMap (fun i => padTo 64 (d i).meas) ++ padTo 512 s.mon.idModulus ++ bytesOf 4 s.mon.idExponent ++ List.replicate 12 0

/-- R400, R407. -/
def execReadIdentity (s : State) : Out := s.service 0x01 lcAll 912 (fun s => (0, s.identity, s))

/-- R408: the attested bytes. -/
def State.report (s : State) (nonce : List Byte) : List Byte :=
  bytesOf 2 0x4154 ++ bytesOf 1 s.mon.lc ++ List.replicate 5 0 ++ bytesOf 8 Config.serial.toNat ++ padTo 32 nonce ++
    padTo 64 Config.cwMeasurement ++ (List.range 4).flatMap (fun i => padTo 64 (s.die i).meas)

/-- R400, R408, R411: the report is signed with what the key registers hold: zeros after an unlock, until a start loads them again. -/
def execAttest (s : State) : Out :=
  s.service 0x02 [1] 880 (fun s => let b := s.report (s.request 32); (0, b ++ rsaSign s.mon.idModulus s.mon.keyReg b, s))

/-- R400, R410. -/
def execChallenge (s : State) : Out :=
  s.service 0x03 [1] 32 (fun s =>
    let (n, s) := State.freeBytes 32 s
    (0, n, { s with mon := { s.mon with nonce := some n } }))

/-- R410: is a token accepted for a slot? -/
def State.tokenOk (s : State) (t : List Byte) (slot : Nat) : Bool :=
  fld t 0 2 == 0x554C && fld t 2 1 == slot && decide (fld t 3 1 < 8) && fld t 8 8 == Config.serial.toNat && s.mon.nonce == some (sub t 0x10 32) &&
    sha512 (sub t 0x230 512) == s.fusedHash slot &&
    rsaVerify (sub t 0x230 512) Config.tokenExponent (sha512 (sub t 0 0x30)) (sub t 0x30 512)

/-- R410: every attempt consumes the nonce; an accepted one has its effect. -/
def State.useToken (s : State) (slot : Nat) (effect : Nat → Mon → Mon) : Nat × List Byte × State :=
  let t := s.request 1072
  let ok := s.tokenOk t slot
  let m := { s.mon with nonce := none }
  (if ok then 0 else 5, [], { s with mon := if ok then effect (fld t 3 1) m else m })

/-- R400, R409 to R411. -/
def execUnlock (s : State) : Out :=
  s.service 0x04 [1] 1072 (fun s => s.useToken 2 (fun caps m => { m with lc := 2, caps := caps, keyReg := [] }))

/-- R400, R409. -/
def execRelock (s : State) : Out := s.service 0x05 [2] 0 (fun s => (0, [], { s with mon := { s.mon with lc := 1, caps := 0 } }))

/-- R400, R409, R411. -/
def execEnterRma (s : State) : Out :=
  s.service 0x06 [1, 2] 1072 (fun s => s.useToken 3 (fun _ m => { m with lc := 3, caps := 0, keyReg := [], keyKilled := true }))

/-- R400, R409, R411: the hashes of slots 1 to 3 and the identity key pair are fused, and the key registers hold the secret key. The pair follows the
hashes as its modulus, its public exponent and its secret exponent: the model's choice (log 70). -/
def execProvision (s : State) : Out :=
  s.service 0x07 [0] 1220 (fun s =>
    let b := s.request 1220
    let key := sub b 708 512
    (0, [], { s with mon := { s.mon with
      lc := 1, idModulus := sub b 192 512, idExponent := fld b 704 4, idKey := key, keyReg := if s.mon.keyKilled then [] else key, hashes := (List.range 3).foldl (fun h i => put h (i + 1) (sub b (64 * i) 64)) s.mon.hashes } }))

/-! ### Partitions (R341, R345 to R347, R403) -/

/-- A partition as its record gives it (R403). -/
def partOfRecord (b : List Byte) (eps : List Nat) : Part :=
  { live := true, clusters := fld b 8 8 % 2 ^ 48, svm := BitVec.ofNat 8 (fld b 5 1), lines := BitVec.ofNat 16 (fld b 2 2), lnk := fld b 1 1 % 2 == 1,
    engines := fld b 0x10 4 % 2 ^ 24, slots := fld b 0x18 16, ports := fld b 4 1, eps := eps, hwbase := fld b 0x28 8, hwlen := fld b 0x30 8,
    ptroot := fld b 0x40 8, pchan := fld b 0x80 128 }

/-- R341, R345: the rules a partition meets: a supervisor and a copy engine on each die where it has a cluster. -/
def Part.sound (p : Part) : Bool :=
  (List.range 4).all (fun d => p.clusters / 2 ^ (12 * d) % 2 ^ 12 == 0 || (p.svm != 0 && p.engines / 2 ^ (6 * d) % 64 != 0))

/-- R345, R403: no resource of a new partition is owned. -/
def Part.apart (p q : Part) : Bool :=
  !q.live || (p.clusters &&& q.clusters == 0 && p.lines &&& q.lines == 0 && p.engines &&& q.engines == 0 && p.slots &&& q.slots == 0 &&
    p.ports &&& q.ports == 0 && p.pchan &&& q.pchan == 0 && !(p.lnk && q.lnk))

/-- R403: reserved bytes are zero. -/
def recordZeros (b : List Byte) : Bool := zeros b 0x14 4 && zeros b 0x50 48

/-- R403: where in the owned HBM of a die an image of `n` bytes goes: to a place that is free (log 73) if the partition owns it, else to the lowest
pseudo-channel of the die that it owns. -/
def State.imagePlace (s : State) (p : Part) (pid d n : Nat) : Option Nat :=
  ([d * 2 ^ 38 + Config.imagePlace pid d % 2 ^ 38] ++ (bitsSet 256 (p.pchan / 2 ^ (256 * d))).map (fun c => d * 2 ^ 38 + c * channelSize)).find?
    (fun pa => s.ownsFrame p false pa n)

/-- R403: the image is copied into the owned HBM of each die where the partition owns a cluster. -/
def State.copyImage (s : State) (p : Part) (pid : Nat) (img : List Byte) : State :=
  ((List.range 4).filter (fun d => p.clusters / 2 ^ (12 * d) % 2 ^ 12 != 0)).foldl (fun s d => match s.imagePlace p pid d img.length with
    | some pa => { s with mem := s.mem.writeN (hbmKey pa) img }
    | none => s) s

/-- R403, R341: create a partition: its image is verified under slot 1, copied and loaded, and its supervisors start. -/
def State.createPart (s : State) (b : List Byte) : Nat × State :=
  let pid := fld b 0 1
  let eps := (List.range (fld b 6 2)).map (fun i => s.mem.num (hostKey (fld b 0x48 8 + 4 * i)) 4)
  let p := partOfRecord b eps
  let src := hostKey (fld b 0x38 8)
  let img := s.mem.readN src (s.mem.num (src + 0x20) 8)
  let levels := ((List.range 4).filter (fun d => p.clusters / 2 ^ (12 * d) % 2 ^ 12 != 0)).map (fun d => (s.die d).fwlvl.toNat)
  if !recordZeros b || decide (15 < pid) || decide (4096 < fld b 6 2) then (3, s)
  else if (s.part pid).live || !(List.range 16).all (fun q => p.apart (s.part q)) || !p.sound || !s.verifies img 1 then (6, s)
  else match loadImage img 3 levels with
    | none => (6, s)
    | some (im, code) =>
      let (id, s) := s.installImage im code
      let s : State := { s with owners := s.owners.map (fun e : Nat × Nat => (e.1, if e.2 = pid then 255 else e.2)) }
      let s := (s.copyImage p pid img).updPart pid (fun _ => { p with img := id, entry := (Config.imageEntry img).toNat })
      let cores := (bitsSet 48 p.clusters).flatMap coresOfCluster
      (0, cores.foldl (fun s c => ((s.zeroStores c).updCore c Core.moved).startSupervisors c) s)

/-- R400, R403. -/
def execCreatePartition (s : State) : Out :=
  s.service 0x10 [1, 2] 256 (fun s => let (st, s) := s.createPart (s.request 256); (st, [], s))

/-- R346: does a core still hold a unit, dispatched or queued? -/
def State.holdsUnit (s : State) (core : Nat) : Bool :=
  (List.range 8).any (fun h => let r := (s.ctx (ctxKey core h)).role; r == .unit || r == .handler || r == .loaded || r == .reserved || r == .dormant) ||
    s.units.any (fun e => e.2.owner == core && e.2.st.code == 0)

/-- R346: does a copy read or write the stores of a core? -/
def CopyRec.reachesInto (r : CopyRec) (core : Nat) : Bool :=
  (List.range r.transfers).any (fun t => (r.sides t).any (fun x => x.1 != 1 && gsaCore x.2.1 == core))

/-- R346: does a command of another core read or write the stores of a core? -/
def Cmd.reachesInto (c : Cmd) (core : Nat) : Bool := match c.kind with
  | .copy r _ => r.reachesInto core
  | .ctxmove _ _ x _ _ _ => x == core
  | _ => false

/-- R346, R118: does a word that has issued and has not acted access the stores of a core? -/
def Held.reachesInto (h : Held) (core : Nat) : Bool := match h with
  | .store a _ _ => gsaCore a == core
  | .access m => gsaCore m.addr == core
  | .word (.qCopy _) _ recs _ _ => (copyOf (recs.getD 0 []) (fmtsOfBytes (recs.getD 1 []))).reachesInto core
  | _ => false

/-- R346: are accesses or commands of a core, or addressed to it, still under way, those held in commit buffers too? A page request waits for its
supervisor, and is none of them. -/
def State.underWay (s : State) (core : Nat) : Bool :=
  s.ctxs.any (fun e => (e.2.rest ++ e.2.held).any (fun h => keyCore e.1 == core || h.reachesInto core)) ||
  s.msgs.any (fun m => (m.core == core || gsaCore m.addr == core) && m.stage != .done) ||
    s.cmds.any (fun c => (c.core == core && match c.kind with
      | .pgreq _ => false
      | _ => true) || c.reachesInto core) ||
    s.xfers.any (fun t => !t.virt && gsaCore t.addr == core)

/-- A service that has waited completes. -/
def State.endWait (s : State) (st : Nat) : State :=
  { s with mon := { s.mon with waits := none, noDispatch := 0 } }.finishService st []

/-- R346: take clusters from their owner: busy while one holds a unit; else dispatch to them stops, and what is under way is waited for; then `go`. The
request is kept while the service waits. -/
def State.takeClusters (s : State) (mask req : Nat) (again : Instr) (go : State → Nat × State) : Out :=
  let cores := (bitsSet 48 mask).flatMap coresOfCluster
  if cores.any s.holdsUnit then .next (s.endWait 1)
  else if cores.any s.underWay then
    .next { s with mon := { s.mon with busy := true, waits := some req, noDispatch := mask }, inputs := s.inputs ++ [(s.now + 1, again)] }
  else
    let (st, s) := go s
    .next (s.endWait st)

/-- R402, R400: a partition is gone, with everything it owns. -/
def State.destroyPart (s : State) (pid : Nat) : Nat × State :=
  let p := s.part pid
  let cores := (bitsSet 48 p.clusters).flatMap coresOfCluster
  let s := s.clearCores Core.moved cores
  let hs := (s.levels.filter (fun e => e.2.part == pid)).map Prod.fst
  (0, { s with
    parts := drop1 s.parts pid, levels := s.levels.filter (fun e => e.2.part != pid),
    units := s.units.filter (fun e => !hs.contains e.2.launch),
    ctxs := s.ctxs.filter (fun e => !cores.contains (keyCore e.1)),
    slots := s.slots.filter (fun e => e.2.part != pid),
    lines := s.lines.map (fun e : Nat × Line => (e.1, if p.lines.getLsbD e.1 then { synto := e.2.synto } else e.2)) })

/-- R402, R400, R346: destroy a partition. A faulted one is destroyed as it stands, its work ended. -/
def State.tryDestroy (s : State) (pid : Nat) : Out :=
  let p := s.part pid
  if !p.live then .next (s.endWait 6)
  else if p.faulted then
    let (st, s) := s.destroyPart pid
    .next (s.endWait st)
  else s.takeClusters p.clusters pid .destroyPartition (fun s => s.destroyPart pid)

/-- R400, R402, R346: the service starts, or goes on waiting. -/
def execDestroyPartition (s : State) : Out :=
  if s.mon.busy then match s.mon.waits with
    | some req => if req < 2 ^ 8 then s.tryDestroy req else .next s
    | none => .next s
  else s.serve 0x11 [1, 2] 1 (fun s => s.tryDestroy (fld (s.request 1) 0 1))

/-- R346: move a cluster, whose cores are at rest: stores and accumulators zeroed, then the new owner and its supervisors. -/
def State.reassign (s : State) (d cl dest : Nat) : Nat × State :=
  let i := 12 * d + cl
  let cores := coresOfCluster i
  let old := s.partOfCluster i
  let s := s.clearCores Core.moved cores
  let s : State := { s with ctxs := s.ctxs.filter (fun e => !cores.contains (keyCore e.1)) }
  let s := match old with
    | some p => s.updPart p (fun x => { x with clusters := x.clusters &&& (2 ^ 48 - 1 - 2 ^ i) })
    | none => s
  if dest = 255 then (0, s)
  else
    let s := s.updPart dest (fun x => { x with clusters := x.clusters ||| 2 ^ i })
    (0, cores.foldl State.startSupervisors s)

/-- R341, R345, R346: may a cluster go to a partition: one that is there, and that meets the rules with it? -/
def State.mayReceive (s : State) (i dest : Nat) : Bool :=
  dest == 255 || (decide (dest ≤ 15) && (s.part dest).live && ({ s.part dest with clusters := (s.part dest).clusters ||| 2 ^ i } : Part).sound)

/-- R346: move a cluster. -/
def State.tryReassign (s : State) (d cl dest : Nat) : Out :=
  if 4 ≤ d ∨ 12 ≤ cl ∨ !s.mayReceive (12 * d + cl) dest then .next (s.endWait 6)
  else s.takeClusters (2 ^ (12 * d + cl)) (2 ^ 24 + d * 2 ^ 16 + cl * 2 ^ 8 + dest) .reassignCluster (fun s => s.reassign d cl dest)

/-- R400, R346: the service starts, or goes on waiting. -/
def execReassignCluster (s : State) : Out :=
  if s.mon.busy then match s.mon.waits with
    | some req => if 2 ^ 24 ≤ req ∧ req < 2 ^ 50 then s.tryReassign (req / 2 ^ 16 % 2 ^ 8) (req / 2 ^ 8 % 2 ^ 8) (req % 2 ^ 8) else .next s
    | none => .next s
  else s.serve 0x12 [1, 2] 3 (fun s => let b := s.request 3; s.tryReassign (fld b 0 1) (fld b 1 1) (fld b 2 1))

/-- R347: scrub a pair: levels, σ and scales zero, the generators of its group seeded with 0, the group's flags clear. It takes the pair's ADC group for
2,000·512 cycles, from when the group's scrub before it ends, and the pair's age starts at its end. -/
def State.scrub (s : State) (core a : Nat) : State :=
  s.updCore core (fun x =>
    let till := max s.now (look {} x.adc (a % 8)).scrub + 2000 * 512
    { x with pairs := put x.pairs a { born := till }, adc := put x.adc (a % 8) { scrub := till } })

/-- R347: the pairs of a request whose owner it changes. -/
def State.changing (s : State) (core mask owner : Nat) : List Nat := (bitsSet 32 mask).filter (fun a => look 255 s.owners (core * 32 + a) != owner)

/-- Give pairs of a core an owner. -/
def State.giveOwner (s : State) (core owner : Nat) (as : List Nat) : State :=
  as.foldl (fun s a => { s with owners := put s.owners (core * 32 + a) owner }) s

/-- R347: why the owner of pairs of a core cannot be changed: 1 while an A command names one, 6 when the core or partition does not exist. -/
def State.ownersBusy (s : State) (addr mask owner : Nat) : Option Nat :=
  let core := gsaCore addr
  let named := fun (c : Cmd) => c.core == core && match c.kind with
    | .array es => es.any (fun e => (bitsSet 32 mask).contains e.pair && e.st != .ended)
    | _ => false
  if 2 ^ 32 ≤ addr ∨ gsaOff addr ≠ 0 ∨ !coreExists core ∨ (owner ≠ 255 ∧ !(owner ≤ 15 ∧ (s.part owner).live)) then some 6
  else if s.cmds.any named || s.ctxs.any (fun e => keyCore e.1 == core &&
      (e.2.rest ++ e.2.held).any (fun h => (h.pairs e.2).any ((bitsSet 32 mask).contains ·))) then some 1
  else none

/-- R347: the request of a change of owner as the service keeps it while it waits, 2^41 higher once the scrubs have begun. -/
def ownerReq (core mask owner : Nat) : Nat := 2 ^ 50 + core * 2 ^ 41 + mask * 2 ^ 9 + owner

/-- The service waits: the event by which it goes on comes in a later cycle. -/
def State.waitFor (s : State) (req at_ : Nat) : State :=
  { s with mon := { s.mon with busy := true, waits := some req }, inputs := s.inputs ++ [(at_, againOf req)] }

/-- R347: change the owner of pairs of a core. Pairs that go to a partition are scrubbed first, once no entry runs on their groups, where none starts
meanwhile; until its scrub is over a pair has no owner (log 73). -/
def State.tryOwners (s : State) (core mask owner : Nat) : Out :=
  let as := s.changing core mask owner
  if owner = 255 || as.isEmpty then .next ((s.giveOwner core owner as).endWait 0)
  else
    let s := s.giveOwner core 255 as
    if as.any (fun a => s.cmds.any (fun c => c.core == core && c.entries.any (fun e => e.grp == a % 8 && e.st == .running))) then
      let s := as.foldl (fun s a => s.updCore core (fun x => { x with adc := put x.adc (a % 8) { (look {} x.adc (a % 8)) with scrub := s.now + 2 } })) s
      .next (s.waitFor (ownerReq core mask owner) (s.now + 1))
    else
      let s := as.foldl (fun s a => s.scrub core a) s
      .next (s.waitFor (2 ^ 51 + ownerReq core (maskOf as) owner) ((as.map (fun a => (look {} (s.core core).adc (a % 8)).scrub)).foldl max 0))

/-- R347: the scrubs are over: the owner is written, if its partition is still there. -/
def State.endOwners (s : State) (core mask owner : Nat) : Out :=
  if !(s.part owner).live then .next (s.endWait 6) else .next ((s.giveOwner core owner (bitsSet 32 mask)).endWait 0)

/-- R400, R347: the service starts, or goes on waiting. -/
def execSetPairOwner (s : State) : Out :=
  if s.mon.busy then match s.mon.waits with
    | some req =>
      let core := req / 2 ^ 41 % 2 ^ 9
      let mask := req / 2 ^ 9 % 2 ^ 32
      let owner := req % 2 ^ 9
      if req < 2 ^ 50 then .next s
      else if req / 2 ^ 51 % 2 = 0 then s.tryOwners core mask owner
      else if (bitsSet 32 mask).all (fun a => decide ((look {} (s.core core).adc (a % 8)).scrub ≤ s.now)) then s.endOwners core mask owner
      else .next s
    | none => .next s
  else s.serve 0x13 [1, 2] 9 (fun s =>
    let b := s.request 9
    match s.ownersBusy (fld b 0 4) (fld b 4 4) (fld b 8 1) with
    | some st => .next (s.finishService st [])
    | none => s.tryOwners (gsaCore (fld b 0 4)) (fld b 4 4) (fld b 8 1))

/-! ### Power, reset, starts -/

/-- R400, R394: the partition, then the arguments of call 0, 8 bytes each; status 6 when it does not own the domain. -/
def execPowerRequest (s : State) : Out :=
  s.service 0x14 lcAll 25 (fun s =>
    let b := s.request 25
    let (st, s) := s.powerReq (fld b 0 1) (fld b 1 8) (fld b 9 8) (fld b 17 8)
    (if st = 2 then 6 else st, [], s))

/-- R400, R416. -/
def execDieReset (s : State) : Out :=
  s.service 0x15 lcAll 1 (fun s =>
    let d := fld (s.request 1) 0 1
    if 4 ≤ d then (6, [], s) else (0, [], s.resetDie d))

/-- R400, R406. -/
def execWarmStart (s : State) : Out := s.service 0x16 lcAll 0 (fun s => (0, [], s.warmStart))

/-- R405: four images, one after the other, each as long as its header says. -/
def State.images4 (s : State) : List (List Byte) :=
  ((List.range 4).foldl (fun (acc : List (List Byte) × Nat) _ =>
    let n := s.mem.num (hostKey (s.mon.buf + acc.2) + 0x20) 8
    (acc.1 ++ [s.mem.readN (hostKey (s.mon.buf + acc.2)) n], acc.2 + n)) ([], 0)).1

/-- R400, R405: all four verify, and are written to flash, or nothing is; then a cold start. -/
def execRecoveryImage (s : State) : Out :=
  s.service 0x19 lcAll 256 (fun s =>
    let imgs := s.images4
    if decide (s.mon.len < (imgs.map List.length).foldl (· + ·) 0) then (3, [], s)
    else if imgs.all s.dieImageOk then
      (0, [], State.coldStart 3 { s with mon := { s.mon with fail := 0, flash := (List.range 4).zip imgs } })
    else (5, [], s))

/-! ### Debug (R413 to R415) -/

/-- R415: may a debug request be granted: in the blank and RMA states, and in the debug-unlocked state with its `caps` bit. -/
def Mon.debugOk (m : Mon) (bit : Nat) : Bool := m.lc == 0 || m.lc == 3 || (m.lc == 2 && m.caps.testBit bit)

/-- The deepest power state among clusters. -/
def State.deepest (s : State) (cls : List Nat) : Nat := (cls.map (look 0 s.power)).foldl max 0

/-- R413, R415: the frame of a debug request: lifecycle, then power; in P1 and P2 a halt, step, resume or freeze first returns the domain
to P0. -/
def State.debug (s : State) (bit : Nat) (wake : Bool) (body : Nat → Nat → State → State) : Out :=
  s.service 0x18 lcAll 0 (fun s =>
    let b := s.request 24
    let core := gsaCore (fld b 4 4)
    let cls := if bit = 2 then List.range 48 else [clusterIndex core]
    if !s.mon.debugOk bit then (4, [], s)
    else if s.mon.len < 24 then (3, [], s)
    else if bit != 2 && (fld b 4 4 % 2 ^ 23 != 0 || !coreExists core || decide (7 < fld b 1 1)) then (3, [], s)
    else if s.deepest cls = 3 then (2, [], s)
    else
      let s := if wake then cls.foldl (fun s cl => if look 0 s.power cl = 0 then s else
        let s : State := { s with power := drop1 s.power cl, waking := drop1 s.waking cl }
        ((coresOfCluster cl).flatMap (fun c => (List.range 8).map (ctxKey c))).foldl (fun s k =>
          if (s.ctx k).why.getLsbD 2 then s.releaseFor k 2 else s) s) s else s
      (0, [], body core (fld b 1 1) s))

/-- R413: halt; a context of the core that starts while the halt is in force stands still too. -/
def execDebugHalt (s : State) : Out :=
  s.debug 0 true (fun core _ s => (List.range 8).foldl (fun s h =>
    if (s.ctx (ctxKey core h)).role == .free || (s.ctx (ctxKey core h)).role == .reserved then s
    else s.haltFor (ctxKey core h) 1 (s.now + 1)) (s.updCore core (fun x => { x with halted := true })))

/-- R413: step: a halted context issues one bundle. -/
def execDebugStep (s : State) : Out :=
  s.debug 0 true (fun core h s =>
    let k := ctxKey core h
    if (s.ctx k).frozen = some 15 ∧ (s.ctx k).why.getLsbD 1 then
      (s.wakeCtx k).updCtx k (fun c => { c with dbgStep := true })
    else s)

/-- R413: resume. -/
def execDebugResume (s : State) : Out :=
  s.debug 0 true (fun core _ s => (List.range 8).foldl (fun s h =>
    if (s.ctx (ctxKey core h)).why.getLsbD 1 then s.releaseFor (ctxKey core h) 1 else s) (s.updCore core (fun x => { x with halted := false })))

/-- R413: trace on. -/
def execTraceOn (s : State) : Out :=
  s.debug 1 false (fun core _ s =>
    let b := s.request 24
    s.updCore core (fun x => { x with trace := some (fld b 8 8, 0, fld b 0x10 4, s.now) }))

/-- R413: trace off. -/
def execTraceOff (s : State) : Out := s.debug 1 false (fun core _ s => s.updCore core (fun x => { x with trace := none }))

/-- R414: an update burst that is in progress completes on its pair, with the inputs it has; its command and its group stay as they are. -/
def State.finishBurst (s : State) (c : Cmd) (n : Nat) (e : AEntry) : State := match e.op with
  | .upd _ _ _ _ _ _ _ _ _ _ _ =>
    if e.st == .running && decide (e.done < e.steps.1) && decide (e.rem < e.steps.2 * (e.steps.1 - e.done) + 6) then
      let m := c.taken.foldl (fun (m : Memory) w => m.writeN w.addr w.bytes) s.mem
      let ins := e.early.getD ((e.inputs e.done).map (fun x => m.readN (gsaOf c.core x.1) x.2.1))
      s.updPair c.core e.pair (fun _ => (s.aEffect c n e e.done ins).pair c.core e.pair)
    else s
  | _ => s

/-- R414: all the bursts in progress. -/
def State.finishBursts (s : State) : State :=
  s.cmds.foldl (fun s c => (List.zip (List.range c.entries.length) c.entries).foldl (fun s x => s.finishBurst c x.1 x.2) s) s

/-- R414: freeze every clock of the compute dies and of Causeway's engines; bursts complete on their own timing. -/
def execDebugFreeze (s : State) : Out := s.debug 2 true (fun _ _ s => let s := s.finishBursts; { s with mon := { s.mon with frozen := true } })

/-! ### Writes of the host to the service block (R397, R399) -/

/-- R400, R413: the service that a code starts, the debug operation from its request; `none` for an undefined one. -/
def State.serviceOf (s : State) (code : Nat) : Option Instr := match code with
  | 0x01 => some .readIdentity
  | 0x02 => some .attest
  | 0x03 => some .challenge
  | 0x04 => some .unlock
  | 0x05 => some .relock
  | 0x06 => some .enterRma
  | 0x07 => some .provision
  | 0x10 => some .createPartition
  | 0x11 => some .destroyPartition
  | 0x12 => some .reassignCluster
  | 0x13 => some .setPairOwner
  | 0x14 => some .powerRequest
  | 0x15 => some .dieReset
  | 0x16 => some .warmStart
  | 0x18 => ([.debugHalt, .debugStep, .debugResume, .traceOn, .traceOff, .debugFreeze] : List Instr)[fld (s.request 1) 0 1]?
  | 0x19 => some .recoveryImage
  | _ => none

/-- R399, R405, R414, R415: an undefined service completes: refused while frozen and in recovery, an undefined debug operation also by lifecycle; else
malformed. -/
def State.undefinedService (s : State) (code : Nat) : State :=
  s.finishService (if s.mon.frozen || s.mon.stage == 9 then 2 else if code = 0x18 ∧ (s.mon.lc = 1 ∨ (s.mon.lc = 2 ∧ s.mon.caps = 0)) then 4 else 3) []

/-- R397, R399: a write of the host to the service block: of `cmd`, which starts a service or is ignored while one runs, `buf` or `len`; others are ignored. -/
def State.hostWrite (s : State) (x : HostWrite) : State := match x.off with
  | 0x00 =>
    let code := x.val % 2 ^ 32
    if s.mon.busy then s
    else match s.serviceOf code with
      | some i => { s with inputs := s.inputs ++ [(s.now, i)] }
      | none => s.undefinedService code
  | 0x08 => { s with mon := { s.mon with buf := x.val % 2 ^ 64 } }
  | 0x10 => { s with mon := { s.mon with len := x.val % 2 ^ 32 } }
  | _ => s

/-- R397: the writes of the host that have come, in their order. -/
def State.hostWrites (s : State) : State :=
  (s.hostRegs.filter (fun x => decide (x.at_ ≤ s.now))).foldl State.hostWrite
    { s with hostRegs := s.hostRegs.filter (fun x => decide (s.now < x.at_)) }

/-! ### The host's window on device memory (R376) -/

/-- R376, R77: Causeway serves the host's accesses to the memory of a partition: reads deliver expanded bytes and leave the state as it is;
writes land where a page is mapped, writable and resident. -/
def execHostCxlMemAccess (isWrite : Bool) (part addr len : Nat) (data : List (BitVec 8)) (s : State) : Out :=
  .next (if isWrite && (s.part part).live then s.virtWrite part addr (data.take len) else s)

end Sys2Proof.Machine
end

