-- ==== Sys2Proof/Machine/Scalar.lean ====
section
/-! DEFINITION. The header and extension words and the S class: integers, compares, bit fields, state reads, branches and loops
(R151 to R177). -/

namespace Sys2Proof.Machine

/-! ### Integer operations (R155, R156) -/

/-- R156: a signed operand; with `.i32` its low 32 bits. -/
def sArg (i32 : Bool) (a : W64) : Int := if i32 then toSigned 32 a.toNat else a.toInt
/-- R156: an unsigned operand; with `.i32` its low 32 bits. -/
def uArg (i32 : Bool) (a : W64) : Nat := if i32 then a.toNat % 2 ^ 32 else a.toNat
/-- R156: the result wrapped to 64 bits; with `.i32` sign-extended from bit 31. -/
def intResult (i32 : Bool) (x : Int) : W64 := if i32 then sextLow (BitVec.ofInt 64 x) 32 else BitVec.ofInt 64 x
/-- R156: the shift amount. -/
def shiftAmt (i32 : Bool) (b : W64) : Nat := b.toNat % (if i32 then 32 else 64)
/-- R156: the most negative value of the width. -/
def mostNeg (i32 : Bool) : Int := if i32 then -(2 ^ 31) else -(2 ^ 63)

/-- R155 `s.add`. -/
def addOp (i32 : Bool) (a b : W64) : W64 := intResult i32 (sArg i32 a + sArg i32 b)
/-- R155 `s.sub`. -/
def subOp (i32 : Bool) (a b : W64) : W64 := intResult i32 (sArg i32 a - sArg i32 b)
/-- R155 `s.mul`. -/
def mulOp (i32 : Bool) (a b : W64) : W64 := intResult i32 (sArg i32 a * sArg i32 b)
/-- R155 `s.mulh`. -/
def mulhOp (a b : W64) : W64 := BitVec.ofInt 64 (a.toInt * b.toInt / 2 ^ 64)
/-- R155 `s.mulhu`. -/
def mulhuOp (a b : W64) : W64 := BitVec.ofNat 64 (a.toNat * b.toNat / 2 ^ 64)
/-- R156 `s.div`. -/
def divOp (i32 : Bool) (a b : W64) : W64 :=
  let x := sArg i32 a
  let y := sArg i32 b
  intResult i32 (if y = 0 then -1 else if y = -1 ∧ x = mostNeg i32 then x else x.tdiv y)
/-- R156 `s.divu`. -/
def divuOp (i32 : Bool) (a b : W64) : W64 :=
  let y := uArg i32 b
  intResult i32 (if y = 0 then -1 else ((uArg i32 a / y : Nat) : Int))
/-- R156 `s.rem`. -/
def remOp (i32 : Bool) (a b : W64) : W64 :=
  let x := sArg i32 a
  let y := sArg i32 b
  intResult i32 (if y = 0 then x else if y = -1 then 0 else x - y * x.tdiv y)
/-- R156 `s.remu`. -/
def remuOp (i32 : Bool) (a b : W64) : W64 :=
  let x := uArg i32 a
  let y := uArg i32 b
  intResult i32 (if y = 0 then x else ((x % y : Nat) : Int))
/-- R155 `s.shl`. -/
def shlOp (i32 : Bool) (a b : W64) : W64 := intResult i32 ((uArg i32 a * 2 ^ shiftAmt i32 b : Nat) : Int)
/-- R155 `s.shr`. -/
def shrOp (i32 : Bool) (a b : W64) : W64 := intResult i32 ((uArg i32 a / 2 ^ shiftAmt i32 b : Nat) : Int)
/-- R155 `s.sra`. -/
def sraOp (i32 : Bool) (a b : W64) : W64 := intResult i32 (sArg i32 a / 2 ^ shiftAmt i32 b)
/-- R155 `s.min`. -/
def minOp (i32 : Bool) (a b : W64) : W64 := intResult i32 (min (sArg i32 a) (sArg i32 b))
/-- R155 `s.max`. -/
def maxOp (i32 : Bool) (a b : W64) : W64 := intResult i32 (max (sArg i32 a) (sArg i32 b))
/-- R155 `s.minu`. -/
def minuOp (i32 : Bool) (a b : W64) : W64 := intResult i32 ((min (uArg i32 a) (uArg i32 b) : Nat) : Int)
/-- R155 `s.maxu`. -/
def maxuOp (i32 : Bool) (a b : W64) : W64 := intResult i32 ((max (uArg i32 a) (uArg i32 b) : Nat) : Int)

/-- The frame of a register-register operation: `op` of the width `fn` selects and the two sources (R152, R156). -/
def State.alu (s : State) (i : Instr) (f : RR) (lat : Nat) (op : Bool → W64 → W64 → W64) : Out :=
  s.word i.wf f.g (fun s => s.sResult f.dst f.nw lat (op (f.fn == 1) (s.value f.sa) (s.value f.sb)))

/-- R103, R153: pops, and a yield once the bundle is not speculative (R118). -/
def execHdr (f : HDR) (s : State) : Out :=
  let s := s.updLive (fun a => (bitsSet 8 f.pop.toNat).foldl Arch.pop a)
  .next (if !f.y then s
    else if s.cur.speculative then s.hold .yield
    else (s.updCur (fun c => { c with lastY := c.ctime })).updCore s.iss.core
      (fun x => if x.primary = s.iss.h then { x with choosing := true } else x))

/-- R109, R154: widen the field of the word that follows it in hand. -/
def execExt (f : EXT) (s : State) : Out := .next { s with iss := { s.iss with ext := s.iss.ext ++ [f.pay] } }

/-- R158: no result, no latch. -/
def execSNop (f : RR) (s : State) : Out := s.word (Instr.sNop f).wf f.g .next
/-- R155. -/
def execSAdd (f : RR) (s : State) : Out := s.alu (.sAdd f) f 1 addOp
/-- R155. -/
def execSSub (f : RR) (s : State) : Out := s.alu (.sSub f) f 1 subOp
/-- R155. -/
def execSMul (f : RR) (s : State) : Out := s.alu (.sMul f) f 3 mulOp
/-- R155. -/
def execSMulh (f : RR) (s : State) : Out := s.alu (.sMulh f) f 3 (fun _ => mulhOp)
/-- R155. -/
def execSMulhu (f : RR) (s : State) : Out := s.alu (.sMulhu f) f 3 (fun _ => mulhuOp)
/-- R156. -/
def execSDiv (f : RR) (s : State) : Out := s.alu (.sDiv f) f 12 divOp
/-- R156. -/
def execSDivu (f : RR) (s : State) : Out := s.alu (.sDivu f) f 12 divuOp
/-- R156. -/
def execSRem (f : RR) (s : State) : Out := s.alu (.sRem f) f 12 remOp
/-- R156. -/
def execSRemu (f : RR) (s : State) : Out := s.alu (.sRemu f) f 12 remuOp
/-- R155. -/
def execSAnd (f : RR) (s : State) : Out := s.alu (.sAnd f) f 1 (fun _ a b => a &&& b)
/-- R155. -/
def execSOr (f : RR) (s : State) : Out := s.alu (.sOr f) f 1 (fun _ a b => a ||| b)
/-- R155. -/
def execSXor (f : RR) (s : State) : Out := s.alu (.sXor f) f 1 (fun _ a b => a ^^^ b)
/-- R155. -/
def execSAndn (f : RR) (s : State) : Out := s.alu (.sAndn f) f 1 (fun _ a b => a &&& ~~~b)
/-- R155. -/
def execSShl (f : RR) (s : State) : Out := s.alu (.sShl f) f 1 shlOp
/-- R155. -/
def execSShr (f : RR) (s : State) : Out := s.alu (.sShr f) f 1 shrOp
/-- R155. -/
def execSSra (f : RR) (s : State) : Out := s.alu (.sSra f) f 1 sraOp
/-- R155. -/
def execSMin (f : RR) (s : State) : Out := s.alu (.sMin f) f 1 minOp
/-- R155. -/
def execSMax (f : RR) (s : State) : Out := s.alu (.sMax f) f 1 maxOp
/-- R155. -/
def execSMinu (f : RR) (s : State) : Out := s.alu (.sMinu f) f 1 minuOp
/-- R155. -/
def execSMaxu (f : RR) (s : State) : Out := s.alu (.sMaxu f) f 1 maxuOp

/-! ### Immediates (R157) -/

/-- The frame of an immediate operation with a signed, extended immediate. -/
def State.aluImm (s : State) (i : Instr) (f : RI) (op : W64 → W64 → W64) : Out :=
  s.word (i.wf && i.extOk s.iss.ext) f.g
    (fun s => s.sResult f.dst f.nw 1 (op (s.value f.sa) (extSigned f.imm.toNat 8 s.iss.ext)))

/-- The frame of an immediate shift: the immediate is unsigned. -/
def State.shiftImm (s : State) (i : Instr) (f : RI) (op : W64 → Nat → W64) : Out :=
  s.word (i.wf && i.extOk s.iss.ext) f.g
    (fun s => s.sResult f.dst f.nw 1 (op (s.value f.sa) (extUnsigned f.imm.toNat 8 s.iss.ext).toNat))

/-- R157. -/
def execSAddi (f : RI) (s : State) : Out := s.aluImm (.sAddi f) f (fun a b => a + b)
/-- R157. -/
def execSAndi (f : RI) (s : State) : Out := s.aluImm (.sAndi f) f (fun a b => a &&& b)
/-- R157. -/
def execSOri (f : RI) (s : State) : Out := s.aluImm (.sOri f) f (fun a b => a ||| b)
/-- R157. -/
def execSXori (f : RI) (s : State) : Out := s.aluImm (.sXori f) f (fun a b => a ^^^ b)
/-- R157. -/
def execSShli (f : RI) (s : State) : Out := s.shiftImm (.sShli f) f (fun a n => a <<< n)
/-- R157. -/
def execSShri (f : RI) (s : State) : Out := s.shiftImm (.sShri f) f (fun a n => a >>> n)
/-- R157. -/
def execSSrai (f : RI) (s : State) : Out := s.shiftImm (.sSrai f) f (fun a n => BitVec.ofInt 64 (a.toInt / 2 ^ n))
/-- R157. -/
def execSLi (f : RI) (s : State) : Out := s.aluImm (.sLi f) f (fun _ b => b)

/-- R158. -/
def execSMov (f : RR) (s : State) : Out := s.alu (.sMov f) f 1 (fun _ a _ => a)
/-- R158: the selecting predicate is `p4` to `p7`. -/
def execSSel (f : RR) (s : State) : Out :=
  s.word (Instr.sSel f).wf f.g (fun s =>
    s.sResult f.dst f.nw 1 (if s.cur.live.readP (4 + f.fn.toNat) then s.value f.sa else s.value f.sb))

/-! ### Compares and predicates (R159 to R161) -/

/-- R159. -/
def execSCmp (f : CP) (s : State) : Out :=
  s.word (Instr.sCmp f).wf f.g (fun s =>
    s.pResult f.pd (condHolds f.cond.toNat (8 * 2 ^ f.w.toNat) (s.value f.sa) (s.value f.sb)))
/-- R159: the immediate is the 6-bit field or its extension. -/
def execSCmpi (f : CP) (s : State) : Out :=
  s.word (Instr.sCmpi f).wf f.g (fun s =>
    s.pResult f.pd (condHolds f.cond.toNat (8 * 2 ^ f.w.toNat) (s.value f.sa) (extSigned f.sb.toNat 6 s.iss.ext)))
/-- R160. -/
def execSPlog (f : CP) (s : State) : Out :=
  s.word (Instr.sPlog f).wf f.g (fun s =>
    s.pResult f.pd (plogOp f.cond.toNat (s.cur.live.readP f.sa.toNat) (s.cur.live.readP f.sb.toNat)))

/-! ### Bit fields (R162) -/

/-- R162: the position of a field. -/
def fieldPos (b : W64) : Nat := b.toNat % 64
/-- R162: the length of a field. -/
def fieldLen (b : W64) : Nat := min (b.toNat / 256 % 128) (64 - fieldPos b)
/-- R162 `s.bfx`. -/
def bfxOp (sgn : Bool) (a b : W64) : W64 :=
  let x := a >>> fieldPos b
  if fieldLen b = 0 then 0 else if sgn then sextLow x (fieldLen b) else zextLow x (fieldLen b)
/-- R162 `s.bfi`. -/
def bfiOp (old a b : W64) : W64 :=
  let m := BitVec.ofNat 64 ((2 ^ fieldLen b - 1) * 2 ^ fieldPos b)
  (old &&& ~~~m) ||| ((a <<< fieldPos b) &&& m)

/-- R162. -/
def execSClz (f : RR) (s : State) : Out :=
  s.alu (.sClz f) f 1 (fun i32 a _ => BitVec.ofNat 64 (clzLow (if i32 then 32 else 64) a.toNat))
/-- R162. -/
def execSPopc (f : RR) (s : State) : Out :=
  s.alu (.sPopc f) f 1 (fun i32 a _ => BitVec.ofNat 64 (popLow (if i32 then 32 else 64) a.toNat))
/-- R162. -/
def execSBfx (f : RR) (s : State) : Out := s.alu (.sBfx f) f 1 bfxOp
/-- R162: `dst` is read as a third source. -/
def execSBfi (f : RR) (s : State) : Out :=
  s.word (Instr.sBfi f).wf f.g (fun s =>
    s.sResult f.dst f.nw 1 (bfiOp (s.cur.live.readG f.dst.toNat) (s.value f.sa) (s.value f.sb)))
/-- R162. -/
def execSSext (f : RR) (s : State) : Out :=
  s.word (Instr.sSext f).wf f.g (fun s => s.sResult f.dst f.nw 1 (sextLow (s.value f.sa) (8 * 2 ^ f.fn.toNat)))

/-! ### Branches and jumps (R169 to R172) -/

/-- A taken `s.call` or linking `s.jmp` writes its return address (R170, R171). -/
def linkTo (dst : Dest) (latch : Option Nat) (v : W64) (a : Arch) : Arch :=
  { a with flights := a.flights ++ [{ rem := 1, dst := dst, latch := latch, val := v }] }

/-- R169. -/
def execSBr (f : BR) (s : State) : Out :=
  let taken := !s.annulled f.g && !s.branchAnnulled && (s.srcs.readP f.pd.toNat != f.pn)
  let t := branchTarget s.iss.pc f.disp
  if taken && t.toNat % 12 != 0 then s.badTarget else .next (s.branch taken f.hint t id)

/-- The latch of an S word, which a secondary bundle does not write (R23). -/
def State.linkLatch (s : State) : Option Nat := if s.iss.sec then none else s.sLatch

/-- R170: when taken, `g31` and the latch take the return address. -/
def execSCall (f : BR) (s : State) : Out :=
  let taken := !s.annulled f.g && !s.branchAnnulled && (s.srcs.readP f.pd.toNat != f.pn)
  let t := branchTarget s.iss.pc f.disp
  if taken && t.toNat % 12 != 0 then s.badTarget
  else if taken && s.cur.live.collides (.g 31) 1 then s.raise 5 causeSchedule (BitVec.ofNat 64 s.iss.widx)
  else .next (s.branch taken f.hint t (if taken then linkTo (.g 31) s.linkLatch (returnAddr s.iss.next) else id))

/-- R171: a jump to a register or packet-relative target, with a link when `dst` is not 0. DEDUCED (log 83): a source with a nonzero bit in
[63:32] traps whether or not a transfer of S0 annuls the word. -/
def execSJmp (f : RR) (s : State) : Out :=
  if !(Instr.sJmp f).wf then s.illegal else
  let v := s.value f.sa
  let taken := !s.annulled f.g && !s.branchAnnulled
  let t := if f.fn == 1 then packetOf s.iss.pc + v.extractLsb' 0 32 else v.extractLsb' 0 32
  let dst : Dest := if f.nw then .none else .g f.dst.toNat
  if f.fn == 0 && decide (2 ^ 32 ≤ v.toNat) then s.illegal
  else if taken && t.toNat % 12 != 0 then s.badTarget
  else if taken && f.dst != 0 && s.cur.live.collides dst 1 then s.raise 5 causeSchedule (BitVec.ofNat 64 s.iss.widx)
  else .next (s.branch taken true t (if taken && f.dst != 0 then linkTo dst s.linkLatch (returnAddr s.iss.next) else id))

/-- R171. -/
def execSRet (f : RR) (s : State) : Out :=
  if !(Instr.sRet f).wf then s.illegal else
  let taken := !s.annulled f.g && !s.branchAnnulled
  let t := (s.value f.sa).extractLsb' 0 32
  if taken && t.toNat % 12 != 0 then s.badTarget else .next (s.branch taken true t id)

/-! ### Loops (R173 to R176) -/

/-- The image whose code the context in hand runs. -/
def State.img (s : State) : Nat := s.cur.img

/-- R113: the body at `start` with `len` words does not end a bundle. DESIGN CHOICE (log 83): a body whose last word lies outside the loaded code
is not such a body. -/
def State.badBody (s : State) (start : BitVec 32) (len : Nat) : Bool :=
  len == 0 || match s.codeWord s.img (start.toNat + 4 * (len - 1)) with
  | some w => chainBit w
  | none => false

/-- R173. DESIGN CHOICE (log 83): an `s.loop` in S1 writes its loop's registers also when S0 transfers: beside a zero-trip `s.loop` it arms its loop, and one
that is a zero trip itself sets `s`, `e`, `n` and disarms. -/
def execSLoop (f : LP) (s : State) : Out :=
  s.word (Instr.sLoop f).wf f.g (fun s =>
    let start := s.afterPads s.img s.iss.next
    let len := f.len.toNat
    let c := s.value f.sn
    if s.badBody start len then s.raise 5 causeSchedule (BitVec.ofNat 64 s.iss.widx)
    else
      let arm := fun a : Arch => a.armLoop f.l c start len
      let past := s.afterPads s.img (start + BitVec.ofNat 32 (4 * len))
      if c.toInt ≤ 0 then .next (s.branch true false past arm)
      else if s.iss.base.isSome then .next (s.branch false false past arm)
      else .next (s.updLive arm))

/-- R176, R172: armed as the bundle's words before it leave the loop, whatever another word of it predicts. -/
def execSLbrk (f : LP) (s : State) : Out :=
  if !(Instr.sLbrk f).wf then s.illegal else
  let l := (s.iss.base.getD s.cur.live).loop f.l
  let past := s.afterPads s.img (l.e + 4)
  .next (s.branch (!s.annulled f.g && !s.branchAnnulled && l.armed) true past id)

/-- R168. -/
def execSRdlc (f : RR) (s : State) : Out :=
  s.word (Instr.sRdlc f).wf f.g (fun s =>
    let l := s.cur.live.loop (f.sb == 1)
    s.sResult f.dst f.nw 1 (match f.fn.toNat with
      | 0 => l.n.zeroExtend 64
      | 1 => l.s.zeroExtend 64
      | 2 => l.e.zeroExtend 64
      | _ => BitVec.ofNat 64 ((if l.late then 4 else 0) + (if l.inner then 2 else 0) + (if l.armed then 1 else 0))))

/-! ### Machine state (R163 to R166) -/

/-- R163: the words of `s.rdid`. -/
def State.ident (s : State) (fn : Nat) : W64 :=
  let c := s.cur
  let w := c.work.getD {}
  match fn with
  | 0 => BitVec.ofNat 64 (s.iss.core * 128 + s.iss.h * 16 + (if c.role == .handler then 8 else 0))
  | 1 => BitVec.ofNat 64 (w.tx + w.ty * 2 ^ 16 + w.tz * 2 ^ 32)
  | 2 => BitVec.ofNat 64 (w.gx + w.gy * 2 ^ 16 + w.gz * 2 ^ 32)
  | _ => BitVec.ofNat 64 (w.role + (if w.oneCore then 4 else 0) + nth0 w.gcores 0 * 2 ^ 12 + nth0 w.gcores 1 * 2 ^ 21 +
      nth0 w.gcores 2 * 2 ^ 30)

/-- R163. -/
def execSRdid (f : RR) (s : State) : Out :=
  s.word (Instr.sRdid f).wf f.g (fun s => s.sResult f.dst f.nw 1 (s.ident f.fn.toNat))
/-- R164. -/
def execSRdtime (f : RR) (s : State) : Out :=
  s.word (Instr.sRdtime f).wf f.g (fun s => s.sResult f.dst f.nw 1 (BitVec.ofNat 64 s.now))
/-- R165: the coin advances and the new state is the result. -/
def execSRdcoin (f : RR) (s : State) : Out :=
  s.word (Instr.sRdcoin f).wf f.g (fun s =>
    let x := coinStep s.cur.live.coin
    (s.updLive (fun a => { a with coin := x })).sResult f.dst f.nw 1 x)
/-- R166. -/
def execSMfp (f : RR) (s : State) : Out :=
  s.word (Instr.sMfp f).wf f.g (fun s => s.sResult f.dst f.nw 1 (BitVec.ofNat 64 s.cur.live.predByte))
/-- R166: `p1` to `p7` under a mask; no latch. -/
def execSMtp (f : RR) (s : State) : Out :=
  s.word (Instr.sMtp f).wf f.g (fun s =>
    let v := s.value f.sa
    let ps := (List.range 7).filter (fun i => (s.value f.sb).getLsbD (i + 1))
    if ps.any (fun i => s.cur.live.collides (.p (i + 1)) 1) then s.raise 5 causeSchedule (BitVec.ofNat 64 s.iss.widx)
    else .next (ps.foldl (fun s i => s.pushFlight (.p (i + 1)) 1 none (boolWord (v.getLsbD (i + 1)))) s))

end Sys2Proof.Machine
end

