-- ==== Sys2Proof/Machine/VectorWords.lean ====
section
/-! DEFINITION. The V class: descriptors, elementwise commands, reductions, status, summaries (R211 to R231, R255 to R263). -/

namespace Sys2Proof.Machine

/-- The count of a descriptor of the context in hand. -/
def State.count (s : State) (n : BitVec 4) : Nat := (s.cur.live.desc n.toNat).count.toNat

/-- R218: a command of no elements streams for one cycle. -/
def streamTime (n : Nat) (ts : List Nat) : Nat := if n = 0 then 1 else longest ts

/-- R213, R218: the frame of a streaming V word: its `b4` and its regions checked (R112 rows 5 and 6), then a command of `S` cycles. -/
def State.vStream (s : State) (i : Instr) (g : Bool) (ns : List Need) (S : Nat) (job : VJob) : Out :=
  s.word i.wf g (fun s =>
    if job.b4 && s.b4Busy (S + 6) then s.raise 5 causeSchedule (BitVec.ofNat 64 s.iss.widx)
    else s.regions ns (fun s => s.stream s.iss.slot 6 S false job))

/-- R118: a word whose effect is made on schedule takes an entry of the commit buffer. -/
def State.noteHeld (s : State) : State := if s.cur.speculative then s.hold .note else s

/-- R23: a scalar result goes to `b4` unless the bundle is a secondary. -/
def State.toB4 (s : State) : Bool := !s.iss.sec

/-! ### Descriptors (R212) -/

/-- R212. -/
def execVDset (f : VS) (s : State) : Out :=
  s.word (Instr.vDset f).wf f.g (fun s =>
    let n := f.dd.toNat
    if s.iss.dsets.contains n then s.raise 5 causeSchedule (BitVec.ofNat 64 s.iss.widx)
    else
      let s := { s with iss := { s.iss with dsets := n :: s.iss.dsets } }
      .next ((s.updLive (fun a => { a with d := put a.d n (Desc.unpack (s.value f.ss)) })).noteHeld))

/-- R212. -/
def execVDget (f : VS) (s : State) : Out :=
  s.word (Instr.vDget f).wf f.g (fun s => s.noteHeld.result .none 7 (some 4) (s.cur.live.desc f.da.toNat).pack)

/-! ### Elementwise (R219 to R223) -/

/-- R219, R223: a VR command with one to three sources, all of the count of `da`. -/
def State.sources (s : State) (i : Instr) (f : VR) (k : Nat) : Out :=
  let n := s.count f.da
  let fs := [f.dd, f.da, f.db, f.dc].take (k + 1)
  s.vStream i f.g (fs.map (fun d => { d := d, count := some n })) (streamTime n (fs.map (fun d => (s.region d).time)))
    { word := i, dd := s.region f.dd, da := s.region f.da, db := if 2 ≤ k then s.region f.db else {},
      dc := if 3 ≤ k then s.region f.dc else {} }

/-- R219: a VS command over `dd` and `da`. -/
def State.scaled (s : State) (i : Instr) (f : VS) : Out :=
  let n := s.count f.da
  s.vStream i f.g [{ d := f.dd, count := some n }, { d := f.da, count := some n }]
    (streamTime n [(s.region f.dd).time, (s.region f.da).time])
    { word := i, dd := s.region f.dd, da := s.region f.da, sv := s.value f.ss }

/-- R219. -/
def execVAdd (f : VR) (s : State) : Out := s.sources (.vAdd f) f 2
/-- R219. -/
def execVSub (f : VR) (s : State) : Out := s.sources (.vSub f) f 2
/-- R219. -/
def execVMul (f : VR) (s : State) : Out := s.sources (.vMul f) f 2
/-- R219. -/
def execVFma (f : VR) (s : State) : Out := s.sources (.vFma f) f 3
/-- R219. -/
def execVMax (f : VR) (s : State) : Out := s.sources (.vMax f) f 2
/-- R219. -/
def execVMin (f : VR) (s : State) : Out := s.sources (.vMin f) f 2
/-- R219. -/
def execVAbs (f : VR) (s : State) : Out := s.sources (.vAbs f) f 1
/-- R219. -/
def execVNeg (f : VR) (s : State) : Out := s.sources (.vNeg f) f 1
/-- R219. -/
def execVClip (f : VR) (s : State) : Out := s.sources (.vClip f) f 3
/-- R219. -/
def execVScal (f : VS) (s : State) : Out := s.scaled (.vScal f) f
/-- R219. -/
def execVAxpy (f : VS) (s : State) : Out := s.scaled (.vAxpy f) f
/-- R219: the count is that of `dd`. -/
def execVFill (f : VS) (s : State) : Out :=
  s.vStream (.vFill f) f.g [{ d := f.dd, count := none }] (streamTime (s.count f.dd) [(s.region f.dd).time])
    { word := .vFill f, dd := s.region f.dd, sv := s.value f.ss }

/-- R221: the format a side of a copy moves: that of the other side when it is raw. -/
def State.copyFmt (s : State) (mine other : BitVec 4) : Nat :=
  let d := s.cur.live.desc mine.toNat
  let o := s.cur.live.desc other.toNat
  if isRawFmt (s.fmtOfDesc d) && decide (o.base.toNat < 0x400000) then s.fmtOfDesc o else s.fmtOfDesc d

/-- R221: the need of a side of `v.cpy`. -/
def State.copyNeed (s : State) (mine other : BitVec 4) (n : Nat) : Need :=
  let x := s.copyFmt mine other
  { d := mine, count := some n, fmt := fun _ => true,
    moves := if isRawFmt (s.fmtOfDesc (s.cur.live.desc mine.toNat)) && !isRawFmt x then some x else none }

/-- R221. -/
def execVCpy (f : VR) (s : State) : Out :=
  let n := s.count f.da
  let dd := { s.region f.dd with fmt := s.copyFmt f.dd f.da }
  let da := { s.region f.da with fmt := s.copyFmt f.da f.dd }
  s.vStream (.vCpy f) f.g [s.copyNeed f.dd f.da n, s.copyNeed f.da f.dd n] (streamTime n [dd.time, da.time])
    { word := .vCpy f, dd := dd, da := da }
/-- R221, R61. -/
def execVCvt (f : VR) (s : State) : Out := s.sources (.vCvt f) f 1
/-- R222. -/
def execVCmp (f : VR) (s : State) : Out := s.sources (.vCmp f) f 2
/-- R223. -/
def execVSel (f : VR) (s : State) : Out := s.sources (.vSel f) f 3

/-! ### Bits, ramps, indices (R224 to R226) -/

/-- R224: an integer region of the element size of `da`. -/
def State.bitsNeed (s : State) (f d : BitVec 4) : Need :=
  let x := s.fmtOfDesc (s.cur.live.desc f.toNat)
  { d := d, count := some (s.count f), fmt := fun y => isIntFmt y && (!isIntFmt x || eltSize x == eltSize y) }

/-- R224: a bitwise command. -/
def State.bitwise (s : State) (i : Instr) (f : VR) : Out :=
  let fs := [f.dd, f.da, f.db]
  s.vStream i f.g (fs.map (s.bitsNeed f.da)) (streamTime (s.count f.da) (fs.map (fun d => (s.region d).time)))
    { word := i, dd := s.region f.dd, da := s.region f.da, db := s.region f.db }

/-- R224: a shift. -/
def State.shifted (s : State) (i : Instr) (f : VS) : Out :=
  let fs := [f.dd, f.da]
  s.vStream i f.g (fs.map (s.bitsNeed f.da)) (streamTime (s.count f.da) (fs.map (fun d => (s.region d).time)))
    { word := i, dd := s.region f.dd, da := s.region f.da, sv := s.value f.ss }

/-- R224. -/
def execVAnd (f : VR) (s : State) : Out := s.bitwise (.vAnd f) f
/-- R224. -/
def execVOr (f : VR) (s : State) : Out := s.bitwise (.vOr f) f
/-- R224. -/
def execVXor (f : VR) (s : State) : Out := s.bitwise (.vXor f) f
/-- R224. -/
def execVShl (f : VS) (s : State) : Out := s.shifted (.vShl f) f
/-- R224. -/
def execVShr (f : VS) (s : State) : Out := s.shifted (.vShr f) f
/-- R225. -/
def execVIota (f : VS) (s : State) : Out :=
  s.vStream (.vIota f) f.g [{ d := f.dd, count := none }] (streamTime (s.count f.dd) [(s.region f.dd).time])
    { word := .vIota f, dd := s.region f.dd, sv := s.value f.ss }

/-- R226: the job of an indexed command. -/
def State.indexed (s : State) (i : Instr) (f : VR) : VJob :=
  { word := i, dd := s.region f.dd, da := s.region f.da, db := s.region f.db }

/-- R226. -/
def execVGath (f : VR) (s : State) : Out :=
  let n := s.count f.db
  s.vStream (.vGath f) f.g
    [{ d := f.dd, count := some n }, { d := f.da, count := none }, { d := f.db, count := none, fmt := isIntFmt }]
    (streamTime n [(s.region f.dd).time, (s.region f.da).indexedTime, (s.region f.db).time]) (s.indexed (.vGath f) f)
/-- R226: records are indivisible. -/
def execVScat (f : VR) (s : State) : Out :=
  let n := s.count f.da
  s.vStream (.vScat f) f.g
    [{ d := f.dd, count := none, fmt := fun x => !isRawFmt x && !isRecFmt x }, { d := f.da, count := none },
     { d := f.db, count := some n, fmt := isIntFmt }]
    (streamTime n [(s.region f.dd).indexedTime, (s.region f.da).time, (s.region f.db).time]) (s.indexed (.vScat f) f)
/-- R226. -/
def execVPerm (f : VR) (s : State) : Out :=
  let n := s.count f.da
  s.vStream (.vPerm f) f.g
    [{ d := f.dd, count := some n }, { d := f.da, count := none }, { d := f.db, count := some n, fmt := isIntFmt }]
    (streamTime n [(s.region f.dd).time, (s.region f.da).time, (s.region f.db).time]) (s.indexed (.vPerm f) f)

/-! ### Reductions and status (R227 to R229) -/

/-- R214, R227, R229, R261 to R263: the streaming cycles of a word with a scalar result; 0 for other words. -/
def State.scalarTime (s : State) (i : Instr) : Nat := match i with
  | .vRsum f | .vRmax f | .vRmin f => streamTime (s.count f.da) [(s.region f.da).time]
  | .vRdot f => streamTime (s.count f.da) [(s.region f.da).time, (s.region f.db).time]
  | .vNfck f => streamTime (s.count f.da) ((if f.md.getLsbD 0 then [f.dd, f.da] else [f.da]).map (fun d => (s.region d).time))
  | .vSkqq f => longest [(s.region f.da).time] + 4
  | .vSkest f => longest [(s.region f.da).time] + 4
  | .vSktop f => longest [(s.region f.dd).time, (s.region f.da).time] + 4
  | _ => 0

/-- R227: a reduction of `da`. -/
def State.reduction (s : State) (i : Instr) (f : VR) : Out :=
  s.vStream i f.g [{ d := f.da, count := none }] (s.scalarTime i)
    { word := i, da := s.region f.da, b4 := s.toB4 }

/-- R227. -/
def execVRsum (f : VR) (s : State) : Out := s.reduction (.vRsum f) f
/-- R227. -/
def execVRmax (f : VR) (s : State) : Out := s.reduction (.vRmax f) f
/-- R227. -/
def execVRmin (f : VR) (s : State) : Out := s.reduction (.vRmin f) f
/-- R227. -/
def execVRdot (f : VR) (s : State) : Out :=
  let n := s.count f.da
  s.vStream (.vRdot f) f.g [{ d := f.da, count := none }, { d := f.db, count := some n }] (s.scalarTime (.vRdot f))
    { word := .vRdot f, da := s.region f.da, db := s.region f.db, b4 := s.toB4 }

/-- R228. -/
def execVRstat (f : VS) (s : State) : Out :=
  s.word (Instr.vRstat f).wf f.g (fun s =>
    let mask := s.value f.ss
    let s := (s.earlyFlags s.key).noteHeld
    let v := s.cur.live.vstat
    (s.updLive (fun a => { a with vstat := clearFlags a.vstat mask })).result .none 7 (some 4) (v.zeroExtend 64))

/-- R229. -/
def execVNfck (f : VR) (s : State) : Out :=
  let n := s.count f.da
  let mark := f.md.getLsbD 0
  let fs := if mark then [f.dd, f.da] else [f.da]
  s.vStream (.vNfck f) f.g (fs.map (fun d => { d := d, count := some n })) (s.scalarTime (.vNfck f))
    { word := .vNfck f, dd := if mark then s.region f.dd else {}, da := s.region f.da, b4 := s.toB4 }

/-- R230. -/
def execVPgen (f : VR) (s : State) : Out :=
  let n := s.count f.da
  s.vStream (.vPgen f) f.g
    [{ d := f.dd, count := some n, fmt := fun x => x == 6 }, { d := f.da, count := none },
     { d := f.db, count := some (8 * n), fmt := fun x => x == 6 }]
    (streamTime n [(s.region f.dd).time, (s.region f.da).time, (s.region f.db).time]) (s.indexed (.vPgen f) f)

/-- R231: records of one kind. -/
def execVRscale (f : VS) (s : State) : Out :=
  let n := s.count f.da
  let x := s.fmtOfDesc (s.cur.live.desc f.da.toNat)
  s.vStream (.vRscale f) f.g
    [{ d := f.dd, count := some n, fmt := fun y => isRecFmt y && y == x }, { d := f.da, count := none, fmt := isRecFmt }]
    (streamTime n [(s.region f.dd).time, (s.region f.da).time])
    { word := .vRscale f, dd := s.region f.dd, da := s.region f.da, sv := s.value f.ss }

/-! ### Summaries (R239, R255 to R263) -/

/-- R239: a record of `n` bytes. -/
def recordNeed (d : BitVec 4) (n : Option Nat) : Need :=
  { d := d, count := n, fmt := fun x => x == 6, also := fun x => x.stride == 1 && x.base.toNat % 8 == 0 }

/-- R242: mode 0 advances the coin of the context once, at issue; the new state seeds the command. -/
def State.drawCoin (s : State) (takes : Bool) : W64 × State :=
  if takes then
    let x := coinStep s.cur.live.coin
    (x, s.updLive (fun a => { a with coin := x }))
  else (0, s)

/-- The record a descriptor names, as the context in hand sees it at issue. -/
def State.recordAt (s : State) (d : BitVec 4) : List Byte := (s.region d).record (s.view s.key)

/-- R256. -/
def execVSkinit (f : VS) (s : State) : Out :=
  let n := match f.md.toNat % 4 with
    | 0 => 2048
    | 1 => 512
    | _ => 1040
  s.vStream (.vSkinit f) f.g [recordNeed f.dd (some n)] (longest [(s.region f.dd).time])
    { word := .vSkinit f, dd := s.region f.dd, sv := s.value f.ss }

/-- R257: the command samples at issue, for its time depends on the compactions it makes (log 22). -/
def execVSkq (f : VR) (s : State) : Out :=
  s.word (Instr.vSkq f).wf f.g (fun s =>
    s.regions [recordNeed f.dd (some 2048), { d := f.da, count := none }] (fun s =>
      let dd := s.region f.dd
      let da := s.region f.da
      let s := (s.touch dd.span.1 dd.span.2).touch da.span.1 da.span.2
      let (x, s) := s.drawCoin (recField (s.recordAt f.dd) 2 1 == 0)
      let n := skqOps dd da x s.issueView
      s.stream s.iss.slot 6 (longest [dd.time, da.time] + 2 * n) true { word := .vSkq f, dd := dd, da := da, coin := x }))

/-- R258: `kwid` is sampled at issue. -/
def execVSkh (f : VR) (s : State) : Out :=
  let kw := recField (s.recordAt f.dd) 1 1
  s.vStream (.vSkh f) f.g
    [recordNeed f.dd (some 512),
     { d := f.da, count := none, fmt := fun x => isIntFmt x && (!(kw == 2 || kw == 4) || decide (eltSize x ≤ kw)) }]
    (longest [(s.region f.dd).time, (s.region f.da).time 4]) { word := .vSkh f, dd := s.region f.dd, da := s.region f.da, kw := kw }

/-- R259. -/
def execVSkd (f : VR) (s : State) : Out :=
  s.vStream (.vSkd f) f.g [recordNeed f.dd (some 1040), { d := f.da, count := none, fmt := fun x => isIntFmt x || x == 0 }]
    (longest [(s.region f.dd).time, (s.region f.da).time]) { word := .vSkd f, dd := s.region f.dd, da := s.region f.da }

/-- R260: the regions are identical or disjoint. -/
def apartOrSame (a : Desc) (b : Desc) : Bool := a == b || !overlaps a.base.toNat a.count.toNat b.base.toNat b.count.toNat

/-- R260: as R257, the command samples at issue. -/
def execVSkm (f : VR) (s : State) : Out :=
  let a := s.cur.live.desc f.da.toNat
  let need := recordNeed f.dd (some (s.count f.da))
  s.word (Instr.vSkm f).wf f.g (fun s =>
    s.regions [{ need with also := fun d => need.also d && apartOrSame a d }, recordNeed f.da none] (fun s =>
      let dd := s.region f.dd
      let da := s.region f.da
      let s := (s.touch dd.span.1 dd.span.2).touch da.span.1 da.span.2
      let hd := s.recordAt f.dd
      let (x, s) := s.drawCoin (recField hd 0 1 == 0x51 && recField hd 2 1 == 0)
      let n := (mergeRecords (dd.record s.issueView) (da.record s.issueView) x false).2
      s.stream s.iss.slot 6 (longest [dd.time, da.time] + 2 * n) true { word := .vSkm f, dd := dd, da := da, coin := x }))

/-- R261. -/
def execVSkqq (f : VS) (s : State) : Out :=
  s.vStream (.vSkqq f) f.g [recordNeed f.da (some 2048)] (s.scalarTime (.vSkqq f))
    { word := .vSkqq f, da := s.region f.da, sv := s.value f.ss, b4 := s.toB4 }
/-- R262. -/
def execVSkest (f : VR) (s : State) : Out :=
  s.vStream (.vSkest f) f.g [recordNeed f.da (some 1040)] (s.scalarTime (.vSkest f))
    { word := .vSkest f, da := s.region f.da, b4 := s.toB4 }
/-- R263. -/
def execVSktop (f : VR) (s : State) : Out :=
  s.vStream (.vSktop f) f.g
    [{ d := f.dd, count := none, fmt := fun x => x == 3, also := fun d => d.count.toNat % 2 == 0 && decide (2 ≤ d.count.toNat) &&
        decide (d.count.toNat ≤ 124) }, recordNeed f.da (some 512)] (s.scalarTime (.vSktop f))
    { word := .vSktop f, dd := s.region f.dd, da := s.region f.da, b4 := s.toB4 }

end Sys2Proof.Machine
end

