-- ==== Sys2Proof/Machine/SpecialWords.lean ====
section
/-! DEFINITION. The F class and the X class (R232 to R238). -/

namespace Sys2Proof.Machine

/-- R232: the frame of an F word: the scalar form at c + 8, or the region form. -/
def State.fword (s : State) (i : Instr) (f : VS) : Out :=
  s.word i.wf f.g (fun s =>
    if f.md.getLsbD 0 then
      let (r, fl) := special (specialOpOf i) ((s.value f.ss).extractLsb' 0 32)
      if !s.iss.sec && s.b4Busy 8 then s.raise 5 causeSchedule (BitVec.ofNat 64 s.iss.widx)
      else .next ((s.updLive (fun a => { a with flights := a.flights ++
        [{ rem := 8, dst := .none, latch := if s.iss.sec then none else some 4, val := fpWord r, fl := fl }] })).noteHeld)
    else
      let n := s.count f.da
      s.regions [{ d := f.dd, count := some n }, { d := f.da, count := some n }] (fun s =>
        s.stream 3 10 (streamTime n [(s.region f.dd).time 4, (s.region f.da).time 4]) false
          { word := i, dd := s.region f.dd, da := s.region f.da }))

/-- R233. -/
def execFExp (f : VS) (s : State) : Out := s.fword (.fExp f) f
/-- R233. -/
def execFLog (f : VS) (s : State) : Out := s.fword (.fLog f) f
/-- R233. -/
def execFExp2 (f : VS) (s : State) : Out := s.fword (.fExp2 f) f
/-- R233. -/
def execFLog2 (f : VS) (s : State) : Out := s.fword (.fLog2 f) f
/-- R233. -/
def execFRcp (f : VS) (s : State) : Out := s.fword (.fRcp f) f
/-- R233. -/
def execFRsqrt (f : VS) (s : State) : Out := s.fword (.fRsqrt f) f
/-- R233. -/
def execFSqrt (f : VS) (s : State) : Out := s.fword (.fSqrt f) f
/-- R233. -/
def execFTanh (f : VS) (s : State) : Out := s.fword (.fTanh f) f
/-- R233. -/
def execFSigm (f : VS) (s : State) : Out := s.fword (.fSigm f) f
/-- R233. -/
def execFGelu (f : VS) (s : State) : Out := s.fword (.fGelu f) f
/-- R233. -/
def execFSilu (f : VS) (s : State) : Out := s.fword (.fSilu f) f
/-- R233. -/
def execFSin (f : VS) (s : State) : Out := s.fword (.fSin f) f
/-- R233. -/
def execFCos (f : VS) (s : State) : Out := s.fword (.fCos f) f
/-- R233. -/
def execFErf (f : VS) (s : State) : Out := s.fword (.fErf f) f

/-- R236: the regions of an X command: one format that is not a record format, one count; raw banks are permitted. -/
def State.laneNeeds (s : State) (f : VR) : List Need :=
  let x := s.fmtOfDesc (s.cur.live.desc f.da.toNat)
  [{ d := f.dd, count := some (s.count f.da), fmt := fun y => y == x && !isRecFmt y },
   { d := f.da, count := none, fmt := fun y => !isRecFmt y }]

/-- R236, R238: an X command, with the lane pattern as it stands at issue. -/
def State.xword (s : State) (i : Instr) (f : VR) : Out :=
  s.word i.wf f.g (fun s =>
    s.regions (s.laneNeeds f) (fun s =>
      s.stream 4 6 (streamTime (s.count f.da) [(s.region f.dd).time, (s.region f.da).time]) false
        { word := i, dd := s.region f.dd, da := s.region f.da, pat := s.cur.pattern }))

/-- R237. -/
def execXLd (f : VR) (s : State) : Out :=
  s.word (Instr.xLd f).wf f.g (fun s =>
    s.regions [{ d := f.da, count := some 64, fmt := fun x => x == 5 || x == 6 || isRawFmt x }] (fun s =>
      s.stream 4 6 (longest [(s.region f.da).time]) false { word := .xLd f, da := s.region f.da }))
/-- R238: a collision of the pattern raises the illegal-schedule trap at issue. -/
def execXApp (f : VR) (s : State) : Out :=
  if (Instr.xApp f).wf && !s.annulled f.g && patternCollides s.cur.pattern then
    s.raise 5 causeSchedule (BitVec.ofNat 64 s.iss.widx)
  else s.xword (.xApp f) f
/-- R238. -/
def execXRot (f : VR) (s : State) : Out := s.xword (.xRot f) f
/-- R238. -/
def execXBc (f : VR) (s : State) : Out := s.xword (.xBc f) f
/-- R238. -/
def execXTr (f : VR) (s : State) : Out := s.xword (.xTr f) f
/-- R238. -/
def execXRev (f : VR) (s : State) : Out := s.xword (.xRev f) f

end Sys2Proof.Machine
end

