-- ==== Sys2Proof/Machine/Dispatch.lean ====
section
/-! DEFINITION. One arm per constructor of the instruction set: the direct call of its meaning. -/

namespace Sys2Proof.Machine

/-- What each instruction word does for the context in hand, and each event for the package. -/
def exec (i : Instr) (s : State) : Host.Outcome State Fault Refusal :=
  match i with
  | .hdr f => Sys2Proof.Machine.execHdr f s
  | .ext f => Sys2Proof.Machine.execExt f s
  | .sNop f => Sys2Proof.Machine.execSNop f s
  | .sAdd f => Sys2Proof.Machine.execSAdd f s
  | .sSub f => Sys2Proof.Machine.execSSub f s
  | .sMul f => Sys2Proof.Machine.execSMul f s
  | .sMulh f => Sys2Proof.Machine.execSMulh f s
  | .sMulhu f => Sys2Proof.Machine.execSMulhu f s
  | .sDiv f => Sys2Proof.Machine.execSDiv f s
  | .sDivu f => Sys2Proof.Machine.execSDivu f s
  | .sRem f => Sys2Proof.Machine.execSRem f s
  | .sRemu f => Sys2Proof.Machine.execSRemu f s
  | .sAnd f => Sys2Proof.Machine.execSAnd f s
  | .sOr f => Sys2Proof.Machine.execSOr f s
  | .sXor f => Sys2Proof.Machine.execSXor f s
  | .sAndn f => Sys2Proof.Machine.execSAndn f s
  | .sShl f => Sys2Proof.Machine.execSShl f s
  | .sShr f => Sys2Proof.Machine.execSShr f s
  | .sSra f => Sys2Proof.Machine.execSSra f s
  | .sMin f => Sys2Proof.Machine.execSMin f s
  | .sMax f => Sys2Proof.Machine.execSMax f s
  | .sMinu f => Sys2Proof.Machine.execSMinu f s
  | .sMaxu f => Sys2Proof.Machine.execSMaxu f s
  | .sAddi f => Sys2Proof.Machine.execSAddi f s
  | .sAndi f => Sys2Proof.Machine.execSAndi f s
  | .sOri f => Sys2Proof.Machine.execSOri f s
  | .sXori f => Sys2Proof.Machine.execSXori f s
  | .sShli f => Sys2Proof.Machine.execSShli f s
  | .sShri f => Sys2Proof.Machine.execSShri f s
  | .sSrai f => Sys2Proof.Machine.execSSrai f s
  | .sLi f => Sys2Proof.Machine.execSLi f s
  | .sMov f => Sys2Proof.Machine.execSMov f s
  | .sSel f => Sys2Proof.Machine.execSSel f s
  | .sCmp f => Sys2Proof.Machine.execSCmp f s
  | .sCmpi f => Sys2Proof.Machine.execSCmpi f s
  | .sPlog f => Sys2Proof.Machine.execSPlog f s
  | .sClz f => Sys2Proof.Machine.execSClz f s
  | .sPopc f => Sys2Proof.Machine.execSPopc f s
  | .sBfx f => Sys2Proof.Machine.execSBfx f s
  | .sBfi f => Sys2Proof.Machine.execSBfi f s
  | .sSext f => Sys2Proof.Machine.execSSext f s
  | .sBr f => Sys2Proof.Machine.execSBr f s
  | .sJmp f => Sys2Proof.Machine.execSJmp f s
  | .sCall f => Sys2Proof.Machine.execSCall f s
  | .sRet f => Sys2Proof.Machine.execSRet f s
  | .sLoop f => Sys2Proof.Machine.execSLoop f s
  | .sLbrk f => Sys2Proof.Machine.execSLbrk f s
  | .sRdlc f => Sys2Proof.Machine.execSRdlc f s
  | .sRdid f => Sys2Proof.Machine.execSRdid f s
  | .sRdtime f => Sys2Proof.Machine.execSRdtime f s
  | .sRdcoin f => Sys2Proof.Machine.execSRdcoin f s
  | .sMfp f => Sys2Proof.Machine.execSMfp f s
  | .sMtp f => Sys2Proof.Machine.execSMtp f s
  | .mLd f => Sys2Proof.Machine.execMLd f s
  | .mSt f => Sys2Proof.Machine.execMSt f s
  | .mLdg f => Sys2Proof.Machine.execMLdg f s
  | .mStg f => Sys2Proof.Machine.execMStg f s
  | .mSth f => Sys2Proof.Machine.execMSth f s
  | .mAmo f => Sys2Proof.Machine.execMAmo f s
  | .mLda f => Sys2Proof.Machine.execMLda f s
  | .vDset f => Sys2Proof.Machine.execVDset f s
  | .vDget f => Sys2Proof.Machine.execVDget f s
  | .vAdd f => Sys2Proof.Machine.execVAdd f s
  | .vSub f => Sys2Proof.Machine.execVSub f s
  | .vMul f => Sys2Proof.Machine.execVMul f s
  | .vFma f => Sys2Proof.Machine.execVFma f s
  | .vMax f => Sys2Proof.Machine.execVMax f s
  | .vMin f => Sys2Proof.Machine.execVMin f s
  | .vAbs f => Sys2Proof.Machine.execVAbs f s
  | .vNeg f => Sys2Proof.Machine.execVNeg f s
  | .vScal f => Sys2Proof.Machine.execVScal f s
  | .vAxpy f => Sys2Proof.Machine.execVAxpy f s
  | .vFill f => Sys2Proof.Machine.execVFill f s
  | .vCpy f => Sys2Proof.Machine.execVCpy f s
  | .vCvt f => Sys2Proof.Machine.execVCvt f s
  | .vCmp f => Sys2Proof.Machine.execVCmp f s
  | .vSel f => Sys2Proof.Machine.execVSel f s
  | .vAnd f => Sys2Proof.Machine.execVAnd f s
  | .vOr f => Sys2Proof.Machine.execVOr f s
  | .vXor f => Sys2Proof.Machine.execVXor f s
  | .vShl f => Sys2Proof.Machine.execVShl f s
  | .vShr f => Sys2Proof.Machine.execVShr f s
  | .vClip f => Sys2Proof.Machine.execVClip f s
  | .vIota f => Sys2Proof.Machine.execVIota f s
  | .vGath f => Sys2Proof.Machine.execVGath f s
  | .vScat f => Sys2Proof.Machine.execVScat f s
  | .vPerm f => Sys2Proof.Machine.execVPerm f s
  | .vRsum f => Sys2Proof.Machine.execVRsum f s
  | .vRmax f => Sys2Proof.Machine.execVRmax f s
  | .vRmin f => Sys2Proof.Machine.execVRmin f s
  | .vRdot f => Sys2Proof.Machine.execVRdot f s
  | .vRstat f => Sys2Proof.Machine.execVRstat f s
  | .vNfck f => Sys2Proof.Machine.execVNfck f s
  | .vPgen f => Sys2Proof.Machine.execVPgen f s
  | .vRscale f => Sys2Proof.Machine.execVRscale f s
  | .vSkinit f => Sys2Proof.Machine.execVSkinit f s
  | .vSkq f => Sys2Proof.Machine.execVSkq f s
  | .vSkh f => Sys2Proof.Machine.execVSkh f s
  | .vSkd f => Sys2Proof.Machine.execVSkd f s
  | .vSkm f => Sys2Proof.Machine.execVSkm f s
  | .vSkqq f => Sys2Proof.Machine.execVSkqq f s
  | .vSkest f => Sys2Proof.Machine.execVSkest f s
  | .vSktop f => Sys2Proof.Machine.execVSktop f s
  | .fExp f => Sys2Proof.Machine.execFExp f s
  | .fLog f => Sys2Proof.Machine.execFLog f s
  | .fExp2 f => Sys2Proof.Machine.execFExp2 f s
  | .fLog2 f => Sys2Proof.Machine.execFLog2 f s
  | .fRcp f => Sys2Proof.Machine.execFRcp f s
  | .fRsqrt f => Sys2Proof.Machine.execFRsqrt f s
  | .fSqrt f => Sys2Proof.Machine.execFSqrt f s
  | .fTanh f => Sys2Proof.Machine.execFTanh f s
  | .fSigm f => Sys2Proof.Machine.execFSigm f s
  | .fGelu f => Sys2Proof.Machine.execFGelu f s
  | .fSilu f => Sys2Proof.Machine.execFSilu f s
  | .fSin f => Sys2Proof.Machine.execFSin f s
  | .fCos f => Sys2Proof.Machine.execFCos f s
  | .fErf f => Sys2Proof.Machine.execFErf f s
  | .xLd f => Sys2Proof.Machine.execXLd f s
  | .xApp f => Sys2Proof.Machine.execXApp f s
  | .xRot f => Sys2Proof.Machine.execXRot f s
  | .xBc f => Sys2Proof.Machine.execXBc f s
  | .xTr f => Sys2Proof.Machine.execXTr f s
  | .xRev f => Sys2Proof.Machine.execXRev f s
  | .tMm f => Sys2Proof.Machine.execTMm f s
  | .tMmg f => Sys2Proof.Machine.execTMmg f s
  | .tLdb f => Sys2Proof.Machine.execTLdb f s
  | .tZclr f => Sys2Proof.Machine.execTZclr f s
  | .tZld f => Sys2Proof.Machine.execTZld f s
  | .tZst f => Sys2Proof.Machine.execTZst f s
  | .tCop f => Sys2Proof.Machine.execTCop f s
  | .tZadd f => Sys2Proof.Machine.execTZadd f s
  | .aFwd f => Sys2Proof.Machine.execAFwd f s
  | .aBwd f => Sys2Proof.Machine.execABwd f s
  | .aUpd f => Sys2Proof.Machine.execAUpd f s
  | .aXfer f => Sys2Proof.Machine.execAXfer f s
  | .aSymw f => Sys2Proof.Machine.execASymw f s
  | .aSymr f => Sys2Proof.Machine.execASymr f s
  | .aProg f => Sys2Proof.Machine.execAProg f s
  | .aCkpt f => Sys2Proof.Machine.execACkpt f s
  | .aGfwd f => Sys2Proof.Machine.execAGfwd f s
  | .aGbwd f => Sys2Proof.Machine.execAGbwd f s
  | .aGupd f => Sys2Proof.Machine.execAGupd f s
  | .aSeed f => Sys2Proof.Machine.execASeed f s
  | .aScl f => Sys2Proof.Machine.execAScl f s
  | .aStat f => Sys2Proof.Machine.execAStat f s
  | .qCopy f => Sys2Proof.Machine.execQCopy f s
  | .qTokst f => Sys2Proof.Machine.execQTokst f s
  | .qDrain f => Sys2Proof.Machine.execQDrain f s
  | .qFence f => Sys2Proof.Machine.execQFence f s
  | .qPut f => Sys2Proof.Machine.execQPut f s
  | .qLaunch f => Sys2Proof.Machine.execQLaunch f s
  | .qGlaunch f => Sys2Proof.Machine.execQGlaunch f s
  | .qCancel f => Sys2Proof.Machine.execQCancel f s
  | .qExit f => Sys2Proof.Machine.execQExit f s
  | .qPgreq f => Sys2Proof.Machine.execQPgreq f s
  | .qSortc f => Sys2Proof.Machine.execQSortc f s
  | .qCarm f => Sys2Proof.Machine.execQCarm f s
  | .qCtrig f => Sys2Proof.Machine.execQCtrig f s
  | .qCstat f => Sys2Proof.Machine.execQCstat f s
  | .qHset f => Sys2Proof.Machine.execQHset f s
  | .qOffer f => Sys2Proof.Machine.execQOffer f s
  | .qSrec f => Sys2Proof.Machine.execQSrec f s
  | .qWaitk f => Sys2Proof.Machine.execQWaitk f s
  | .qKclr f => Sys2Proof.Machine.execQKclr f s
  | .pTrap f => Sys2Proof.Machine.execPTrap f s
  | .pEret f => Sys2Proof.Machine.execPEret f s
  | .pCsrr f => Sys2Proof.Machine.execPCsrr f s
  | .pCsrw f => Sys2Proof.Machine.execPCsrw f s
  | .pCsrs f => Sys2Proof.Machine.execPCsrs f s
  | .pCsrc f => Sys2Proof.Machine.execPCsrc f s
  | .pTlbi f => Sys2Proof.Machine.execPTlbi f s
  | .pCtxsv f => Sys2Proof.Machine.execPCtxsv f s
  | .pCtxld f => Sys2Proof.Machine.execPCtxld f s
  | .pHalt f => Sys2Proof.Machine.execPHalt f s
  | .pPmt f => Sys2Proof.Machine.execPPmt f s
  | .monitorPowerCall k => Sys2Proof.Machine.execMonitorPowerCall k s
  | .monitorPageTableRootCall k => Sys2Proof.Machine.execMonitorPageTableRootCall k s
  | .nextPrimaryChoice core => Sys2Proof.Machine.execNextPrimaryChoice core s
  | .syncEpisodeResume line => Sys2Proof.Machine.execSyncEpisodeResume line s
  | .syncTimeout line => Sys2Proof.Machine.execSyncTimeout line s
  | .watchdogExpiry k => Sys2Proof.Machine.execWatchdogExpiry k s
  | .streamingCommandCompletion id => Sys2Proof.Machine.execStreamingCommandCompletion id s
  | .logMatrixCommandStart core => Sys2Proof.Machine.execLogMatrixCommandStart core s
  | .operandFetchDone id => Sys2Proof.Machine.execOperandFetchDone id s
  | .logMatrixCommandCompletion id => Sys2Proof.Machine.execLogMatrixCommandCompletion id s
  | .adcGroupCommandStart core grp => Sys2Proof.Machine.execAdcGroupCommandStart core grp s
  | .readLatencyExpiry id entry => Sys2Proof.Machine.execReadLatencyExpiry id entry s
  | .arrayCommandCompletion id entry => Sys2Proof.Machine.execArrayCommandCompletion id entry s
  | .operandBufferFillStart id => Sys2Proof.Machine.execOperandBufferFillStart id s
  | .copyCompletion id => Sys2Proof.Machine.execCopyCompletion id s
  | .engineTranslationFault id => Sys2Proof.Machine.execEngineTranslationFault id s
  | .engineEventPost die => Sys2Proof.Machine.execEngineEventPost die s
  | .sortCompletion id => Sys2Proof.Machine.execSortCompletion id s
  | .drainCompletion k => Sys2Proof.Machine.execDrainCompletion k s
  | .fenceCompletion k => Sys2Proof.Machine.execFenceCompletion k s
  | .tokenWaitCompletion k => Sys2Proof.Machine.execTokenWaitCompletion k s
  | .tlbInvalidationCompletion id => Sys2Proof.Machine.execTlbInvalidationCompletion id s
  | .remoteAccessAtTarget id => Sys2Proof.Machine.execRemoteAccessAtTarget id s
  | .stageAcknowledgement id => Sys2Proof.Machine.execStageAcknowledgement id s
  | .remoteResponseArrival id => Sys2Proof.Machine.execRemoteResponseArrival id s
  | .handlerArrival id => Sys2Proof.Machine.execHandlerArrival id s
  | .handlerQueueStart core => Sys2Proof.Machine.execHandlerQueueStart core s
  | .pipeSpaceFreed k => Sys2Proof.Machine.execPipeSpaceFreed k s
  | .unitCompletion uid => Sys2Proof.Machine.execUnitCompletion uid s
  | .unitTransfer uid => Sys2Proof.Machine.execUnitTransfer uid s
  | .completionCountArrival uid => Sys2Proof.Machine.execCompletionCountArrival uid s
  | .imageDataLoad core => Sys2Proof.Machine.execImageDataLoad core s
  | .dispatchDecision core => Sys2Proof.Machine.execDispatchDecision core s
  | .syncLaunchDispatch handle => Sys2Proof.Machine.execSyncLaunchDispatch handle s
  | .stealClaim core => Sys2Proof.Machine.execStealClaim core s
  | .cancelArrival die handle => Sys2Proof.Machine.execCancelArrival die handle s
  | .jobStart part addr => Sys2Proof.Machine.execJobStart part addr s
  | .microBatchTokenArrival die tok => Sys2Proof.Machine.execMicroBatchTokenArrival die tok s
  | .phaseStart die => Sys2Proof.Machine.execPhaseStart die s
  | .phaseCompletion handle => Sys2Proof.Machine.execPhaseCompletion handle s
  | .collectiveFiringStart slot => Sys2Proof.Machine.execCollectiveFiringStart slot s
  | .collectiveFiringCompletion slot => Sys2Proof.Machine.execCollectiveFiringCompletion slot s
  | .collectiveTransferArrival t => Sys2Proof.Machine.execCollectiveTransferArrival t s
  | .flitReception die link f good => Sys2Proof.Machine.execFlitReception die link f good s
  | .refusalReceipt die link vc seq => Sys2Proof.Machine.execRefusalReceipt die link vc seq s
  | .acknowledgementTimer die link vc => Sys2Proof.Machine.execAcknowledgementTimer die link vc s
  | .replayTimeout die link vc => Sys2Proof.Machine.execReplayTimeout die link vc s
  | .automaticBackOff die link => Sys2Proof.Machine.execAutomaticBackOff die link s
  | .laneRetirement die link mod lane => Sys2Proof.Machine.execLaneRetirement die link mod lane s
  | .linkRateWrite die link rate => Sys2Proof.Machine.execLinkRateWrite die link rate s
  | .mailboxPop part => Sys2Proof.Machine.execMailboxPop part s
  | .jobAddressWrite part addr => Sys2Proof.Machine.execJobAddressWrite part addr s
  | .contextFreeze k cause => Sys2Proof.Machine.execContextFreeze k cause s
  | .eventTake k => Sys2Proof.Machine.execEventTake k s
  | .contextQuiescence k => Sys2Proof.Machine.execContextQuiescence k s
  | .replayInjection k => Sys2Proof.Machine.execReplayInjection k s
  | .powerOn => Sys2Proof.Machine.execPowerOn s
  | .pcieFundamentalReset => Sys2Proof.Machine.execPcieFundamentalReset s
  | .readIdentity => Sys2Proof.Machine.execReadIdentity s
  | .attest => Sys2Proof.Machine.execAttest s
  | .challenge => Sys2Proof.Machine.execChallenge s
  | .unlock => Sys2Proof.Machine.execUnlock s
  | .relock => Sys2Proof.Machine.execRelock s
  | .enterRma => Sys2Proof.Machine.execEnterRma s
  | .provision => Sys2Proof.Machine.execProvision s
  | .createPartition => Sys2Proof.Machine.execCreatePartition s
  | .destroyPartition => Sys2Proof.Machine.execDestroyPartition s
  | .reassignCluster => Sys2Proof.Machine.execReassignCluster s
  | .setPairOwner => Sys2Proof.Machine.execSetPairOwner s
  | .powerRequest => Sys2Proof.Machine.execPowerRequest s
  | .dieReset => Sys2Proof.Machine.execDieReset s
  | .warmStart => Sys2Proof.Machine.execWarmStart s
  | .recoveryImage => Sys2Proof.Machine.execRecoveryImage s
  | .debugHalt => Sys2Proof.Machine.execDebugHalt s
  | .debugStep => Sys2Proof.Machine.execDebugStep s
  | .debugResume => Sys2Proof.Machine.execDebugResume s
  | .traceOn => Sys2Proof.Machine.execTraceOn s
  | .traceOff => Sys2Proof.Machine.execTraceOff s
  | .debugFreeze => Sys2Proof.Machine.execDebugFreeze s
  | .uncorrectableError die => Sys2Proof.Machine.execUncorrectableError die s
  | .correctedError die => Sys2Proof.Machine.execCorrectedError die s
  | .branchResolution k => Sys2Proof.Machine.execBranchResolution k s
  | .linkRetrainCompletion die link mod => Sys2Proof.Machine.execLinkRetrainCompletion die link mod s
  | .flitTransmission die link mod => Sys2Proof.Machine.execFlitTransmission die link mod s
  | .returnToP0 die cluster => Sys2Proof.Machine.execReturnToP0 die cluster s
  | .hostCxlMemAccess isWrite part addr len data => Sys2Proof.Machine.execHostCxlMemAccess isWrite part addr len data s

end Sys2Proof.Machine
end

