-- ==== Sys2Proof/Machine/Issue.lean ====
section
/-! DEFINITION. Issuing bundles on a core: the order of a bundle's words, its one trap, the primary and the merged candidate
(R20 to R23, R100 to R103, R112). -/

namespace Sys2Proof.Machine

/-- The order in which the words of a bundle act: loads and reads before stores (R80 bo), descriptors and control registers after the words that read them
(R212, R389), waits, drains and fences after the accesses of their bundle, which are not po-before them (R80, R187, R189), the header's effects and control at the end (R103, R172), `q.exit` last (R205). -/
def phaseOf (i : Instr) : Nat := match i with
  | .mSt _ | .mStg _ | .mSth _ | .mAmo _ => 2
  | .vDset _ | .pCsrw _ | .pCsrs _ | .pCsrc _ | .qWaitk _ | .qDrain _ | .qFence _ => 3
  | .hdr _ => 4
  | .sLoop _ => 5
  | .sBr _ | .sJmp _ | .sCall _ | .sRet _ | .sLbrk _ => 6
  | .qExit _ => 7
  | i => if i.cls = 1 ∨ i.cls = 9 then 0 else 1

/-- The words of a bundle in the order they act. -/
def ordered (b : Bundle) : List BWord := sortBy (fun x y => decide (phaseOf x.instr < phaseOf y.instr)) b.words

/-- Take a bundle in hand (R99, R103): its guard is read and the program counter moves past it. -/
def State.begin (s : State) (k : Nat) (b : Bundle) (sec : Bool) : State :=
  let c := s.ctx k
  { (s.updCtx k (fun c => { c with noBrk := false, pendSync := none, issued := s.now + 1, live := { c.live with pc := b.next } })) with
    iss := { core := keyCore k, h := keyCtx k, guard := c.live.guardOf b.hdr, pc := b.start, next := b.next, sec := sec,
             when_ := s.now, src := some c.live } }

/-- Put a word in hand. -/
def State.take (s : State) (w : BWord) (off : Nat → Nat) : State :=
  { s with iss := { s.iss with widx := w.idx, word := w.raw, ext := [], trap := none,
                               slot := w.slot + off (if w.instr.cls = 9 then 1 else w.instr.cls) } }

/-- Run the EXT words of a word. -/
def runExts : List (BitVec 27) → State → Out
  | [], s => .next s
  | p :: ps, s => match exec (.ext { c := false, pay := p }) s with
    | .next t => runExts ps t
    | .fault r => .fault r
    | .refused r => .refused r

/-- Run one word after its EXT words. -/
def runWord (off : Nat → Nat) (w : BWord) (s : State) : Out :=
  match runExts w.exts (s.take w off) with
  | .next t => exec w.instr t
  | .fault r => .fault r
  | .refused r => .refused r

/-- The results that a word whose operands trap would have put in flight, without their values: a later word of its bundle may collide with one (R115). -/
def State.claims (s : State) (i : Instr) : List Flight := match i with
  | .mLd f => [{ rem := 4, dst := if f.nw then .none else .g f.reg.toNat, latch := none, val := 0 }]
  | .mLda f => [{ rem := 6, dst := if f.nw then .none else .g f.reg.toNat, latch := none, val := 0 }]
  | .vRsum _ | .vRmax _ | .vRmin _ | .vRdot _ | .vNfck _ | .vSkqq _ | .vSkest _ | .vSktop _ =>
    if s.iss.sec then [] else [{ rem := s.scalarTime i + 6, dst := .none, latch := some 4, val := 0 }]
  | _ => []

/-- Run words, keeping the traps they raise; a word that traps changes nothing (R112), but its result still collides with those of later words, row 5
before row 6. -/
def runWords (off : Nat → Nat) : List BWord → List Trap → State → Host.Outcome (State × List Trap) Fault Refusal
  | [], ts, s => .next (s, ts)
  | w :: ws, ts, s =>
    match runWord off w s with
    | .next t => (match t.iss.trap with
      | some x => runWords off ws (ts ++ [x]) (if x.ord = 6 then s.updLive (fun a => { a with flights := a.flights ++ s.claims w.instr }) else s)
      | none => runWords off ws ts t)
    | .fault r => .fault r
    | .refused r => .refused r

/-- R112: the row decides, and within a row the earliest word. -/
def bestTrap (ts : List Trap) : Option Trap :=
  (sortBy (fun x y : Trap => decide (x.ord < y.ord) || (x.ord == y.ord && decide (x.widx < y.widx))) ts).head?

/-- R413: a trace record of 8 bytes for a bundle, while the core traces into a buffer that has room: address, context, and the cycles since
the previous record, saturating; the first record counts from trace on. -/
def State.traceBundle (s : State) (b : Bundle) : State :=
  match (s.core s.iss.core).trace with
  | some (base, used, len, last) =>
    if used + 8 ≤ len then
      { (s.updCore s.iss.core (fun x => { x with trace := some (base, used + 8, len, s.now) })) with
        mem := s.mem.writeN (hostKey (base + used))
          (bytesOf 8 (b.start.toNat + s.iss.h * 2 ^ 32 + min (s.now - last) (2 ^ 29 - 1) * 2 ^ 35)) }
    else s
  | none => s

/-- R413: a context that a debug step lets issue one bundle is halted again. -/
def State.stepAgain (s : State) : State :=
  if s.cur.dbgStep then s.updCur (fun c => { c with dbgStep := false, freezeReq := some (s.now + 1, 15) }) else s

/-- The end of a bundle whose words all ran: loops turn back unless control transferred (R174). -/
def State.finish (s : State) (b : Bundle) : State :=
  let s := if s.iss.base.isNone then s.updLive (fun a => a.bundleEnd s.lead b.next) else s
  (s.traceBundle b).stepAgain

/-- A bundle that traps performs nothing (R112): the trap is taken on the state before it. -/
def State.trapAt (s : State) (k : Nat) (start : BitVec 32) (t : Trap) : State :=
  let s : State := { s with iss := { core := keyCore k, h := keyCtx k, pc := start, next := start } }
  if s.endsHandler k t && !(s.ctx k).speculative then s.killRun k else s.takeTrap t

/-- End a run: the trap its words raised, or its end. `s0` is the state before the bundle. -/
def conclude (k : Nat) (b : Bundle) (s0 : State) : Host.Outcome (State × List Trap) Fault Refusal → Out
  | .next (t, ts) => (match bestTrap ts with
    | some x => .next (s0.trapAt k b.start x)
    | none => .next (t.finish b))
  | .fault r => .fault r
  | .refused r => .refused r

/-- Issue one bundle on its own. -/
def issueOne (k : Nat) (b : Bundle) (sec : Bool) (off : Nat → Nat) (s : State) : Out :=
  conclude k b s (runWords off (ordered b) [] (s.begin k b sec))

/-- The traps a bundle would raise at issue. -/
def trapsOf (k : Nat) (b : Bundle) (sec : Bool) (off : Nat → Nat) (s : State) : List Trap :=
  match runWords off (ordered b) [] (s.begin k b sec) with
  | .next (_, ts) => ts
  | _ => []

/-- R112: the trap of a context whose next bundle has one in its header or heads: an earlier word of the bundle may have one of the same row. -/
def State.firstTrap (s : State) (k : Nat) (t : Trap) : Trap :=
  if t.ord = 3 then (match s.fetch (s.ctx k).img (s.ctx k).live.pc with
    | .bundle b => (bestTrap (t :: trapsOf k b false noOffset s)).getD t
    | .trap _ _ => t)
  else t

/-- The words of some phases. -/
def phases (b : Bundle) (p : Nat → Bool) : List BWord := (ordered b).filter (fun w => p (phaseOf w.instr))

/-- Go on from a run. -/
def thenRun (r : Host.Outcome (State × List Trap) Fault Refusal) (f : State → Out) : Out :=
  match r with
  | .next (t, _) => f t
  | .fault r => .fault r
  | .refused r => .refused r

/-- Run some words of each of two bundles that issue together, each on its own word in hand, the first bundle's first; `go` takes their words in hand and
the state from there. -/
def runBoth (off : Nat → Nat) (w1 w2 : List BWord) (i1 i2 : Iss) (s : State) (go : Iss → Iss → State → Out) : Out :=
  thenRun (runWords noOffset w1 [] { s with iss := i1 }) (fun s =>
    let i1 := s.iss
    thenRun (runWords off w2 [] { s with iss := i2 }) (fun s => go i1 s.iss s))

/-- R22, R23: issue two bundles in one cycle: S and P words of both, R351 in ascending context order; the other loads and reads of both, the primary's
stores, the secondary's stores, then their ends. What the secondary finds at issue it finds before the primary's stores (R53). -/
def issueTwo (k1 : Nat) (b1 : Bundle) (k2 : Nat) (b2 : Bundle) (s : State) : Out :=
  let off := fun c => b1.count c
  match bestTrap (trapsOf k2 b2 true off s) with
  | some x =>
    (match issueOne k1 b1 false noOffset s with
      | .next t => .next (t.trapAt k2 b2.start x)
      | r => r)
  | none =>
    let s1 := s.begin k1 b1 false
    let s2 := s1.begin k2 b2 true
    let late := fun n => decide (3 ≤ n)
    let scalars := fun (go : Iss → Iss → State → Out) =>
      if k1 < k2 then runBoth off (phases b1 (· == 0)) (phases b2 (· == 0)) s1.iss s2.iss s2 go
      else thenRun (runWords off (phases b2 (· == 0)) [] s2) (fun s =>
        let i2 := s.iss
        thenRun (runWords noOffset (phases b1 (· == 0)) [] { s with iss := s1.iss }) (fun s => go s.iss i2 s))
    scalars (fun i1 i2 s => runBoth off (phases b1 (· == 1)) (phases b2 (· == 1)) i1 i2 s (fun i1 i2 s =>
      runBoth off (phases b1 (· == 2)) (phases b2 (· == 2)) i1 i2 s (fun i1 i2 s =>
        thenRun (runWords noOffset (phases b1 late) [] { s with iss := i1 }) (fun s =>
          thenRun (runWords off (phases b2 late) [] { (s.finish b1) with iss := i2 }) (fun s => .next (s.finish b2))))))

/-- R22, R112: may the merge candidate, whose next bundle raises a trap before its words act, take it, beside the primary's bundle if there is one? Of a
bundle the conditions of R22 hold; code that gives no bundle takes no slot (log 98). -/
def State.mayTrap (s : State) (k : Nat) (primary : Option Bundle) : Bool := match s.fetch (s.ctx k).img (s.ctx k).live.pc with
  | .bundle b => mayFollow b && match primary with
    | some p => plainHeader p && slotsFree p b
    | none => true
  | .trap _ _ => true

/-- R22: the candidate issues alone, when its own bundle permits. -/
def issueAlone (core primary : Nat) (s : State) : Out :=
  match s.candidate core primary with
  | none => .next s
  | some h =>
    let k := ctxKey core h
    match s.plan k noOffset with
    | .issue b => if mayFollow b then issueOne k b true noOffset s else .next s
    | .trap a t => .next (if s.mayTrap k none then s.trapAt k a (s.firstTrap k t) else s)
    | _ => .next s

/-- R25, R371: did the producer of an inbound pipe complete in the cycle before this one, while the context stood at its present bundle? -/
def State.closedNow (s : State) (k : Nat) : Bool :=
  decide ((s.ctx k).issued ≤ s.now) && s.pipes.any (fun p => p.cons == k && p.prodDone && p.doneAt + 1 == s.now)

/-- R25: the contexts of a core that stall on a head whose producer completed in the cycle before, primary or not, each with the trap of a closed head. -/
def State.closedHeads (s : State) (core : Nat) : List (Nat × BitVec 32 × Trap) :=
  ((List.range 8).map (ctxKey core)).filterMap (fun k => if !s.closedNow k then none else match s.plan k noOffset with
    | .trap a t => if t.ord = 3 then some (k, a, s.firstTrap k t) else none
    | _ => none)

/-- R25: those contexts take their traps, unless they have in this cycle. -/
def State.closeHeads (s : State) (ts : List (Nat × BitVec 32 × Trap)) : State :=
  ts.foldl (fun s x => if (s.ctx x.1).frozen.isSome then s else s.trapAt x.1 x.2.1 x.2.2) s

/-- R114: do the M words of two bundles that would issue together find request-table entries? -/
def State.bothEnter (s : State) (k1 : Nat) (b1 : Bundle) (k2 : Nat) (b2 : Bundle) : Bool :=
  let need := fun k (b : Bundle) => ((b.active ((s.ctx k).live.guardOf b.hdr)).filter (s.needsRequest k)).length
  need k2 b2 == 0 || decide (s.requestsUsed (keyCore k1) + need k1 b1 + need k2 b2 ≤ 3072)

/-- One cycle of a core's merge stage (R20 to R23, R371): the primary as it stands, and the candidate; the candidate alone while the core has no primary
that can issue, a primary whose bundle traps among them. -/
def issueStage (core : Nat) (s : State) : Out :=
  let x := s.core core
  let k := ctxKey core x.primary
  if x.choosing || !(s.ctx k).runs then issueAlone core x.primary s else
  match s.plan k noOffset with
  | .blocked => issueAlone core x.primary s
  | .trap a t => (match issueAlone core x.primary s with
    | .next u => .next (u.trapAt k a (s.firstTrap k t))
    | r => r)
  | .sync b arrived => (match issueAlone core x.primary s with
    | .next u => .next (if arrived then u else u.arrive k b)
    | r => r)
  | .issue b =>
    match bestTrap (trapsOf k b false noOffset s) with
    | some t => (match issueAlone core x.primary s with
      | .next u => .next (u.trapAt k b.start t)
      | r => r)
    | none => match s.candidate core x.primary with
    | none => issueOne k b false noOffset s
    | some h => match s.plan (ctxKey core h) (fun c => b.count c) with
      | .issue b2 =>
        if mayFollow b2 && plainHeader b && slotsFree b b2 && s.bothEnter k b (ctxKey core h) b2 then issueTwo k b (ctxKey core h) b2 s
        else issueOne k b false noOffset s
      | .trap a t => (match issueOne k b false noOffset s with
        | .next u => .next (if s.mayTrap (ctxKey core h) (some b) then u.trapAt (ctxKey core h) a (s.firstTrap (ctxKey core h) t) else u)
        | r => r)
      | _ => issueOne k b false noOffset s

/-- One cycle of a core's issue stage. -/
def issueCore (core : Nat) (s : State) : Out :=
  match issueStage core s with
  | .next t => .next (t.closeHeads (s.closedHeads core))
  | r => r

/-- R20: does the core choose its next primary in this cycle? -/
def State.mustChoose (s : State) (core : Nat) : Bool :=
  (s.core core).choosing || !(s.ctx (ctxKey core (s.core core).primary)).runs

/-- Events that belong to the start of a cycle, before its bundles issue: the decisions of R371, the resume and the time-out of a sync
episode (R34, R35), the watchdog (R382), and freezes (R385). -/
def startsCycle (i : Instr) : Bool := match i with
  | .nextPrimaryChoice _ => true
  | .syncLaunchDispatch _ => true
  | .dispatchDecision _ => true
  | .stealClaim _ => true
  | .phaseStart _ => true
  | .syncEpisodeResume _ => true
  | .watchdogExpiry _ => true
  | .syncTimeout _ => true
  | .contextFreeze _ _ => true
  | _ => false

end Sys2Proof.Machine
end

