-- ==== Sys2Proof/Machine/Tick.lean ====
section
/-! DEFINITION. The passage of one cycle: what moves with time, and the events that are due in the new cycle (log 1). -/

namespace Sys2Proof.Machine

/-! ### Contexts and their commands -/

/-- R116, R359, R386: one cycle of a context. -/
def Ctx.tick (c : Ctx) (now : Nat) : Ctx :=
  if c.frozen.isSome then c
  else if c.thaw then { c with thaw := false }
  else
    let hold := c.holding now
    { c with
      live := if hold then c.live else c.live.tick, ctime := if hold then c.ctime else c.ctime + 1,
      heldFor := if hold then c.heldFor + 1 else c.heldFor, wake := c.wake - 1,
      snaps := c.snaps.map (fun x => { x with rem := x.rem - 1, arch := x.arch.tick }) }

/-- R214 to R217, R384: one cycle of a streaming command: it stands still with its context. -/
def State.streamCycle (s : State) (c : Cmd) : State :=
  let x := s.ctx (ctxKey c.core c.h)
  if x.frozen.isSome || x.thaw || (c.loadsPattern && x.holding s.now) then s
  else match c.kind with
    | .stream _ j none =>
      let s := if c.rem ≤ j.samp then s.sampleStream c.id else s
      s.updCmd c.id (fun c => { c with rem := c.rem - 1 })
    | .stream _ _ (some _) => s.updCmd c.id (fun c => { c with rem := c.rem - 1 })
    | _ => s

/-- R269, R384: one cycle of a log matrix command. -/
def State.matrixCycle (s : State) (c : Cmd) : State :=
  if !c.isT then s
  else
    let s := s.tStop c
    let s := match s.cmd? c.id with
      | some c => s.tStep c
      | none => s
    s.updCmd c.id (fun c => if c.st == .running then { c with rem := c.rem - 1 } else c)

/-- R197, R392: one cycle of a page request that found its page, or of a save or load. -/
def State.otherCycle (s : State) (c : Cmd) : State := match c.kind with
  | .pgreq _ => if c.done = 0 then s else if c.rem ≤ 1 then s.complete c.id else s.updCmd c.id (fun c => { c with rem := c.rem - 1 })
  | .ctxmove _ part core _ va _ =>
    if s.hasWay c then
      s.moveTime c (s.quietFor (ctxKey c.core c.h) [] && s.allCached ((s.partOf core).getD 16) (dieOf core) va (partBytes part))
    else s
  | _ => s

/-- R316, R416, R418: copies and transfers with a side on a die that has failed end. -/
def State.endLost (s : State) : State :=
  ((List.range 4).filter (fun d => (s.die d).failed)).foldl (fun s d => (s.endCopies d).denyTransfers d) s

/-- One cycle of everything that runs outside the issue stage. -/
def State.engines (s : State) : State :=
  let s := s.endLost
  let cs := s.cmds
  let s := cs.foldl State.matrixCycle s
  let s := s.arrays
  let s := cs.foldl State.copyCycle s
  let s := cs.foldl State.sortCycle s
  let s := cs.foldl State.streamCycle s
  let s := s.cmds.foldl State.settle384 s
  cs.foldl State.otherCycle s

/-- R265: barriers whose token is signalled no longer hold their commands. -/
def State.barriers (s : State) : State :=
  { s with cmds := s.cmds.map (fun c => match c.bar with
    | some t => if ((s.ctx (ctxKey c.core c.h)).token t).signalled then { c with bar := none } else c
    | none => c) }

/-! ### Lines and links -/

/-- R35: an open episode nears its timeout, whether those that have arrived are still members or not. -/
def Line.tick (l : Line) : Line := if l.first.isNone then l else { l with tmo := if 1 < l.tmo then l.tmo - 1 else l.tmo }

/-- R306: the age of what a channel has to acknowledge. -/
def Vc.tick (v : Vc) : Vc := { v with ackAge := if 0 < v.toAck then v.ackAge + 1 else 0 }

/-- Count down to 1, where an event takes it. -/
def toOne (n : Nat) : Nat := if 1 < n then n - 1 else n

/-- R305, R306, R309: one cycle of a link end. -/
def LinkEnd.tick (l : LinkEnd) : LinkEnd :=
  { l with
    vcs := l.vcs.map (fun v => (v.1, v.2.tick)), train := toOne l.train, modTrain := l.modTrain.map (fun m => (m.1, toOne m.2)),
    credit := (List.range l.widths.length).map (fun m => (m, if 64 ≤ look 0 l.credit m then look 0 l.credit m else look 0 l.credit m + l.gain m)) }

/-- The die and end that a key of the links stands for. -/
def endOf (key : Nat) : Nat × Nat := if key < 12 then (key / 3, key % 3) else (4, key - 12)

/-! ### The end of a cycle -/

/-- Does a context hold work for the issue stage? -/
def Role.works (r : Role) : Bool := r == .unit || r == .handler || r == .supervisor

/-- The cores with work, ascending. -/
def State.workingCores (s : State) : List Nat :=
  ((s.ctxs.filter (fun e => e.2.role.works && decide (e.1 < 8 * 512))).map (fun e => keyCore e.1)).eraseDups

/-- Everything that moves in a cycle has moved. -/
def State.advance (s : State) : State :=
  let s := s.loseClaims.dropTakes.engines.barriers
  let s : State := { s with ctxs := s.ctxs.map (fun e => (e.1, e.2.tick s.now)) }
  let s := s.pipes.foldl State.deliverPipe s
  let s : State := { s with
    lines := s.lines.map (fun e => (e.1, e.2.tick)),
    links := s.links.map (fun e => (e.1, e.2.tick)) }
  { s.freeLevels with now := s.now + 1, turn := s.workingCores }

/-! ### Events at the start of a cycle (R20, R34, R35, R371, R382, R385) -/

/-- The units in a state. -/
def State.unitsIn (s : State) (p : UnitSt → Bool) : List Unit := (s.units.map Prod.snd).filter (fun u => p u.st)

/-- R358, R367: the dispatches and the claims to decide: of every core with a queued unit, of every core such a unit may go to. -/
def State.schedule (s : State) : List Instr :=
  let owners := ((s.unitsIn (· == .queued)).map (fun u => u.owner)).eraseDups
  let near := (owners.map dieOf).eraseDups.flatMap (fun d => (List.range 96).map (fun i => d * 128 + i))
  let from_ := sortBy (fun x y => decide (x < y)) owners
  from_.map Instr.dispatchDecision ++ (near.filter (fun c => owners.any (fun v => s.reaches v c))).map Instr.stealClaim

/-- Freezes to take: of a trap about to be taken, or asked for. -/
def State.freezes (s : State) : List Instr :=
  s.ctxs.flatMap (fun e => match e.2.later with
    | some t => [Instr.contextFreeze e.1 t.cause]
    | none => match e.2.freezeReq with
      | some (due, x) => if due ≤ s.now then [Instr.contextFreeze e.1 x] else []
      | none => [])

/-- The events at the start of the cycle, in the order they happen. -/
def State.startEvents (s : State) : List Instr :=
  (s.turn.filter s.mustChoose).map Instr.nextPrimaryChoice ++
  (s.levels.filter (fun e => e.2.lrec.sync.isSome && !e.2.reported && !(s.part e.2.part).faulted)).map (fun e => Instr.syncLaunchDispatch e.1) ++
  s.schedule ++
  ((List.range 4).filter (fun d => !(s.die d).tokens.isEmpty || !(s.fetches d).isEmpty)).map Instr.phaseStart ++
  (s.lines.filter (fun e => e.2.resume.any (fun t => decide (t ≤ s.now)))).map (fun e => Instr.syncEpisodeResume e.1) ++
  (s.ctxs.filter (fun e => e.2.watchdogDue && e.2.runs)).map (fun e => Instr.watchdogExpiry e.1) ++
  (s.lines.filter (fun e => e.2.tmo == 1 && e.2.first.isSome)).map (fun e => Instr.syncTimeout e.1) ++
  s.freezes

/-! ### Events of a cycle -/

/-- Some contexts' events. -/
def State.ctxEvents (s : State) (p : Ctx → Bool) (f : Nat → Instr) : List Instr := (s.ctxs.filter (fun e => p e.2)).map (fun e => f e.1)
/-- Some commands' events. -/
def State.cmdEvents (s : State) (p : Cmd → Bool) (f : Nat → Instr) : List Instr := (s.cmds.filter p).map (fun c => f c.id)

/-- Is an access an `m.sth`? -/
def Msg.isSth (m : Msg) : Bool := match m.kind with
  | .sth _ => true
  | _ => false

/-- The entries of array commands, each with its command and its place. -/
def State.allEntries (s : State) : List (Cmd × Nat × AEntry) :=
  s.cmds.flatMap (fun c => (List.zip (List.range c.entries.length) c.entries).map (fun x => (c, x.1, x.2)))

/-- Starts and fetches of engines. -/
def State.engineStarts (s : State) : List Instr :=
  (s.allEntries.filter (fun x => x.2.2.expires s.now)).map (fun x => Instr.readLatencyExpiry x.1.id x.2.1) ++
  (((s.cmds.filter (fun c => c.isT && c.st == .queued)).map (fun c => c.core)).eraseDups).map Instr.logMatrixCommandStart ++
  (((s.allEntries.filter (fun x => x.2.2.st == .queued)).map (fun x => (x.1.core, x.2.2.grp))).eraseDups).map
    (fun x => Instr.adcGroupCommandStart x.1 x.2) ++
  s.cmdEvents Cmd.fetchedNow .operandFetchDone ++
  s.cmdEvents (fun c => match c.kind with
    | .copy _ rs => !rs.isEmpty
    | _ => false) .operandBufferFillStart

/-- The event with which a command that is not an array command completes; a load of the lane pattern waits while its context stands still (R237). -/
def State.ending (s : State) (c : Cmd) : Option Instr := match c.kind with
  | .stream _ _ _ => if s.patternWaits c then none else some (.streamingCommandCompletion c.id)
  | .product _ | .move _ => some (.logMatrixCommandCompletion c.id)
  | .copy _ _ | .ctxmove _ _ _ _ _ _ => some (.copyCompletion c.id)
  | .sort _ => some (.sortCompletion c.id)
  | _ => none

/-- Completions of engine commands, their faults, and the events that wait for room. -/
def State.engineEnds (s : State) : List Instr :=
  (s.cmds.filter (fun c => c.st == .running && decide (c.rem ≤ 1) && s.hasWay c)).filterMap s.ending ++
  (s.allEntries.filter (fun x => x.2.2.st == .running && decide (x.2.2.rem ≤ 1))).map (fun x => Instr.arrayCommandCompletion x.1.id x.2.1) ++
  s.cmdEvents (fun c => c.fault.isSome) .engineTranslationFault ++
  ((s.dies.filter (fun e => !e.2.evwait.isEmpty)).map (fun e => Instr.engineEventPost e.1) ++
    if s.cwEvwait.isEmpty then [] else [.engineEventPost 4])

/-- Units with routines that are complete. -/
def State.workEvents (s : State) : List Instr :=
  ((s.unitsIn (· == .running)).filter (fun u => u.open_.isEmpty || u.open_.any s.routineDone)).map (fun u => Instr.unitCompletion u.uid)

/-- R324: the slots in a state: armed ones whose counter has reached its threshold, or firing ones. -/
def State.slotEvents (s : State) (state : Nat) (f : Nat → Instr) : List Instr :=
  (s.slots.filter (fun e => e.2.state == state && (state != 1 || decide (e.2.crec.thr ≤ e.2.ctr)))).map (fun e => f e.1)

/-- The events of the channels of a link end; an acknowledgement that is due takes the slot of a module. -/
def LinkEnd.channelEvents (l : LinkEnd) (now d n : Nat) : List Instr :=
  (if (List.range (modulesOf d n)).any l.ready then
    (l.vcs.filter (fun v => decide (0 < v.2.toAck) && (decide (64 ≤ v.2.toAck) || decide (2000 ≤ v.2.ackAge)))).map
      (fun v => Instr.acknowledgementTimer d n v.1)
    else []) ++
  (l.vcs.filter (fun v => v.2.overdue now)).map (fun v => Instr.replayTimeout d n v.1)

/-- The events of one link end, those of its traffic aside. -/
def LinkEnd.events (l : LinkEnd) (now d n : Nat) : List Instr :=
  (if l.train = 1 then [.linkRetrainCompletion d n 7] else []) ++
  (l.modTrain.filter (fun m => m.2 == 1)).map (fun m => Instr.linkRetrainCompletion d n m.1) ++
  l.channelEvents now d n ++
  (if l.abo && decide (l.rthr.toNat < l.winRply) && decide (0 < l.rate.toNat) then [.automaticBackOff d n] else [])

/-- The modules of an end that have something to send: a flit, or a refusal. -/
def LinkEnd.sends (l : LinkEnd) (now d n : Nat) : List Instr :=
  if (List.range 4).any (fun v => (l.vc v).gap == 1 || ((l.vc v).next (fun _ => true) now).isSome) then
    ((List.range (modulesOf d n)).filter l.ready).map (Instr.flitTransmission d n)
  else []

/-- Each event of a list happens in this cycle or not, freely (log 2). -/
def State.sometimes : List Instr → State → List Instr × State
  | [], s => ([], s)
  | e :: es, s =>
    let (b, s) := s.freeBit
    let (r, s) := State.sometimes es s
    (if b then e :: r else r, s)

/-- R13 to R15: events on the package's paths, each with whether the machine is quiet for it: then as soon as their time has come, else in cycles that are free
(log 2). -/
def State.onTheWay : List (Instr × Bool) → State → List Instr × State
  | [], s => ([], s)
  | (e, q) :: es, s =>
    let (b, s) := if q then (true, s) else s.freeBit
    let (r, s) := State.onTheWay es s
    (if b then e :: r else r, s)

/-- Events of accesses, each with whether the machine is quiet for its access. -/
def State.accessEvents (s : State) (p : Msg → Bool) (f : Nat → Instr) : List (Instr × Bool) :=
  (s.msgs.filter p).map (fun m => (f m.id, s.quietFor (ctxKey m.core m.h) []))

/-- The network. -/
def State.networkEvents (s : State) : List (Instr × Bool) :=
  s.accessEvents (fun m => !m.isSth && m.stage != .done) .remoteAccessAtTarget ++
  s.accessEvents (fun m => m.isSth && m.stage != .done) .handlerArrival ++
  s.accessEvents (fun m => m.returns && m.stage == .done) .remoteResponseArrival

/-- R305: flits that arrive now; each with noise that is free, and its CRC as the noise leaves it. -/
def State.receptions : List Flying → State → List Instr × State
  | [], s => ([], s)
  | x :: xs, s =>
    let (n, s) := s.freeNat
    let (r, s) := State.receptions xs s
    (.flitReception x.die x.link x.flit (crcHolds (withNoise (flitBytes x.flit) n)) :: r, s)

/-- R310, R394, R42: may a transfer of a collective be performed: a path from where its bytes were read and to where they go, to no stack in self-refresh;
what goes outside has come to Causeway, whose egress has acknowledged it; the first of sends that wait finds its source. -/
def State.xferWay (s : State) (t : CollTransfer) : Bool := decide (t.due ≤ s.now + 1) && match t.kind with
  | .away n => !s.pkts.any (fun p => p.vc == 2 && !p.rsp && p.to_ == 4 && decide (p.id < n) && t.dies.contains p.src)
  | .held sends => sends.head?.all (fun w => s.sendUp (s.slot ((t.own.map Prod.fst).getD 0)).crec t.part w.1) && s.cwEvwait.isEmpty
  | _ => !(t.virt && s.rangeAsleep t.part t.addr t.data.length) && t.dies.all (s.hasPath 4) &&
      s.hasPath 4 (if t.virt then s.homeOf t.part t.addr 4 else dieOf (gsaCore t.addr))

/-- Events of other units that take a free time, while they have a path (R310). -/
def State.looseEvents (s : State) : List Instr :=
  ((s.unitsIn (· == .counting)).filter (fun u => s.hasPath (dieOf u.owner) (handleDie u.launch))).map (fun u => Instr.completionCountArrival u.uid) ++
  ((s.unitsIn (· == .moving)).filter (fun u => s.hasPath (handleDie u.launch) (dieOf u.owner))).map (fun u => Instr.unitTransfer u.uid) ++
  (s.cancels.filter (fun x => s.hasPath (handleDie x.2) x.1)).map (fun x => Instr.cancelArrival x.1 x.2) ++
  (s.xfers.filter (fun t => s.xferWay t || (!t.virt && (s.die (dieOf (gsaCore t.addr))).failed))).map Instr.collectiveTransferArrival

/-- R14, R356: copies of images' data that start, and those that complete: as soon as their time has come on a quiet machine, else freely. -/
def State.imageEvents (s : State) : List Instr × State :=
  let us := s.unitsIn (fun t => t == .queued || t == .reserving)
  let near := (us.map (fun u => dieOf u.owner)).eraseDups.flatMap (fun d => (List.range 96).map (fun i => d * 128 + i))
  let new := near.filter (fun c => (s.core c).loading.isNone && us.any (s.wants c))
  let old := (s.cores.filter (fun e => e.2.loading.any (fun x => decide (x.2 ≤ s.now + 1)))).map Prod.fst
  let (ends, s) := State.onTheWay (old.map (fun c => (Instr.imageDataLoad c, s.quietLoad c))) s
  (ends ++ new.map Instr.imageDataLoad, s)

/-- The end of the cycle: branches, events a supervisor takes, quiescence, replay, monitor calls, power. -/
def State.lateEvents (s : State) : List Instr :=
  s.ctxEvents (fun c => c.snaps.any (fun x => x.rem == 0)) .branchResolution ++
  s.ctxEvents (fun c => c.role == .supervisor && c.halted && c.frame.isNone) .eventTake ++
  s.ctxEvents (fun c => !c.pmtWait.isEmpty) .contextQuiescence ++
  s.ctxEvents (fun c => c.keepLatch && c.frozen.isNone && !c.thaw && c.live.flights.any (fun f => decide (f.rem ≤ 1))) .replayInjection ++
  s.mon.calls.flatMap (fun x => [Instr.monitorPowerCall x.1, .monitorPageTableRootCall x.1]) ++
  (s.waking.filter (fun e => decide (e.2 ≤ s.now + 1))).map (fun e => Instr.returnToP0 (e.1 / 12) (e.1 % 12))

/-- R414: what a frozen package still takes from outside: power, the fundamental reset, services. -/
def takenFrozen (i : Instr) : Bool := match i with
  | .powerOn | .pcieFundamentalReset | .readIdentity | .attest | .challenge | .unlock | .relock | .enterRma | .provision | .createPartition
  | .destroyPartition | .reassignCluster | .setPairOwner | .powerRequest | .dieReset | .warmStart | .recoveryImage | .debugHalt | .debugStep
  | .debugResume | .traceOn | .traceOff | .debugFreeze => true
  | _ => false

/-- R402: does a partition that has faulted run no more of this: the start of a job? -/
def State.barred (s : State) (i : Instr) : Bool := match i with
  | .jobStart p _ => (s.part p).faulted
  | _ => false

/-- Is an input due? R414: while the package is frozen only what it still takes is. -/
def State.isDue (s : State) (x : Nat × Instr) : Bool := decide (x.1 ≤ s.now) && (!s.mon.frozen || takenFrozen x.2)

/-- What comes from outside, and what was set out for this cycle. -/
def State.dueInputs (s : State) : List Instr := ((s.inputs.filter s.isDue).map Prod.snd).filter (fun i => !s.barred i)

/-- R301, R302, R305: the packets of the work on VC1 to VC3, whose formats and number the spec leaves open: in each cycle a request, a response, both or
none for each pair of dies and channel (log 61). -/
def State.bulkFlits (s : State) : State :=
  s.bulk.eraseDups.foldl (fun s x =>
    let (a, s) := s.freeBit
    let (b, s) := s.freeBit
    let s := if a then s.sendPacket x.1 false x.2.1 x.2.2 else s
    if b then s.sendPacket x.1 true x.2.2 x.2.1 else s) s

/-- The events of the new cycle, and the state that has them. -/
def State.planEvents (s : State) : State :=
  let (tlbi, s) := State.sometimes (s.cmdEvents (fun c => match c.kind with
    | .tlbi _ => true
    | _ => false) .tlbInvalidationCompletion) s
  let (loose, s) := State.sometimes s.looseEvents s
  let (loads, s) := s.imageEvents
  let (acks, s) := State.onTheWay (s.accessEvents (fun _ => true) .stageAcknowledgement) s
  let (net, s) := State.onTheWay s.networkEvents s
  let (flits, s) := State.receptions (s.flying.filter (fun x => decide (x.due ≤ s.now))) s
  { s with
    flying := s.flying.filter (fun x => decide (s.now < x.due)),
    inputs := s.inputs.filter (fun x => !s.isDue x),
    agenda := s.startEvents ++
      s.ctxEvents (fun c => c.drain.any (fun d => !d.fence)) .drainCompletion ++
      s.ctxEvents (fun c => c.drain.any (fun d => d.fence)) .fenceCompletion ++
      acks ++ s.engineStarts ++ s.engineEnds ++ tlbi ++
      s.ctxEvents (fun c => c.waitk.isSome) .tokenWaitCompletion ++
      net ++ (s.cores.filter (fun e => !e.2.arrivals.isEmpty)).map (fun e => Instr.handlerQueueStart e.1) ++
      s.ctxEvents (fun c => c.put.isSome) .pipeSpaceFreed ++
      s.workEvents ++ loose ++ loads ++ s.arrivedTokens.map (fun m => Instr.microBatchTokenArrival m.to_ m.tok) ++
      s.slotEvents 1 .collectiveFiringStart ++ s.slotEvents 2 .collectiveFiringCompletion ++
      (s.levels.filter (fun e => handleKind e.1 == 3 && e.2.isDone && !e.2.reported)).map (fun e => Instr.phaseCompletion e.1) ++
      s.links.flatMap (fun e => e.2.events s.now (endOf e.1).1 (endOf e.1).2) ++
      s.links.flatMap (fun e => e.2.sends s.now (endOf e.1).1 (endOf e.1).2) ++ flits ++
      s.lateEvents ++ s.dueInputs }

/-- R34: the next cycle. R414: while the package is frozen for debug, only the monitor and the world outside go on. -/
def State.tick (s : State) : State :=
  if s.mon.frozen then
    let s := State.hostWrites { s with now := s.now + 1 }
    { s with turn := [], agenda := s.dueInputs, inputs := s.inputs.filter (fun x => !s.isDue x) }
  else
    let s := s.advance.hostWrites.goOnWalks
    let s := s.mbs.foldl State.retryToken s
    (s.pkts.foldl State.retryPacket s).bulkFlits.planEvents

end Sys2Proof.Machine
end

