-- ==== Sys2Proof/Machine/Program.lean ====
section
/-! DEFINITION. Placing an instruction word where the next step fetches. -/

namespace Sys2Proof.Machine

/-- The context that runs the placed word: context 0 of core 0 of cluster 0 of D0, holding a unit of image 1 at address 0, with
nothing that could keep its next bundle from issuing. Its registers stay. -/
def Ctx.placed (c : Ctx) : Ctx :=
  { c with role := .unit, frozen := none, snaps := [], trapHold := none, pend := none, waitk := none, drain := none, put := none,
           pgq := none, later := none, wake := 0, eret := none, halted := false, exiting := false, pendSync := none, syncTo := none, wdog := 0, brk := [],
           freezeReq := none, heldFor := 0, rest := [], thaw := false, img := 1, live := { c.live with pc := 0 } }

/-- Load a program of one word: image 1 holds one packet, the word and two pad words, and core 0 issues next with its context 0 as
primary (log 21: a program comes to run when the dispatcher places a unit of its image; this stands for that). -/
def placeWord (s : State) (w : Nat) : State :=
  { s with
    mem := (s.mem.clear (codeKey 1 0) 12).writeN (codeKey 1 0) (bytesOf 4 w),
    images := put s.images 1 { s.image 1 with codeLen := 12 },
    ctxs := put s.ctxs 0 (s.ctx 0).placed,
    cores := put s.cores 0 { s.core 0 with primary := 0, choosing := false },
    turn := [0], agenda := [] }

end Sys2Proof.Machine
end

