-- ==== Sys2Proof/Machine/Step.lean ====
section
/-! DEFINITION. One step of the package: the act of one agent in the current cycle (log 1). -/

namespace Sys2Proof.Machine

/-- One step. Within a cycle the events that belong to its start come first, then each core's issue stage in turn, then the events
that are due; when nothing is left, the cycle ends. -/
def step (s : State) : Host.Outcome State Fault Refusal :=
  match s.agenda with
  | e :: es =>
    if startsCycle e then exec e { s with agenda := es }
    else match s.turn with
      | c :: cs => issueCore c { s with turn := cs }
      | [] => exec e { s with agenda := es }
  | [] => match s.turn with
    | c :: cs => issueCore c { s with turn := cs }
    | [] => .next s.tick

/-- The state with a table word placed where the next step fetches. -/
def State.withFetchWord (s : State) (nbits w : Nat) : State := placeWord s (w % 2 ^ nbits)

end Sys2Proof.Machine
end

