-- ==== Sys2Proof/Safety.lean ====
section
/-! DEFINITION. What a safe run is, and what claims say two states share. -/

namespace Sys2Proof

open Machine

/-- A state is sound when its store is in canonical form. -/
abbrev Sound (s : State) : Prop := s.mem.wf = true

/-- The architected registers of a context that a word can write: general registers, predicates, latches, descriptors, coin,
`csr.vstat`, queue heads (R107, R108, R161, R165, R211, R65). -/
def SameRegs (a b : Arch) : Prop :=
  b.g = a.g ∧ b.p = a.p ∧ b.b = a.b ∧ b.d = a.d ∧ b.coin = a.coin ∧ b.vstat = a.vstat ∧ b.q = a.q

/-- Every context keeps its registers. -/
def SameRegisters (s t : State) : Prop := ∀ k, SameRegs (s.ctx k).live (t.ctx k).live

/-- Every context keeps its registers, but one that has frozen while another context is its core's primary has lost its latches (R20, R108). -/
def KeepsRegisters (s t : State) : Prop := ∀ k, SameRegs (s.ctx k).live (t.ctx k).live ∨
  ((t.ctx k).frozen.isSome = true ∧ (s.core (keyCore k)).primary ≠ keyCtx k ∧ SameRegs { (s.ctx k).live with b := [] } (t.ctx k).live)

/-- Every context but one keeps all its state. -/
def SameOthers (k : Nat) (s t : State) : Prop := ∀ j, j ≠ k → t.ctx j = s.ctx j

/-- Every byte of every store reads as before: scratchpads, accumulators, operand buffers, HBM, host memory, code. -/
def SameMemory (s t : State) : Prop := ∀ a, t.mem.read a = s.mem.read a

/-- The registers an event loads for a supervisor, and what `csr.tsel` names (R381). -/
def SameFrame (a b : Ctx) : Prop :=
  b.tcause = a.tcause ∧ b.tpc = a.tpc ∧ b.tval = a.tval ∧ b.tsrc = a.tsrc ∧ b.tselEn = a.tselEn ∧ b.tselCtx = a.tselCtx ∧
    b.tvec = a.tvec ∧ b.frame = a.frame

/-- A context's other special registers: lane and copy patterns, watchdog, breakpoints, tokens (R342, R381, R185). -/
def SameSpecial (a b : Ctx) : Prop :=
  SameFrame a b ∧ b.cpat = a.cpat ∧ b.xpat = a.xpat ∧ b.wdog = a.wdog ∧ b.brk = a.brk ∧ b.tok = a.tok ∧ b.role = a.role

/-- Every context keeps its special registers. -/
def SameSpecials (s t : State) : Prop := ∀ k, SameSpecial (s.ctx k) (t.ctx k)

/-- The arrays, converters and format registers of every core, and its operand-buffer counts (R279, R281, R52, R73). -/
def SameArrays (s t : State) : Prop :=
  ∀ c, (t.core c).pairs = (s.core c).pairs ∧ (t.core c).adc = (s.core c).adc ∧ (t.core c).fmt = (s.core c).fmt ∧
    (t.core c).obSeq = (s.core c).obSeq

/-- The shared parts of the package: dies, links, lines, partitions, scheduling, collectives, the monitor. -/
def SameShared (s t : State) : Prop :=
  t.now = s.now ∧ t.dies = s.dies ∧ t.links = s.links ∧ t.lines = s.lines ∧ t.owners = s.owners ∧ t.slots = s.slots ∧
    t.levels = s.levels ∧ t.units = s.units ∧ t.pipes = s.pipes

/-- A word in hand executes: it is legal at decode and its guard does not annul it (R104, R106). -/
abbrev Executes (i : Instr) (g : Bool) (s : State) : Prop := i.wf = true ∧ s.annulled g = false

/-- No command is performing element writes, so that an access finds the store as it stands (R91, R215). -/
abbrev Quiet (s : State) : Prop := s.cmds.all (fun c => c.out.isEmpty) = true

/-- The context in hand has no unresolved branch (R118). -/
abbrev Settled (s : State) : Prop := s.cur.speculative = false

end Sys2Proof
end

