-- ==== Sys2Proof/Certificates/Slice0/Obligations.lean ====
section
/-! DEFINITION. The statements for the provers: what the rules of the spec say of the machine. -/

namespace Sys2Proof.Cert
end Sys2Proof.Cert

open Sys2Proof Sys2Proof.Machine Sys2Proof.Cert

/-! ### Encodings (R97 to R110) -/

/-- R97, R102, R105, R109, R110: the decoder reads from the word of an instruction that instruction, whatever its operands, and every
instruction that is not an event has a word. -/
def Obligations.DecodeOfEncode : Prop :=
  ∀ i : Instr, (∀ w, encode i = some w → decodeWord w = .ok i) ∧ (i.cls ≠ 16 → (encode i).isSome = true)

/-- R97, R105, R110: a word that decodes is the word of the instruction it decodes to: no bit is dropped, no two words share a meaning.
R100: a word of class 11 to 15 decodes to nothing; R110: nor does an opcode above the last of its class. -/
def Obligations.EncodeOfDecode : Prop :=
  (∀ (w : W32) (i : Instr), decodeWord w = .ok i → encode i = some w) ∧
  (∀ w : W32,
    (11 ≤ (classOf w).toNat → decodeWord w = .error .reservedClass) ∧
    ((classOf w = 1 ∧ 51 ≤ (opOf w).toNat) ∨ (classOf w = 2 ∧ 7 ≤ (opOf w).toNat) ∨ (classOf w = 3 ∧ 43 ≤ (opOf w).toNat) ∨
      (classOf w = 4 ∧ 14 ≤ (opOf w).toNat) ∨ (classOf w = 5 ∧ 6 ≤ (opOf w).toNat) ∨ (classOf w = 6 ∧ 8 ≤ (opOf w).toNat) ∨
      (classOf w = 7 ∧ 14 ≤ (opOf w).toNat) ∨ (classOf w = 8 ∧ 19 ≤ (opOf w).toNat) ∨ (classOf w = 9 ∧ 11 ≤ (opOf w).toNat) →
        decodeWord w = .error .reservedOp))

/-- Words of several classes, bit by bit from R97 and R105: `s.add g3, g1, g2`; `m.ld g5, [g2 + 8]` of 8 bytes; `v.add d0, d1, d2`;
`t.mm` of tile 1; `q.exit`; `p.halt`; a header that waits for token 0; an EXT word. -/
def Obligations.WordsDecode : Prop :=
  decodeWord 0b0_0001_000001_0_00011_0_000001_000010_00#32 =
    .ok (.sAdd { c := false, g := false, dst := 3, nw := false, sa := 1, sb := 2, fn := 0 }) ∧
  decodeWord 0b1_0010_000000_1_00101_0_000010_11_0_00001#32 =
    .ok (.mLd { c := true, g := true, reg := 5, nw := false, sa := 2, sz := 3, sx := false, off := 1 }) ∧
  decodeWord 0b0_0011_000010_0_0000_0001_0010_0000_0000#32 =
    .ok (.vAdd { c := false, g := false, dd := 0, da := 1, db := 2, dc := 0, md := 0 }) ∧
  decodeWord 0b0_0110_000000_0_000011_010_1_00000001_00#32 =
    .ok (.tMm { c := false, g := false, sp := 3, k := 2, kw := true, sub := 4 }) ∧
  decodeWord 0b0_1000_001000_0_000000_000_0_0000000000#32 =
    .ok (.qExit { c := false, g := false, sp := 0, k := 0, kw := false, sub := 0 }) ∧
  decodeWord 0b0_1001_001001_0_000000_000_0_0000000000#32 =
    .ok (.pHalt { c := false, g := false, sp := 0, k := 0, kw := false, sub := 0 }) ∧
  decodeWord 0b1_0000_00000000_00000001_0_0_0_0000_000_0#32 =
    .ok (.hdr { c := true, pop := 0, wait := 1, y := false, s := false, v := false, line := 0, gp := 0, gn := false }) ∧
  decodeWord 0b0_1010_000000000000000000000000101#32 = .ok (.ext { c := false, pay := 5 })

/-! ### Fetch and step (R97 to R99, R112) -/

/-- The bundle of one word at an address. -/
def Sys2Proof.Cert.oneWord (a : BitVec 32) (w : W32) (i : Instr) : Bundle :=
  { start := a, next := BitVec.ofNat 32 (a.toNat + 4), hdr := none, words := [{ idx := 0, raw := w, instr := i, exts := [], slot := 0 }] }

/-- R97 to R99: a word at the program counter that is no pad, ends its chain, is neither a header nor an EXT word, and decodes to a legal
instruction is fetched as a bundle of that instruction. -/
def Obligations.FetchReadsTheWord : Prop :=
  ∀ (s : State) (img : Nat) (pc : BitVec 32) (w : W32) (i : Instr),
    s.codeWord img pc.toNat = some w → w ≠ 0 → chainBit w = false → decodeWord w = .ok i → i.wf = true → i.extOk [] = true →
    1 ≤ i.cls → i.cls ≤ 9 →
    s.fetch img pc = .bundle (oneWord pc w i)

/-- A step runs the decoded instruction. Where no event of the start of a cycle is left and core `c` is the next to issue; its primary
context runs, nothing stops it, and the word at its program counter is no pad, ends its chain and decodes to a legal instruction `i` whose
bundle meets no breakpoint, trap or interlock (R114); and no other context of the core can issue: the step takes the word in hand with the
program counter past it, runs `exec i`, and then ends the bundle or, when the word found a trap, takes it on the state before (R112). -/
def Obligations.StepRunsDecoded : Prop :=
  ∀ (s : State) (c : Nat) (cs : List Nat) (w : W32) (i : Instr),
    let k := ctxKey c (s.core c).primary
    let x := s.ctx k
    let s0 : State := { s with turn := cs }
    let b := oneWord x.live.pc w i
    s.agenda.head?.any startsCycle = false → s.turn = c :: cs → (s.core c).choosing = false →
    x.runs = true → x.stopped s.now = false → x.syncTo = none →
    s.codeWord x.img x.live.pc.toNat = some w → w ≠ 0 → chainBit w = false → decodeWord w = .ok i → i.wf = true → i.extOk [] = true →
    1 ≤ i.cls → i.cls ≤ 9 →
    x.breaksAt x.live.pc = false → s0.headerTrap k b true = none → s0.interlocked k noOffset b true = false →
    s0.candidate c (s.core c).primary = none →
    step s = (match exec i ((s0.begin k b false).take { idx := 0, raw := w, instr := i, exts := [], slot := 0 } noOffset) with
      | .next t => (match t.iss.trap with
        | some y => .next (s0.trapAt k x.live.pc y)
        | none => .next (t.finish b))
      | .fault r => .fault r
      | .refused r => .refused r)

/-- An event of the table that is due is run by a step: at once when it belongs to the start of a cycle, else when no core is left to issue
(DESIGN CHOICE, log 1: one order of a cycle); and a cycle ends when nothing is left. -/
def Obligations.StepRunsEvents : Prop :=
  (∀ (s : State) (e : Instr) (es : List Instr), s.agenda = e :: es → (startsCycle e = true ∨ s.turn = []) →
    step s = exec e { s with agenda := es }) ∧
  -- R34: when nothing is left to do in a cycle, the step ends it: the cycle count rises by one; in a package frozen for debug (R413)
  -- nothing but the world outside goes on: no store, context, command, access or link changes
  ∀ s : State, s.agenda = [] → s.turn = [] →
    ∃ t, step s = .next t ∧ t.now = s.now + 1 ∧
      (s.mon.frozen = true → t.mem = s.mem ∧ t.ctxs = s.ctxs ∧ t.cmds = s.cmds ∧ t.msgs = s.msgs ∧ t.links = s.links ∧ t.turn = [])

/-! ### Integers (R151 to R158, R162) -/

/-- An S word's result: nothing changes but that one more result is in flight, for `dst` unless `nw`, and for the latch of the slot unless
the bundle is a secondary (R23, R108, R115, R152). -/
def Sys2Proof.Cert.inFlight (s : State) (dst : Dest) (lat : Nat) (v : W64) : State :=
  s.updLive (fun a => { a with flights := a.flights ++
    [{ rem := lat, dst := dst, latch := if s.iss.sec then none else some s.iss.slot, val := v }] })

/-- Where an S word's result goes. -/
def Sys2Proof.Cert.destOf (dst : BitVec 5) (nw : Bool) : Dest := if nw then .none else .g dst.toNat

/-- The word executes in slot S0 or S1 and no result of the same destination is due in the same cycle (R115). -/
abbrev Sys2Proof.Cert.Free (i : Instr) (g : Bool) (dst : Dest) (lat : Nat) (s : State) : Prop :=
  Executes i g s ∧ s.iss.slot ≤ 1 ∧ s.cur.live.collides dst lat = false

/-- An RR word of `lat` cycles delivers `v`. -/
def Sys2Proof.Cert.Gives (k : RR → Instr) (lat : Nat) (v : State → RR → W64) : Prop :=
  ∀ (s : State) (f : RR), Free (k f) f.g (destOf f.dst f.nw) lat s → exec (k f) s = .next (inFlight s (destOf f.dst f.nw) lat (v s f))

/-- A two-source word: `wide` on 64 bits, or, with `.i32`, `narrow` on the low 32 bits, sign-extended. -/
def Sys2Proof.Cert.Gives2 (k : RR → Instr) (lat : Nat) (wide : W64 → W64 → W64) (narrow : W32 → W32 → W32) : Prop :=
  Gives k lat (fun s f =>
    if f.fn = 1 then (narrow ((s.value f.sa).setWidth 32) ((s.value f.sb).setWidth 32)).signExtend 64
    else wide (s.value f.sa) (s.value f.sb))

/-- R155, R156: wrapping sums, differences and products of 64 or 32 bits, one cycle and three; R158: bitwise operations, moves and
selection; division truncates toward zero, 12 cycles: by zero the quotient is all ones and the remainder the dividend, the most
negative number by −1 gives the dividend and 0. -/
def Obligations.Arithmetic : Prop :=
  Gives2 .sAdd 1 (· + ·) (· + ·) ∧ Gives2 .sSub 1 (· - ·) (· - ·) ∧ Gives2 .sMul 3 (· * ·) (· * ·) ∧
  Gives .sMulh 3 (fun s f => ((s.value f.sa).signExtend 128 * (s.value f.sb).signExtend 128).extractLsb' 64 64) ∧
  Gives .sMulhu 3 (fun s f => ((s.value f.sa).setWidth 128 * (s.value f.sb).setWidth 128).extractLsb' 64 64) ∧
  -- R155, R158: bitwise operations and moves, of 64 bits
  Gives .sAnd 1 (fun s f => s.value f.sa &&& s.value f.sb) ∧ Gives .sOr 1 (fun s f => s.value f.sa ||| s.value f.sb) ∧
  Gives .sXor 1 (fun s f => s.value f.sa ^^^ s.value f.sb) ∧ Gives .sAndn 1 (fun s f => s.value f.sa &&& ~~~(s.value f.sb)) ∧
  Gives .sMov 1 (fun s f => s.value f.sa) ∧
  Gives .sSel 1 (fun s f => if s.cur.live.readP (4 + f.fn.toNat) then s.value f.sa else s.value f.sb) ∧
  -- division
  Gives2 .sDiv 12 (fun a b => if b = 0 then BitVec.allOnes 64 else a.sdiv b) (fun a b => if b = 0 then BitVec.allOnes 32 else a.sdiv b) ∧
  Gives2 .sDivu 12 (fun a b => if b = 0 then BitVec.allOnes 64 else a / b) (fun a b => if b = 0 then BitVec.allOnes 32 else a / b) ∧
  Gives2 .sRem 12 (fun a b => if b = 0 then a else a.srem b) (fun a b => if b = 0 then a else a.srem b) ∧
  Gives2 .sRemu 12 (fun a b => if b = 0 then a else a % b) (fun a b => if b = 0 then a else a % b)

/-- An RI word delivers `v` of its source and its immediate. -/
def Sys2Proof.Cert.GivesImm (k : RI → Instr) (imm : State → RI → W64) (op : W64 → W64 → W64) : Prop :=
  ∀ (s : State) (f : RI), Free (k f) f.g (destOf f.dst f.nw) 1 s → s.iss.ext.length ≤ 2 →
    exec (k f) s = .next (inFlight s (destOf f.dst f.nw) 1 (op (s.value f.sa) (imm s f)))

/-- R109, R157: a signed immediate of 8 bits, or of 35 or 62 with EXT words, whose payloads are its upper bits. -/
def Sys2Proof.Cert.signedImm (s : State) (f : RI) : W64 := match s.iss.ext with
  | [] => f.imm.signExtend 64
  | [p] => (p ++ f.imm).signExtend 64
  | [p, q] => (q ++ p ++ f.imm).signExtend 64
  | _ => 0

/-- An immediate shift delivers `op` of its source and its amount. -/
def Sys2Proof.Cert.GivesShift (k : RI → Instr) (op : W64 → Nat → W64) : Prop :=
  ∀ (s : State) (f : RI), Free (k f) f.g (destOf f.dst f.nw) 1 s → (k f).extOk s.iss.ext = true →
    exec (k f) s = .next (inFlight s (destOf f.dst f.nw) 1 (op (s.value f.sa) f.imm.toNat))

/-- R155, R156: shifts by the source modulo the width; minima and maxima of the width. R157: the immediate forms; a shift takes its amount, at most 63, from an 8-bit field that no EXT word may widen beyond it. -/
def Obligations.ShiftsExtremesImmediates : Prop :=
  Gives2 .sShl 1 (fun a b => a <<< (b.toNat % 64)) (fun a b => a <<< (b.toNat % 32)) ∧
  Gives2 .sShr 1 (fun a b => a >>> (b.toNat % 64)) (fun a b => a >>> (b.toNat % 32)) ∧
  Gives2 .sSra 1 (fun a b => a.sshiftRight (b.toNat % 64)) (fun a b => a.sshiftRight (b.toNat % 32)) ∧
  Gives2 .sMin 1 (fun a b => if a.slt b then a else b) (fun a b => if a.slt b then a else b) ∧
  Gives2 .sMax 1 (fun a b => if a.slt b then b else a) (fun a b => if a.slt b then b else a) ∧
  Gives2 .sMinu 1 (fun a b => if a.ult b then a else b) (fun a b => if a.ult b then a else b) ∧
  Gives2 .sMaxu 1 (fun a b => if a.ult b then b else a) (fun a b => if a.ult b then b else a) ∧
  GivesImm .sAddi signedImm (· + ·) ∧ GivesImm .sAndi signedImm (· &&& ·) ∧ GivesImm .sOri signedImm (· ||| ·) ∧
  GivesImm .sXori signedImm (· ^^^ ·) ∧ GivesImm .sLi signedImm (fun _ b => b) ∧
  GivesShift .sShli (fun a n => a <<< n) ∧ GivesShift .sShri (fun a n => a >>> n) ∧ GivesShift .sSrai (fun a n => a.sshiftRight n)

/-! ### Compares, predicates, bit fields (R159 to R162, R166) -/

/-- R159: the condition of a compare on two values of `n` bits. -/
def Sys2Proof.Cert.compares (cond : BitVec 3) (n : Nat) (a b : W64) : Bool :=
  let x := a.setWidth n
  let y := b.setWidth n
  match cond.toNat with
  | 0 => x == y
  | 1 => x != y
  | 2 => x.slt y
  | 3 => !x.slt y
  | 4 => x.ult y
  | 5 => !x.ult y
  | 6 => x &&& y != 0
  | _ => x &&& y == 0

/-- A CP word delivers a truth value to its predicate and, as 1 or 0, to its latch. -/
def Sys2Proof.Cert.GivesPred (k : CP → Instr) (ok : State → Prop) (v : State → CP → Bool) : Prop :=
  ∀ (s : State) (f : CP), Free (k f) f.g (.p f.pd.toNat) 1 s → ok s →
    exec (k f) s = .next (inFlight s (.p f.pd.toNat) 1 (if v s f then 1 else 0))

/-- R109, R159, R160: compares of 8, 16, 32 or 64 bits, with a source or a signed immediate of 6 bits (of 33 with an EXT word), and the
eight operations on two predicates. -/
def Obligations.Compares : Prop :=
  GivesPred .sCmp (fun _ => True) (fun s f => compares f.cond (8 * 2 ^ f.w.toNat) (s.value f.sa) (s.value f.sb)) ∧
  GivesPred .sCmpi (fun s => s.iss.ext.length ≤ 1) (fun s f => compares f.cond (8 * 2 ^ f.w.toNat) (s.value f.sa)
    (match s.iss.ext with
      | p :: _ => (p ++ f.sb).signExtend 64
      | [] => f.sb.signExtend 64)) ∧
  GivesPred .sPlog (fun _ => True) (fun s f =>
    let a := s.cur.live.readP f.sa.toNat
    let b := s.cur.live.readP f.sb.toNat
    [a && b, a || b, xor a b, a && !b, a || !b, !(a && b), !(a || b), !(xor a b)].getD f.cond.toNat false)

/-- A word whose result has, at every bit, the bit named. -/
def Sys2Proof.Cert.GivesBits (k : RR → Instr) (bit : State → RR → Nat → Bool) : Prop :=
  ∀ (s : State) (f : RR), Free (k f) f.g (destOf f.dst f.nw) 1 s →
    ∃ v : W64, exec (k f) s = .next (inFlight s (destOf f.dst f.nw) 1 v) ∧ ∀ j < 64, v.getLsbD j = bit s f j

/-- R162: extraction, insertion and sign extension of bit fields; a field's position is bits [5:0] of the second source and its length
bits [14:8], cut off at bit 63; and bit counts. R166: predicates moved as a byte, both ways. -/
def Obligations.BitFields : Prop :=
  GivesBits .sBfx (fun s f j =>
    let a := s.value f.sa
    let p := (s.value f.sb).toNat % 64
    let n := min ((s.value f.sb).toNat / 256 % 128) (64 - p)
    if n = 0 then false else if j < n then a.getLsbD (p + j) else f.fn == 1 && a.getLsbD (p + n - 1)) ∧
  GivesBits .sBfi (fun s f j =>
    let p := (s.value f.sb).toNat % 64
    let n := min ((s.value f.sb).toNat / 256 % 128) (64 - p)
    if p ≤ j ∧ j < p + n then (s.value f.sa).getLsbD (j - p) else (s.cur.live.readG f.dst.toNat).getLsbD j) ∧
  GivesBits .sSext (fun s f j => (s.value f.sa).getLsbD (min j (8 * 2 ^ f.fn.toNat - 1))) ∧
  GivesBits .sMfp (fun s _ j => decide (j < 8) && s.cur.live.readP j) ∧
  -- the number of leading zeros and of set bits of 64 bits, or, with `.i32`, of the low 32
  (∀ (s : State) (f : RR), Free (.sClz f) f.g (destOf f.dst f.nw) 1 s →
    ∃ v : W64, exec (.sClz f) s = .next (inFlight s (destOf f.dst f.nw) 1 v) ∧
      (let w := if f.fn = 1 then 32 else 64
       v.toNat ≤ w ∧ (∀ j < v.toNat, (s.value f.sa).getLsbD (w - 1 - j) = false) ∧
         (v.toNat < w → (s.value f.sa).getLsbD (w - 1 - v.toNat) = true))) ∧
  (∀ (s : State) (f : RR), Free (.sPopc f) f.g (destOf f.dst f.nw) 1 s →
    exec (.sPopc f) s = .next (inFlight s (destOf f.dst f.nw) 1
      (BitVec.ofNat 64 (((List.range (if f.fn = 1 then 32 else 64)).filter (fun j => (s.value f.sa).getLsbD j)).length)))) ∧
  -- `s.mtp` writes the predicates `p1` to `p7` of its mask, one cycle on, with the bits of its first source; it writes no latch
  (∀ (s : State) (f : RR), Executes (.sMtp f) f.g s → (∀ n, 1 ≤ n → n ≤ 7 → s.cur.live.collides (.p n) 1 = false) →
    exec (.sMtp f) s = .next (s.updLive (fun a => { a with flights := a.flights ++
      ((List.range' 1 7).filter (fun n => (s.value f.sb).getLsbD n)).map (fun n =>
        { rem := 1, dst := .p n, latch := none, val := if (s.value f.sa).getLsbD n then 1 else 0 }) })))

/-- R158: `s.nop` does nothing. R163 to R165, R168: what the words that read machine state deliver: the identity words, the time, the next
coin (the coin takes it too: xorshift by 13, 7 and 17, from 1 when it was 0), and the fields of a loop register. -/
def Obligations.StateReads : Prop :=
  (∀ (s : State) (f : RR), Executes (.sNop f) f.g s → exec (.sNop f) s = .next s) ∧
  (∀ (s : State) (f : RR), Free (.sRdid f) f.g (destOf f.dst f.nw) 1 s → f.fn = 0 → s.iss.core < 512 → s.iss.h < 8 →
    exec (.sRdid f) s = .next (inFlight s (destOf f.dst f.nw) 1
      ((BitVec.ofNat 9 s.iss.core ++ BitVec.ofNat 3 s.iss.h ++ BitVec.ofBool (s.cur.role == .handler) ++ (0 : BitVec 3)).setWidth 64))) ∧
  (∀ (s : State) (f : RR) (w : Work), Free (.sRdid f) f.g (destOf f.dst f.nw) 1 s → s.cur.work = some w →
    w.tx < 2 ^ 16 → w.ty < 2 ^ 16 → w.tz < 2 ^ 16 → w.gx < 2 ^ 16 → w.gy < 2 ^ 16 → w.gz < 2 ^ 16 →
    (f.fn = 1 → exec (.sRdid f) s = .next (inFlight s (destOf f.dst f.nw) 1
      ((BitVec.ofNat 16 w.tz ++ BitVec.ofNat 16 w.ty ++ BitVec.ofNat 16 w.tx).setWidth 64))) ∧
    (f.fn = 2 → exec (.sRdid f) s = .next (inFlight s (destOf f.dst f.nw) 1
      ((BitVec.ofNat 16 w.gz ++ BitVec.ofNat 16 w.gy ++ BitVec.ofNat 16 w.gx).setWidth 64)))) ∧
  (∀ (s : State) (f : RR) (w : Work) (l m n : Nat), Free (.sRdid f) f.g (destOf f.dst f.nw) 1 s → s.cur.work = some w → f.fn = 3 →
    w.role < 4 → w.gcores = [l, m, n] → l < 512 → m < 512 → n < 512 →
    exec (.sRdid f) s = .next (inFlight s (destOf f.dst f.nw) 1
      ((BitVec.ofNat 9 n ++ BitVec.ofNat 9 m ++ BitVec.ofNat 9 l ++ (0 : BitVec 9) ++ BitVec.ofBool w.oneCore ++
        BitVec.ofNat 2 w.role).setWidth 64))) ∧
  (∀ (s : State) (f : RR), Free (.sRdtime f) f.g (destOf f.dst f.nw) 1 s →
    exec (.sRdtime f) s = .next (inFlight s (destOf f.dst f.nw) 1 (BitVec.ofNat 64 s.now))) ∧
  (∀ (s : State) (f : RR), Free (.sRdcoin f) f.g (destOf f.dst f.nw) 1 s →
    let x := if s.cur.live.coin = 0 then 1 else s.cur.live.coin
    let y := x ^^^ (x <<< 13)
    let z := y ^^^ (y >>> 7)
    let v := z ^^^ (z <<< 17)
    exec (.sRdcoin f) s = .next (inFlight (s.updLive (fun a => { a with coin := v })) (destOf f.dst f.nw) 1 v)) ∧
  (∀ (s : State) (f : RR), Free (.sRdlc f) f.g (destOf f.dst f.nw) 1 s →
    let l := if f.sb = 1 then s.cur.live.lc1 else s.cur.live.lc0
    exec (.sRdlc f) s = .next (inFlight s (destOf f.dst f.nw) 1
      (if f.fn = 0 then l.n.setWidth 64 else if f.fn = 1 then l.s.setWidth 64 else if f.fn = 2 then l.e.setWidth 64
       else (BitVec.ofBool l.late ++ BitVec.ofBool l.inner ++ BitVec.ofBool l.armed).setWidth 64)))

/-! ### The life of a result (R108, R115) -/

/-- R115: a result alone in flight for `g[n]` leaves the register as it was through the cycles before its last and writes it, and its latch,
in that one; no other register changes. R107, R161: `g0` reads 0 and `p0` reads true, whatever is written to them and whatever arrives for
them; a write of another register reads back and leaves the rest. -/
def Obligations.ResultArrives : Prop :=
  (∀ (a : Arch) (n lat : Nat) (l : Option Nat) (v : W64), 1 ≤ n → 1 ≤ lat →
    a.flights = [{ rem := lat, dst := .g n, latch := l, val := v }] →
    (∀ j < lat, (Nat.iterate Arch.tick j a).readG n = a.readG n) ∧
    (Nat.iterate Arch.tick lat a).readG n = v ∧
    (∀ i, l = some i → (Nat.iterate Arch.tick lat a).readB i = v) ∧
    (∀ m, m ≠ n → ∀ j ≤ lat, (Nat.iterate Arch.tick j a).readG m = a.readG m) ∧
    (∀ j ≤ lat, (Nat.iterate Arch.tick j a).p = a.p ∧ (Nat.iterate Arch.tick j a).d = a.d ∧ (Nat.iterate Arch.tick j a).pc = a.pc)) ∧
  (∀ (a : Arch) (n m : Nat) (v : W64) (b : Bool),
    (a.writeG n v).readG 0 = 0 ∧ a.writeG 0 v = a ∧ (a.writeP n b).readP 0 = true ∧ a.writeP 0 b = a ∧
    (n ≠ 0 → (a.writeG n v).readG n = v) ∧ (m ≠ n → (a.writeG n v).readG m = a.readG m) ∧
    (n ≠ 0 → n < 8 → (a.writeP n b).readP n = b) ∧ (m ≠ n → n < 8 → (a.writeP n b).readP m = a.readP m))

/-- The S words of format RR that do no more than deliver a result. -/
def Sys2Proof.Cert.plainRR : List (RR → Instr) :=
  [.sNop, .sAdd, .sSub, .sMul, .sMulh, .sMulhu, .sDiv, .sDivu, .sRem, .sRemu, .sAnd, .sOr, .sXor, .sAndn, .sShl, .sShr, .sSra, .sMin,
   .sMax, .sMinu, .sMaxu, .sMov, .sSel, .sClz, .sPopc, .sBfx, .sBfi, .sSext, .sRdlc, .sRdid, .sRdtime, .sMfp, .sMtp]
/-- Those of format RI. -/
def Sys2Proof.Cert.plainRI : List (RI → Instr) := [.sAddi, .sAndi, .sOri, .sXori, .sShli, .sShri, .sSrai, .sLi]
/-- Those of format CP. -/
def Sys2Proof.Cert.plainCP : List (CP → Instr) := [.sCmp, .sCmpi, .sPlog]

/-- The frame of those words, trapping or not: when `exec` gives a next state, every byte of every store, every register, predicate,
descriptor, coin, flag and queue head of every context, the arrays and the shared parts are as before (results in flight arrive later); so is
every latch, but that a context that traps while another is its core's primary freezes without its latches (R20, R108). -/
def Obligations.ScalarFrame : Prop :=
  (∀ k ∈ plainRR, ∀ (f : RR) (s t : State), exec (k f) s = .next t → SameMemory s t ∧ KeepsRegisters s t ∧ SameArrays s t ∧ SameShared s t) ∧
  (∀ k ∈ plainRI, ∀ (f : RI) (s t : State), exec (k f) s = .next t → SameMemory s t ∧ KeepsRegisters s t ∧ SameArrays s t ∧ SameShared s t) ∧
  (∀ k ∈ plainCP, ∀ (f : CP) (s t : State), exec (k f) s = .next t → SameMemory s t ∧ KeepsRegisters s t ∧ SameArrays s t ∧ SameShared s t)

/-! ### Branches, jumps, loops (R116, R117, R169 to R176) -/

/-- The bundle in hand holds no other word that transfers control so far. -/
abbrev Sys2Proof.Cert.FirstTransfer (s : State) : Prop := s.iss.xfs = [] ∧ s.iss.base = none

/-- A word that may transfer control gives the bundle two arms. The predicted one goes on; the correct one is kept with the branch, which
resolves 3 cycles on, mispredicted when the arms differ. `base` is the state either arm starts from. -/
def Sys2Proof.Cert.TwoArms (s t : State) (base : Arch) (taken guess : Option (BitVec 32)) : Prop :=
  (t.ctx s.key).live = base.arm s.lead s.iss.next guess ∧
  (t.ctx s.key).snaps = s.cur.snaps ++ [{ rem := 3, mis := guess != taken, arch := base.arm s.lead s.iss.next taken }] ∧
  SameMemory s t ∧ SameOthers s.key s t ∧ SameArrays s t ∧ SameShared s t ∧ SameSpecials s t

/-- The target of a packet-relative transfer: the packet that holds the bundle's first word, and 12 bytes per unit of the displacement. -/
def Sys2Proof.Cert.packetTarget (pc : BitVec 32) (disp : BitVec 15) : BitVec 32 :=
  BitVec.ofNat 32 (pc.toNat / 12 * 12) + 12 * disp.signExtend 32

/-- R171, R172: where a jump goes: the register, or with the relative form the packet plus the register. -/
def Sys2Proof.Cert.jumpTarget (s : State) (f : RR) : BitVec 32 :=
  if f.fn = 1 then BitVec.ofNat 32 (s.iss.pc.toNat / 12 * 12) + (s.value f.sa).setWidth 32 else (s.value f.sa).setWidth 32

/-- R170: the return address: the first packet at or after the next word. -/
def Sys2Proof.Cert.returnTo (next : BitVec 32) : W64 := BitVec.ofNat 64 ((next.toNat + 11) / 12 * 12)

/-- R116, R117, R169 to R171: conditional branches and calls are predicted by their hint, jumps and returns as taken; a call writes its
return address to `g31`, a jump to its register unless that is 0, in one cycle. -/
def Obligations.Transfers : Prop :=
  (∀ (s : State) (f : BR), Executes (.sBr f) f.g s → FirstTransfer s → (packetTarget s.iss.pc f.disp).toNat % 12 = 0 →
    ∃ t, exec (.sBr f) s = .next t ∧
      TwoArms s t s.cur.live (if s.srcs.readP f.pd.toNat != f.pn then some (packetTarget s.iss.pc f.disp) else none)
        (if f.hint then some (packetTarget s.iss.pc f.disp) else none)) ∧
  (∀ (s : State) (f : BR), Executes (.sCall f) f.g s → FirstTransfer s → (packetTarget s.iss.pc f.disp).toNat % 12 = 0 →
    s.cur.live.collides (.g 31) 1 = false →
    let taken := s.srcs.readP f.pd.toNat != f.pn
    let linked : Flight := { rem := 1, dst := .g 31, latch := if s.iss.sec then none else some s.iss.slot, val := returnTo s.iss.next }
    ∃ t, exec (.sCall f) s = .next t ∧
      TwoArms s t (if taken then { s.cur.live with flights := s.cur.live.flights ++ [linked] } else s.cur.live)
        (if taken then some (packetTarget s.iss.pc f.disp) else none) (if f.hint then some (packetTarget s.iss.pc f.disp) else none)) ∧
  (∀ (s : State) (f : RR), Executes (.sJmp f) f.g s → FirstTransfer s → (jumpTarget s f).toNat % 12 = 0 →
    (f.fn = 0 → (s.value f.sa).toNat < 2 ^ 32) → s.cur.live.collides (destOf f.dst f.nw) 1 = false →
    let linked : Flight := { rem := 1, dst := destOf f.dst f.nw, latch := if s.iss.sec then none else some s.iss.slot, val := returnTo s.iss.next }
    ∃ t, exec (.sJmp f) s = .next t ∧
      TwoArms s t (if f.dst = 0 then s.cur.live else { s.cur.live with flights := s.cur.live.flights ++ [linked] })
        (some (jumpTarget s f)) (some (jumpTarget s f))) ∧
  (∀ (s : State) (f : RR), Executes (.sRet f) f.g s → FirstTransfer s → ((s.value f.sa).setWidth 32 : BitVec 32).toNat % 12 = 0 →
    ∃ t, exec (.sRet f) s = .next t ∧
      TwoArms s t s.cur.live (some ((s.value f.sa).setWidth 32)) (some ((s.value f.sa).setWidth 32)))

/-- R173: `s.loop` with a positive count arms its loop over the `len` words that follow, beginning at the next bundle: count (at most
2^32 − 1), start, end, armed; the bundle goes on. With a count of 0 or less it leaves the loop disarmed with `n` 0 and transfers past the
body, which is predicted not to happen. R176: `s.lbrk` of an armed loop transfers past the body, predicted to. -/
def Obligations.Loops : Prop :=
  (∀ (s : State) (f : LP), Executes (.sLoop f) f.g s → FirstTransfer s →
    let start := s.afterPads s.cur.img s.iss.next
    s.badBody start f.len.toNat = false → 0 < (s.value f.sn).toInt →
    ∃ t, exec (.sLoop f) s = .next t ∧
      (let l := (t.ctx s.key).live.loop f.l
       l.n = BitVec.ofNat 32 (min (s.value f.sn).toNat (2 ^ 32 - 1)) ∧ l.s = start ∧
         l.e = start + BitVec.ofNat 32 (4 * (f.len.toNat - 1)) ∧ l.armed = true) ∧
      (t.ctx s.key).live.pc = s.cur.live.pc ∧ (t.ctx s.key).snaps = s.cur.snaps ∧ SameMemory s t ∧ SameOthers s.key s t ∧
      SameRegs s.cur.live (t.ctx s.key).live) ∧
  (∀ (s : State) (f : LP), Executes (.sLoop f) f.g s → FirstTransfer s →
    let start := s.afterPads s.cur.img s.iss.next
    let past := s.afterPads s.cur.img (start + BitVec.ofNat 32 (4 * f.len.toNat))
    s.badBody start f.len.toNat = false → (s.value f.sn).toInt ≤ 0 →
    ∃ t, exec (.sLoop f) s = .next t ∧
      (t.ctx s.key).live = (s.cur.live.armLoop f.l (s.value f.sn) start f.len.toNat).arm s.lead s.iss.next none ∧
      (∃ x, (t.ctx s.key).snaps = s.cur.snaps ++ [x] ∧ x.arch.pc = past ∧ (x.arch.loop f.l).armed = false) ∧ SameMemory s t ∧ SameOthers s.key s t) ∧
  (∀ (s : State) (f : LP), Executes (.sLbrk f) f.g s → FirstTransfer s → (s.cur.live.loop f.l).armed = true →
    let past := s.afterPads s.cur.img ((s.cur.live.loop f.l).e + 4)
    ∃ t, exec (.sLbrk f) s = .next t ∧ TwoArms s t s.cur.live (some past) (some past) ∧ (t.ctx s.key).live.pc = past)

/-- R174, R167: a bundle that is the end bundle of one armed loop, and of no other, turns back to the start while the count is above 1,
and the count falls by one; at 1 it falls through, and the loop is disarmed with `n` 0. (That an armed loop with `n` 0, which a supervisor can load, does as with 1
is the model's choice: log 83; that the end bundle is the first to end at or after the loop's end address is read from R167 and R174: log 51.) -/
def Obligations.LoopTurnsBack : Prop :=
  ∀ (a : Arch) (l : Bool) (start next : BitVec 32),
    (a.loop l).endsIn start next = true → (a.loop !l).armed = false →
    (1 < (a.loop l).n.toNat → (a.bundleEnd start next).pc = (a.loop l).s ∧ ((a.bundleEnd start next).loop l).n = (a.loop l).n - 1 ∧
      ((a.bundleEnd start next).loop l).armed = true) ∧
    ((a.loop l).n.toNat ≤ 1 → (a.bundleEnd start next).pc = next ∧ ((a.bundleEnd start next).loop l).n = 0 ∧
      ((a.bundleEnd start next).loop l).armed = false)

/-- R116, R118: a branch resolves when its 3 cycles are over. Mispredicted, it discards every younger branch, every held word and streaming
command of its shadow, and the context continues on the correct arm; predicted, the oldest branch and its stores leave: without held words,
and while what waits from earlier branches must still wait, only the branch is gone. Memory is untouched in both. -/
def Obligations.BranchResolves : Prop :=
  ∀ (s : State) (k : Nat) (x : Snap) (rest : List Snap), (s.ctx k).snaps = x :: rest → x.rem = 0 →
    (x.mis = true → ∃ t, exec (.branchResolution k) s = .next t ∧ (t.ctx k).live = x.arch ∧ (t.ctx k).snaps = [] ∧
      (t.ctx k).trapHold = none ∧ SameMemory s t ∧ SameOthers k s t ∧
      ∀ h ∈ (s.ctx k).held, ∀ id, h = .stream id → (t.cmd? id) = none) ∧
    (x.mis = false → x.held = [] → rest ≠ [] → (s.ctx k).rest.head?.all (s.mustWait k) = true → ∃ t, exec (.branchResolution k) s = .next t ∧ (t.ctx k).live = (s.ctx k).live ∧
      (t.ctx k).snaps = rest ∧ (t.ctx k).rest = (s.ctx k).rest ∧ SameMemory s t ∧ SameOthers k s t)

/-! ### Loads and stores (R70, R118, R178 to R180) -/

/-- R70, R109: the address of `m.ld`, `m.st`, `m.ldg` and `m.stg`: the source and the signed offset in units of the access size. -/
def Sys2Proof.Cert.address (s : State) (f : MM) : W64 :=
  s.value f.sa + BitVec.ofNat 64 (2 ^ f.sz.toNat) * (match s.iss.ext with
    | p :: _ => (p ++ f.off).signExtend 64
    | [] => f.off.signExtend 64)

/-- R178: the address of `m.lda`: the source and an unsigned index register in units of the access size. -/
def Sys2Proof.Cert.indexed (s : State) (f : MM) : W64 := s.value f.sa + BitVec.ofNat 64 (2 ^ f.sz.toNat) * s.cur.live.readG f.off.toNat

/-- A local address an access of `n` bytes may name: aligned, below the core window (R68, R70, R71). -/
abbrev Sys2Proof.Cert.LocalOk (s : State) (a : W64) (n : Nat) : Prop := coreExists s.iss.core = true ∧ a.toNat % n = 0 ∧ a.toNat < 0x700000

/-- The value of `n` little-endian bytes at `a`, extended with the sign or with zeros. -/
def Sys2Proof.Cert.IsLoaded (m : Memory) (a n : Nat) (sx : Bool) (v : W64) : Prop :=
  ∀ j < 64, v.getLsbD j =
    if j < 8 * n then (m.read (a + j / 8)).getLsbD (j % 8) else sx && (m.read (a + n - 1)).getLsbD 7

/-- R178, R179, R118: a local load delivers, in 4 cycles (6 for the indexed form), the bytes of its context's view of its scratchpad (its own
held stores as if performed) to its register unless `nw`, and to the latch `b2` or `b3`. Nothing else changes. -/
def Obligations.LocalLoads : Prop :=
  ∀ (s : State) (f : MM), Quiet s → s.iss.slot ≤ 1 → s.iss.ext.length ≤ 1 →
    (∀ (i : Instr) (a : W64) (lat : Nat), (i = .mLd f ∧ a = address s f ∧ lat = 4) ∨ (i = .mLda f ∧ a = indexed s f ∧ lat = 6) →
      Executes i f.g s → LocalOk s a (2 ^ f.sz.toNat) → s.cur.live.collides (destOf f.reg f.nw) lat = false →
      ∃ t v, exec i s = .next t ∧ IsLoaded (s.view s.key) (gsaOf s.iss.core a.toNat) (2 ^ f.sz.toNat) f.sx v ∧
        (t.ctx s.key).live = { s.cur.live with flights := s.cur.live.flights ++
          [{ rem := lat, dst := destOf f.reg f.nw, latch := if s.iss.sec then none else some (2 + s.iss.slot), val := v }] } ∧
        SameMemory s t ∧ SameOthers s.key s t ∧ SameArrays s t ∧ SameShared s t ∧ SameSpecials s t)

/-- R178, R179: a local store writes the low bytes of its register, little-endian, at its address in its core's scratchpad, and no other byte
of any store; R118: while the bundle is speculative it only waits, and its own context's loads already see it. R52: an 8-byte store of a
defined code to a format register sets that format and no byte of any store. The payload of a handler store to the own core performs in its issue step
too, and only its handler is still to start: this clause rests on log 85, which reads it from R85 and R182 by inference. -/
def Obligations.LocalStores : Prop :=
  (∀ (s : State) (f : MM), Executes (.mSt f) f.g s → Quiet s → s.iss.ext.length ≤ 1 → LocalOk s (address s f) (2 ^ f.sz.toNat) →
    s.mem.wf = true →
    let a := gsaOf s.iss.core (address s f).toNat
    let n := 2 ^ f.sz.toNat
    ∃ t, exec (.mSt f) s = .next t ∧ SameArrays s t ∧ SameShared s t ∧ SameSpecials s t ∧ SameRegisters s t ∧
      (Settled s →
        (∀ j < n, t.mem.read (a + j) = (s.cur.live.readG f.reg.toNat).extractLsb' (8 * j) 8) ∧
        (∀ c, c < a ∨ a + n ≤ c → t.mem.read c = s.mem.read c)) ∧
      (¬Settled s → SameMemory s t ∧
        (∀ j < n, (s.view s.key).wf = true → (t.view s.key).read (a + j) = (s.cur.live.readG f.reg.toNat).extractLsb' (8 * j) 8))) ∧
  (∀ (s : State) (f : MM) (b : Nat), Executes (.mSt f) f.g s → Settled s → s.iss.ext.length ≤ 1 → coreExists s.iss.core = true → b < 16 →
    f.sz = 3 → (address s f).toNat = 0x7FD000 + 8 * b → (s.cur.live.readG f.reg.toNat).toNat % 16 ≤ 10 →
    ∃ t, exec (.mSt f) s = .next t ∧ look 0 (t.core s.iss.core).fmt b = (s.cur.live.readG f.reg.toNat).extractLsb' 0 4 ∧
      (∀ c, c ≠ b → look 0 (t.core s.iss.core).fmt c = look 0 (s.core s.iss.core).fmt c) ∧ SameMemory s t ∧ SameRegisters s t) ∧
  (∀ (s : State) (f : MM), Executes (.mSth f) f.g s → Settled s → Quiet s → s.mem.wf = true → coreExists s.iss.core = true →
    let a := (s.value f.sa).toNat
    let n := 2 ^ f.sz.toNat
    a < 2 ^ 32 → a % n = 0 → gsaCore a = s.iss.core → gsaOff a < 0x400000 →
    (s.cur.live.readG f.off.toNat).toNat < 2 ^ 32 → (s.cur.live.readG f.off.toNat).toNat % 12 = 0 →
    ∃ t m, exec (.mSth f) s = .next t ∧ t.msgs = s.msgs ++ [m] ∧ m.kind = .sth (s.cur.live.readG f.off.toNat).toNat ∧ m.addr = a ∧ m.paid = true ∧
      (∀ j < n, t.mem.read (a + j) = (s.cur.live.readG f.reg.toNat).extractLsb' (8 * j) 8) ∧
      (∀ c, c < a ∨ a + n ≤ c → t.mem.read c = s.mem.read c) ∧ SameArrays s t ∧ SameShared s t ∧ SameSpecials s t ∧ SameRegisters s t)

/-- A word that traps in a user context without unresolved branches: it performs nothing; its context freezes with the cause at the bundle,
and the event that waits for the supervisor carries the cause, the word's index and `csr.tval` (R112, R379 to R381, R383). -/
def Sys2Proof.Cert.TrapsWith (s : State) (i : Instr) (cause : Nat) (tval : W64) : Prop :=
  ∃ t, exec i s = .next t ∧ (t.ctx s.key).frozen = some cause ∧ (t.ctx s.key).live.pc = s.iss.pc ∧
    (∃ e, (t.ctx s.key).pend = some e ∧ e.cause = cause ∧ e.widx = s.iss.widx ∧ e.tval = tval ∧ e.core = keyCore s.key ∧ e.h = keyCtx s.key) ∧
    (t.ctx s.key).lcsv0 = s.cur.live.lc0 ∧ (t.ctx s.key).lcsv1 = s.cur.live.lc1 ∧
    SameMemory s t ∧ KeepsRegisters s t ∧ SameOthers s.key s t ∧ SameArrays s t ∧ SameShared s t

/-- Where words of user contexts trap: R115: a result due in the same cycle as another for its register (cause 3, the word's index), also of a
load whatever its address (R112 order); R117: a
taken branch to an address that is not a multiple of 12 (cause 1, the word); R180: an access that is not aligned to its size or lies outside
its space (cause 5, the address), a store that names a core of another partition (cause 6, the address); R213: a region that breaks its rule
(cause 4, the packed descriptor); R112: a word that is illegal (cause 1, the word). -/
def Obligations.WordTraps : Prop :=
  ∀ s : State, Settled s → s.isSuper s.key = false →
    (∀ f : RR, Executes (.sAdd f) f.g s → s.cur.live.collides (destOf f.dst f.nw) 1 = true →
      TrapsWith s (.sAdd f) 3 (BitVec.ofNat 64 s.iss.widx)) ∧
    (∀ f : BR, Executes (.sBr f) f.g s → FirstTransfer s → (packetTarget s.iss.pc f.disp).toNat % 12 ≠ 0 →
      (s.srcs.readP f.pd.toNat != f.pn) = true → TrapsWith s (.sBr f) 1 (s.iss.word.setWidth 64)) ∧
    (∀ f : MM, Executes (.mLd f) f.g s → s.cur.live.collides (destOf f.reg f.nw) 4 = true →
      TrapsWith s (.mLd f) 3 (BitVec.ofNat 64 s.iss.widx)) ∧
    (∀ f : MM, Executes (.mLd f) f.g s → s.iss.ext.length ≤ 1 → s.cur.live.collides (destOf f.reg f.nw) 4 = false →
      ((address s f).toNat % 2 ^ f.sz.toNat ≠ 0 ∨ 2 ^ 23 ≤ (address s f).toNat) → TrapsWith s (.mLd f) 5 (address s f)) ∧
    (∀ f : MM, Executes (.mStg f) f.g s → s.iss.ext.length ≤ 1 → (address s f).toNat % 2 ^ f.sz.toNat = 0 → (address s f).toNat < 2 ^ 32 →
      coreExists (gsaCore (address s f).toNat) = true → gsaOff (address s f).toNat < 0x400000 →
      s.sameParts s.iss.core (gsaCore (address s f).toNat) = false → TrapsWith s (.mStg f) 6 (address s f)) ∧
    (∀ f : VR, Executes (.vAdd f) f.g s → s.meets { d := f.dd, count := some (s.cur.live.desc f.da.toNat).count.toNat } = false →
      TrapsWith s (.vAdd f) 4 (s.cur.live.desc f.dd.toNat).pack) ∧
    (∀ f : RR, (Instr.sAdd f).wf = false → TrapsWith s (.sAdd f) 1 (s.iss.word.setWidth 64))

/-! ### Remote accesses (R14, R81, R82, R179, R181, R182, R315) -/

/-- A global address of another core of the same partition, below the accumulators (R68, R70). -/
abbrev Sys2Proof.Cert.RemoteOk (s : State) (a : W64) (n : Nat) : Prop :=
  a.toNat < 2 ^ 32 ∧ a.toNat % n = 0 ∧ coreExists (gsaCore a.toNat) = true ∧ gsaCore a.toNat ≠ s.iss.core ∧ gsaOff a.toNat < 0x400000 ∧
    s.sameParts s.iss.core (gsaCore a.toNat) = true

/-- What a word that sends an access leaves: the access is the youngest in the core's request table, nothing is performed or delivered yet. -/
def Sys2Proof.Cert.Sends (s : State) (i : Instr) (kind : MsgKind) (a : W64) (n q : Nat) (data : W64) (sx : Bool) : Prop :=
  ∃ t m, exec i s = .next t ∧ t.msgs = s.msgs ++ [m] ∧ m.id = s.nextId ∧ m.core = s.iss.core ∧ m.h = s.iss.h ∧ m.kind = kind ∧
    m.addr = a.toNat ∧ m.size = n ∧ m.queue = q ∧ m.sx = sx ∧ m.data.toNat = data.toNat % 2 ^ (8 * n) ∧ m.stage = .table ∧
    m.inc = (s.die (dieOf s.iss.core)).inc.toNat ∧ SameMemory s t ∧ SameRegisters s t ∧ SameArrays s t ∧ SameShared s t ∧ SameSpecials s t

/-- R178, R179, R181, R182: a load, store, atomic or handler store of another core's scratchpad enters the request table; an atomic carries
the operation, its operand and the register after it. -/
def Obligations.RemoteAccesses : Prop :=
  ∀ (s : State) (f : MM), Settled s → s.iss.ext.length ≤ 1 → s.msgs.all (fun m => m.id < s.nextId && m.core != s.iss.core) = true →
    let n := 2 ^ f.sz.toNat
    (Executes (.mLdg f) f.g s → RemoteOk s (address s f) n → Sends s (.mLdg f) .load (address s f) n (f.reg.toNat / 4) 0 f.sx) ∧
    (Executes (.mStg f) f.g s → RemoteOk s (address s f) n →
      Sends s (.mStg f) .store (address s f) n 0 (s.cur.live.readG f.reg.toNat) false) ∧
    (Executes (.mAmo f) f.g s → RemoteOk s (s.value f.sa) n →
      Sends s (.mAmo f) (.amo ((if f.nw then 4 else 0) + (if f.sx then 2 else 0) + f.off.toNat / 16)
        (s.cur.live.readG (f.off.toNat % 16 + 1))) (s.value f.sa) n (f.reg.toNat / 4) (s.cur.live.readG (f.off.toNat % 16)) false) ∧
    (Executes (.mSth f) f.g s → RemoteOk s (s.value f.sa) n → (s.cur.live.readG f.off.toNat).toNat < 2 ^ 32 →
      (s.cur.live.readG f.off.toNat).toNat % 12 = 0 →
      Sends s (.mSth f) (.sth (s.cur.live.readG f.off.toNat).toNat) (s.value f.sa) n 0 (s.cur.live.readG f.reg.toNat) false)

/-- R181: the operations of an atomic on two operands of `w` bits. -/
def Sys2Proof.Cert.atomic (af : Nat) {w : Nat} (old x cmp : BitVec w) : BitVec w :=
  match af with
  | 0 => old + x
  | 1 => if x.slt old then x else old
  | 2 => if old.slt x then x else old
  | 3 => old &&& x
  | 4 => old ||| x
  | 5 => old ^^^ x
  | 6 => x
  | _ => if old = x then cmp else old

/-- R181: an atomic on 4 or 8 bytes answers what was there and leaves the operation's result there, and every other byte alone. -/
def Obligations.Atomics : Prop :=
  ∀ (m : Memory) (a af : Nat) (v cmp : W64), m.wf = true → af < 8 →
    (IsLoaded m a 8 false (amoMemory m a 8 af v cmp).1 ∧ IsLoaded (amoMemory m a 8 af v cmp).2 a 8 false (atomic af (amoMemory m a 8 af v cmp).1 v cmp)) ∧
    (∃ w : W32, IsLoaded m a 4 false (amoMemory m a 4 af v cmp).1 ∧ (amoMemory m a 4 af v cmp).1 = w.setWidth 64 ∧
      IsLoaded (amoMemory m a 4 af v cmp).2 a 4 false ((atomic af w (v.setWidth 32) (cmp.setWidth 32)).setWidth 64)) ∧
    (∀ n c, (n = 4 ∨ n = 8) → c < a ∨ a + n ≤ c → (amoMemory m a n af v cmp).2.read c = m.read c)

/-- R81, R82, R179, R181: an access that stands at its target with nothing of its bytes ahead of it performs: a store's bytes are there, a load
has its value, an atomic has the old value and has left its result, and the response or acknowledgement is under way. An access whose time has come leaves the
request table for the cluster's egress, and that for the ring's; a load does so where no access that meets its bytes is under way. The old value of an atomic, or
the value of a load, that has returned reaches the end of its queue head in the order of issue, unless its incarnation is another than the die's
(R315), when it is dropped and counted; the acknowledgement of a store frees its entry. (That an access is one message, which moves from stage to stage and is
acknowledged as it enters one, is read by inference: log 60.) -/
def Obligations.AccessesMove : Prop :=
  ∀ (s : State) (m : Msg), s.msg? m.id = some m → Quiet s →
    (m.kind = .store → s.atTarget m = true → gsaOff m.addr < 0x400000 → s.mem.wf = true → gsaCore m.addr ≠ m.core → dieOf (gsaCore m.addr) = dieOf m.core →
      ∃ t, exec (.remoteAccessAtTarget m.id) s = .next t ∧
        (∀ j < m.size, t.mem.read (m.addr + j) = BitVec.ofNat 8 (m.data.toNat / 2 ^ (8 * j))) ∧
        (∀ c, c < m.addr ∨ m.addr + m.size ≤ c → t.mem.read c = s.mem.read c) ∧
        (∃ x, t.msg? m.id = some x ∧ x.stage = .done) ∧ SameRegisters s t ∧ SameSpecials s t) ∧
    (m.kind = .load → s.atTarget m = true → gsaOff m.addr < 0x400000 → dieOf (gsaCore m.addr) = dieOf m.core →
      ∃ t x, exec (.remoteAccessAtTarget m.id) s = .next t ∧ t.msg? m.id = some x ∧ x.stage = .done ∧
        x.val = BitVec.ofNat 64 (s.mem.num m.addr m.size) ∧ SameMemory s t ∧ SameRegisters s t ∧ SameSpecials s t) ∧
    (∀ af cmp, m.kind = .amo af cmp → s.atTarget m = true → gsaOff m.addr < 0x400000 → dieOf (gsaCore m.addr) = dieOf m.core →
      ∃ t x, exec (.remoteAccessAtTarget m.id) s = .next t ∧ t.msg? m.id = some x ∧ x.stage = .done ∧
        x.val = (amoMemory s.mem m.addr m.size af m.data cmp).1 ∧ t.mem = (amoMemory s.mem m.addr m.size af m.data cmp).2 ∧ SameRegisters s t ∧
        SameSpecials s t) ∧
    (∀ st, (m.stage = .table ∧ st = .cluster) ∨ (m.stage = .cluster ∧ st = .ring) → s.mayLeave m = true →
      (s.die (dieOf (gsaCore m.addr))).failed = false →
      (m.kind = .load → ∀ x ∈ s.msgs, x.id ≠ m.id → m.addr + m.size ≤ x.addr ∨ x.addr + x.size ≤ m.addr) →
      ∃ t x, exec (.stageAcknowledgement m.id) s = .next t ∧ t.msg? m.id = some x ∧ x.stage = st ∧ x.kind = m.kind ∧ x.addr = m.addr ∧ x.data = m.data ∧
        SameMemory s t ∧ SameRegisters s t) ∧
    (m.stage = .done → m.home = true → m.kind = .store → m.due ≤ s.now + 1 → m.noHandler = false →
      (s.die (dieOf (gsaCore m.addr))).failed = false → m.inc = (s.die (dieOf m.core)).inc.toNat →
      ∃ t, exec (.stageAcknowledgement m.id) s = .next t ∧ t.msg? m.id = none ∧ SameMemory s t ∧ SameRegisters s t) ∧
    (m.stage = .done → m.home = true → (m.kind = .load ∨ ∃ af cmp, m.kind = .amo af cmp) → m.due ≤ s.now + 1 → m.inc = (s.die (dieOf m.core)).inc.toNat →
      s.nextInQueue m = true → has s.ctxs m.dest = true →
      ∃ t, exec (.remoteResponseArrival m.id) s = .next t ∧ t.msg? m.id = none ∧
        (t.ctx m.dest).live.queue m.queue = (s.ctx m.dest).live.queue m.queue ++
          [if m.sx then sextLow m.val (8 * m.size) else zextLow m.val (8 * m.size)] ∧ SameMemory s t) ∧
    (m.stage = .done → m.home = true → (m.kind = .load ∨ ∃ af cmp, m.kind = .amo af cmp) → m.due ≤ s.now + 1 → m.inc ≠ (s.die (dieOf m.core)).inc.toNat →
      ∃ t, exec (.remoteResponseArrival m.id) s = .next t ∧ t.msg? m.id = none ∧
        (t.die (dieOf m.core)).stale = min ((s.die (dieOf m.core)).stale + 1) (2 ^ 32 - 1) ∧ SameMemory s t ∧ SameRegisters s t)

/-- R30, R31, R182: an `m.sth` that may perform at its target writes its payload; with a dormant context set aside there and no arrival
waiting, the lowest such context starts at the packet it named, `g1` the offset and `g2` the sender, as a handler of the unit that
set it aside. With contexts set aside of which none is dormant, or an arrival waiting, it joins the arrival queue, of 16; one that finds the queue full performs
nothing and is tried again later; with no context set aside the payload performs and the acknowledgement says so. The oldest waiting arrival starts when a
context is dormant again. (That the payload of one to its own core was written before is read by inference: log 85; that a context counts only while the unit
that set it aside has not executed `q.exit`, `State.assignerRuns`, is the model's choice: log 95.) -/
def Obligations.Handlers : Prop :=
  (∀ (s : State) (m : Msg) (pc k : Nat), s.msg? m.id = some m → Quiet s → m.kind = .sth pc → s.sthReady m = true → gsaOff m.addr < 0x400000 →
    gsaCore m.addr ≠ m.core → m.paid = false → dieOf (gsaCore m.addr) = dieOf m.core → s.mem.wf = true →
    ((s.handlerCtxs (gsaCore m.addr)).filter s.assignerRuns).find? (fun k => (s.ctx k).role == .dormant) = some k →
    (s.core (gsaCore m.addr)).arrivals = [] →
    ∃ t, exec (.handlerArrival m.id) s = .next t ∧
      (∀ j < m.size, t.mem.read (m.addr + j) = BitVec.ofNat 8 (m.data.toNat / 2 ^ (8 * j))) ∧
      (∀ c, c < m.addr ∨ m.addr + m.size ≤ c → t.mem.read c = s.mem.read c) ∧
      (t.ctx k).role = .handler ∧ (t.ctx k).live.pc = BitVec.ofNat 32 pc ∧ (t.ctx k).live.readG 1 = BitVec.ofNat 64 (gsaOff m.addr) ∧
      (t.ctx k).live.readG 2 = BitVec.ofNat 64 (m.core + m.h * 512) ∧ (t.ctx k).live.coin = (s.ctx k).live.coin ∧
      (∃ x, t.msg? m.id = some x ∧ x.stage = .done)) ∧
  (∀ (s : State) (m : Msg) (pc k : Nat), s.msg? m.id = some m → m.kind = .sth pc → m.paid = true → gsaCore m.addr = m.core → s.sthReleased m = true →
    ((s.handlerCtxs m.core).filter s.assignerRuns).find? (fun k => (s.ctx k).role == .dormant) = some k → (s.core m.core).arrivals = [] →
    ∃ t, exec (.handlerArrival m.id) s = .next t ∧ (t.ctx k).role = .handler ∧ (t.ctx k).live.pc = BitVec.ofNat 32 pc ∧
      (t.ctx k).live.readG 1 = BitVec.ofNat 64 (gsaOff m.addr) ∧ (t.ctx k).live.readG 2 = BitVec.ofNat 64 (m.core + m.h * 512) ∧
      SameMemory s t ∧ SameOthers k s t ∧ (∃ x, t.msg? m.id = some x ∧ x.stage = .done)) ∧
  (∀ (s : State) (m : Msg) (pc : Nat), s.msg? m.id = some m → Quiet s → m.kind = .sth pc → s.sthReady m = true → gsaOff m.addr < 0x400000 →
    gsaCore m.addr ≠ m.core → m.paid = false → dieOf (gsaCore m.addr) = dieOf m.core → s.mem.wf = true →
    let ks := (s.handlerCtxs (gsaCore m.addr)).filter s.assignerRuns
    let old := (s.core (gsaCore m.addr)).arrivals
    let wrote (t : State) : Prop := (∀ j < m.size, t.mem.read (m.addr + j) = BitVec.ofNat 8 (m.data.toNat / 2 ^ (8 * j))) ∧
      (∀ c, c < m.addr ∨ m.addr + m.size ≤ c → t.mem.read c = s.mem.read c)
    (ks = [] → ∃ t x, exec (.handlerArrival m.id) s = .next t ∧ wrote t ∧ t.ctxs = s.ctxs ∧ (t.core (gsaCore m.addr)).arrivals = old ∧
      t.msg? m.id = some x ∧ x.stage = .done ∧ x.noHandler = true) ∧
    (ks ≠ [] → (old ≠ [] ∨ ∀ k ∈ ks, (s.ctx k).role ≠ .dormant) →
      (old.length < 16 → ∃ t x, exec (.handlerArrival m.id) s = .next t ∧ wrote t ∧ t.ctxs = s.ctxs ∧
        (t.core (gsaCore m.addr)).arrivals = old ++ [{ pc := pc, off := gsaOff m.addr, sender := m.core + m.h * 512 }] ∧
        t.msg? m.id = some x ∧ x.stage = .done) ∧
      (16 ≤ old.length → ∃ t x, exec (.handlerArrival m.id) s = .next t ∧ SameMemory s t ∧ t.ctxs = s.ctxs ∧ t.cores = s.cores ∧
        t.msg? m.id = some x ∧ x.stage = m.stage ∧ s.now < x.due))) ∧
  (∀ (s : State) (c k : Nat) (x : Arrival) (xs : List Arrival), (s.core c).arrivals = x :: xs →
    (s.handlerCtxs c).find? (fun k => (s.ctx k).role == .dormant) = some k →
    ∃ t, exec (.handlerQueueStart c) s = .next t ∧ (t.core c).arrivals = xs ∧ (t.ctx k).role = .handler ∧
      (t.ctx k).live.pc = BitVec.ofNat 32 x.pc ∧ (t.ctx k).live.readG 1 = BitVec.ofNat 64 x.off ∧
      (t.ctx k).live.readG 2 = BitVec.ofNat 64 x.sender ∧ SameMemory s t ∧ SameOthers k s t)

/-! ### Descriptors, streaming commands (R211 to R238) -/

/-- A region of the context in hand meets the rules of a source or destination of `n` elements whose format the condition admits (R213). -/
abbrev Sys2Proof.Cert.region (s : State) (d : BitVec 4) (n : Option Nat) (fmt : Nat → Bool := fun x => !isRawFmt x) : Prop :=
  s.meets { d := d, count := n, fmt := fmt } = true

/-- What issuing a streaming command leaves: one more command, of this word, on its slot, running, held while the bundle is speculative; it
has written nothing. Memory, registers (the coin apart, for words that draw it) and all else are as before. -/
def Sys2Proof.Cert.Streams (s : State) (i : Instr) (slot tail : Nat) (coin : Bool := false) : Prop :=
  ∃ t c j r S, exec i s = .next t ∧ t.cmds = s.cmds ++ [c] ∧ c.id = s.nextId ∧ c.core = s.iss.core ∧ c.h = s.iss.h ∧ c.tok = none ∧
    c.kind = .stream slot j r ∧ j.word = i ∧ c.st = .running ∧ c.rem = S + tail ∧ 1 ≤ S ∧ c.held = s.cur.speculative ∧
    SameMemory s t ∧ SameArrays s t ∧ SameShared s t ∧ SameSpecials s t ∧ SameOthers s.key s t ∧
    (coin = false → SameRegisters s t)

/-- The state meets what every streaming word asks: no other command is writing, identifiers are fresh, and `b4` takes no second result in the
cycle of this one. -/
def Sys2Proof.Cert.StreamReady (s : State) : Prop :=
  Quiet s ∧ s.cmds.all (fun c => c.id < s.nextId) = true ∧ ∀ n, s.b4Busy n = false

/-- R213 to R231: the V words start a command on their slot when the regions they name meet the rules: elementwise words one count for all (R219), the
sources' formats their own; reductions their sources alone (R227, R229: `v.nfck` its destination with `.m` only); bitwise words integer regions of one element
size; copies any formats, records and raw banks too, as R221 asks of each side (`State.copyNeed`); indexed words the count of their indices (R226). The result is
written at completion, 6 cycles after the last element. -/
def Obligations.VectorWordsStart : Prop :=
  ∀ s : State, StreamReady s →
    (∀ f : VR, ∀ n, n = (s.cur.live.desc f.da.toNat).count.toNat → region s f.dd (some n) → region s f.da (some n) →
      (∀ k ∈ ([.vAbs, .vNeg, .vCvt] : List (VR → Instr)), Executes (k f) f.g s → Streams s (k f) s.iss.slot 6) ∧
      (region s f.db (some n) →
        (∀ k ∈ ([.vAdd, .vSub, .vMul, .vMax, .vMin, .vCmp] : List (VR → Instr)), Executes (k f) f.g s → Streams s (k f) s.iss.slot 6) ∧
        (region s f.dc (some n) →
          ∀ k ∈ ([.vFma, .vClip, .vSel] : List (VR → Instr)), Executes (k f) f.g s → Streams s (k f) s.iss.slot 6))) ∧
    -- reductions and the check of finite values
    (∀ f : VR, ∀ n, n = (s.cur.live.desc f.da.toNat).count.toNat → region s f.da none →
      (∀ k ∈ ([.vRsum, .vRmax, .vRmin] : List (VR → Instr)), Executes (k f) f.g s → Streams s (k f) s.iss.slot 6) ∧
      (region s f.db (some n) → Executes (.vRdot f) f.g s → Streams s (.vRdot f) s.iss.slot 6) ∧
      ((f.md.getLsbD 0 = true → region s f.dd (some n)) → Executes (.vNfck f) f.g s → Streams s (.vNfck f) s.iss.slot 6)) ∧
    -- bitwise words and shifts: integers of one element size
    (∀ f : VR, ∀ n ints, n = (s.cur.live.desc f.da.toNat).count.toNat →
      ints = (fun x => isIntFmt x && eltSize x == eltSize (s.fmtOfDesc (s.cur.live.desc f.da.toNat))) →
      region s f.dd (some n) ints → region s f.da (some n) ints → region s f.db (some n) ints →
      ∀ k ∈ ([.vAnd, .vOr, .vXor] : List (VR → Instr)), Executes (k f) f.g s → Streams s (k f) s.iss.slot 6) ∧
    -- copies and indexed words
    (∀ f : VR, ∀ n, n = (s.cur.live.desc f.da.toNat).count.toNat → s.meets (s.copyNeed f.dd f.da n) = true → s.meets (s.copyNeed f.da f.dd n) = true →
      Executes (.vCpy f) f.g s → Streams s (.vCpy f) s.iss.slot 6) ∧
    (∀ f : VR, ∀ n, n = (s.cur.live.desc f.da.toNat).count.toNat → region s f.da none → region s f.db (some n) isIntFmt →
      (region s f.dd (some n) → Executes (.vPerm f) f.g s → Streams s (.vPerm f) s.iss.slot 6) ∧
      (region s f.dd none (fun x => !isRawFmt x && !isRecFmt x) → Executes (.vScat f) f.g s → Streams s (.vScat f) s.iss.slot 6)) ∧
    (∀ f : VR, ∀ n, n = (s.cur.live.desc f.db.toNat).count.toNat → region s f.dd (some n) → region s f.da none → region s f.db none isIntFmt →
      Executes (.vGath f) f.g s → Streams s (.vGath f) s.iss.slot 6) ∧
    (∀ f : VS, ∀ n, n = (s.cur.live.desc f.da.toNat).count.toNat → region s f.dd (some n) → region s f.da (some n) →
      ∀ k ∈ ([.vScal, .vAxpy] : List (VS → Instr)), Executes (k f) f.g s → Streams s (k f) s.iss.slot 6) ∧
    (∀ f : VS, ∀ n ints, n = (s.cur.live.desc f.da.toNat).count.toNat →
      ints = (fun x => isIntFmt x && eltSize x == eltSize (s.fmtOfDesc (s.cur.live.desc f.da.toNat))) →
      region s f.dd (some n) ints → region s f.da (some n) ints →
      ∀ k ∈ ([.vShl, .vShr] : List (VS → Instr)), Executes (k f) f.g s → Streams s (k f) s.iss.slot 6) ∧
    (∀ f : VS, region s f.dd none → ∀ k ∈ ([.vFill, .vIota] : List (VS → Instr)), Executes (k f) f.g s → Streams s (k f) s.iss.slot 6)

/-- A summary record at a descriptor (R239): unit stride, base a multiple of 8, format N8. -/
abbrev Sys2Proof.Cert.record (s : State) (d : BitVec 4) (n : Option Nat) : Prop := s.meets (recordNeed d n) = true

/-- R230, R231, R239, R255 to R263, R232, R236, R237: the words on records, pulses and rescaling; the special functions over a region, on the F
slot with 10 cycles; the lane words, on the X slot with 6. -/
def Obligations.OtherStreamsStart : Prop :=
  ∀ s : State, StreamReady s →
    (∀ f : VS, record s f.dd (some (if f.md.toNat % 4 = 0 then 2048 else if f.md.toNat % 4 = 1 then 512 else 1040)) →
      Executes (.vSkinit f) f.g s → Streams s (.vSkinit f) s.iss.slot 6) ∧
    (∀ f : VR, record s f.dd (some 2048) → region s f.da none → Executes (.vSkq f) f.g s → Streams s (.vSkq f) s.iss.slot 6 true) ∧
    (∀ f : VR, record s f.dd (some 512) →
      region s f.da none (fun x => isIntFmt x && decide (eltSize x ≤ 2)) → Executes (.vSkh f) f.g s → Streams s (.vSkh f) s.iss.slot 6) ∧
    (∀ f : VR, record s f.dd (some 1040) → region s f.da none (fun x => isIntFmt x || x == 0) → Executes (.vSkd f) f.g s →
      Streams s (.vSkd f) s.iss.slot 6) ∧
    (∀ f : VR, record s f.dd (some (s.cur.live.desc f.da.toNat).count.toNat) → record s f.da none →
      apartOrSame (s.cur.live.desc f.da.toNat) (s.cur.live.desc f.dd.toNat) = true → Executes (.vSkm f) f.g s →
      Streams s (.vSkm f) s.iss.slot 6 true) ∧
    (∀ f : VS, record s f.da (some 2048) → Executes (.vSkqq f) f.g s → Streams s (.vSkqq f) s.iss.slot 6) ∧
    (∀ f : VR, record s f.da (some 1040) → Executes (.vSkest f) f.g s → Streams s (.vSkest f) s.iss.slot 6) ∧
    (∀ f : VR, s.meets {
        d := f.dd, count := none, fmt := fun x => x == 3,
        also := fun d => d.count.toNat % 2 == 0 && decide (2 ≤ d.count.toNat) && decide (d.count.toNat ≤ 124) } = true →
      record s f.da (some 512) → Executes (.vSktop f) f.g s → Streams s (.vSktop f) s.iss.slot 6) ∧
    (∀ f : VR, ∀ n, n = (s.cur.live.desc f.da.toNat).count.toNat → region s f.dd (some n) (· == 6) → region s f.da none →
      region s f.db (some (8 * n)) (· == 6) → Executes (.vPgen f) f.g s → Streams s (.vPgen f) s.iss.slot 6) ∧
    (∀ f : VS, ∀ n, n = (s.cur.live.desc f.da.toNat).count.toNat →
      region s f.dd (some n) (fun x => isRecFmt x && x == s.fmtOfDesc (s.cur.live.desc f.da.toNat)) → region s f.da none isRecFmt →
      Executes (.vRscale f) f.g s → Streams s (.vRscale f) s.iss.slot 6) ∧
    (∀ f : VS, ∀ n, n = (s.cur.live.desc f.da.toNat).count.toNat → region s f.dd (some n) → region s f.da (some n) → f.md = 0 →
      ∀ k ∈ ([.fExp, .fLog, .fExp2, .fLog2, .fRcp, .fRsqrt, .fSqrt, .fTanh, .fSigm, .fGelu, .fSilu, .fSin, .fCos, .fErf] : List (VS → Instr)),
        Executes (k f) f.g s → Streams s (k f) 3 10) ∧
    (∀ f : VR, ∀ n, n = (s.cur.live.desc f.da.toNat).count.toNat →
      region s f.dd (some n) (fun x => x == s.fmtOfDesc (s.cur.live.desc f.da.toNat) && !isRecFmt x) →
      region s f.da none (fun x => !isRecFmt x) →
      (∀ k ∈ ([.xRot, .xBc, .xTr, .xRev] : List (VR → Instr)), Executes (k f) f.g s → Streams s (k f) 4 6) ∧
      (patternCollides s.cur.pattern = false → Executes (.xApp f) f.g s → Streams s (.xApp f) 4 6)) ∧
    (∀ f : VR, region s f.da (some 64) (fun x => x == 5 || x == 6 || isRawFmt x) → Executes (.xLd f) f.g s → Streams s (.xLd f) 4 6)

/-- The F words. -/
def Sys2Proof.Cert.functionWords : List (VS → Instr) :=
  [.fExp, .fLog, .fExp2, .fLog2, .fRcp, .fRsqrt, .fSqrt, .fTanh, .fSigm, .fGelu, .fSilu, .fSin, .fCos, .fErf]

/-- R232: the scalar form of a special function delivers its FP32 result, in the low half of `b4`, 8 cycles on, with its flags; a secondary
writes no latch. R234: exact results: e^0 = 2^0 = 1; the root, sine, tangent, error function, GELU and SiLU of +0 are +0; the cosine of 0 is 1, the
sigmoid of 0 one half; the logarithms of 0 are −∞ and set `dz`; the reciprocal of +0 is +∞ and sets `dz`. (What the functions give
elsewhere within their bounds is free: log 6.) -/
def Obligations.SpecialFunctions : Prop :=
  (∀ k ∈ functionWords, ∀ (s : State) (f : VS), Executes (k f) f.g s → f.md = 1 → Settled s → (∀ n, s.b4Busy n = false) →
    ∃ t v fl, exec (k f) s = .next t ∧ special (specialOpOf (k f)) ((s.value f.ss).extractLsb' 0 32) = (v, fl) ∧
      (t.ctx s.key).live = { s.cur.live with flights := s.cur.live.flights ++
        [{ rem := 8, dst := .none, latch := if s.iss.sec then none else some 4, val := fpWord v, fl := fl }] } ∧
      SameMemory s t ∧ SameOthers s.key s t ∧ t.cmds = s.cmds) ∧
  ([0, 2].all (fun op => f32Bits (special op 0#32).1 == 0x3F800000#32) && [6, 7, 9, 10, 11, 13].all (fun op => f32Bits (special op 0#32).1 == 0#32) &&
    (f32Bits (special 12 0#32).1 == 0x3F800000#32) && (f32Bits (special 8 0#32).1 == 0x3F000000#32) &&
    [1, 3].all (fun op => f32Bits (special op 0#32).1 == 0xFF800000#32 && (special op 0#32).2 == flagDz) &&
    (f32Bits (special 4 0#32).1 == 0x7F800000#32) && ((special 4 0#32).2 == flagDz)) = true

/-- R212: `v.dset` loads a descriptor with the count, stride and base of its packed source at the end of the bundle's reads, once per bundle and
descriptor; `v.dget` delivers a descriptor packed, 7 cycles on, in `b4`; unpacking a packed descriptor gives it back. R228: `v.rstat`
delivers the flags, 7 cycles on, and clears those of its mask; R65: flags of commands still running may have been set by then. -/
def Obligations.Descriptors : Prop :=
  (∀ d : Desc, Desc.unpack d.pack = d) ∧
  (∀ (s : State) (f : VS), Executes (.vDset f) f.g s → s.iss.dsets.contains f.dd.toNat = false →
    ∃ t, exec (.vDset f) s = .next t ∧ (t.ctx s.key).live.desc f.dd.toNat = Desc.unpack (s.value f.ss) ∧
      (∀ n, n ≠ f.dd.toNat → (t.ctx s.key).live.desc n = s.cur.live.desc n) ∧ (t.ctx s.key).live.g = s.cur.live.g ∧
      (t.ctx s.key).live.p = s.cur.live.p ∧ (t.ctx s.key).live.vstat = s.cur.live.vstat ∧ SameMemory s t ∧ SameOthers s.key s t) ∧
  (∀ (s : State) (f : VS), Executes (.vDget f) f.g s → Settled s → (∀ n, s.b4Busy n = false) →
    exec (.vDget f) s = .next (s.updLive (fun a => { a with flights := a.flights ++
      [{ rem := 7, dst := .none, latch := if s.iss.sec then none else some 4, val := (s.cur.live.desc f.da.toNat).pack }] }))) ∧
  (∀ (s : State) (f : VS), Executes (.vRstat f) f.g s → Settled s → (∀ n, s.b4Busy n = false) → s.cmds.all (fun c => c.flags == 0) = true →
    exec (.vRstat f) s = .next (s.updLive (fun a => {
      a with
      vstat := a.vstat &&& ~~~((s.value f.ss).extractLsb' 0 5),
      flights := a.flights ++ [{ rem := 7, dst := .none, latch := if s.iss.sec then none else some 4, val := a.vstat.setWidth 64 }] })))

/-- R215, R65: a streaming command that is due performs the element writes it has computed, in order, sets its flags, and leaves; its scalar
arrives in `b4`, later by the cycles its context has stood still for a freeze (R383). R217: one that is held by a speculative bundle waits. R237: so does a
load of the lane pattern while its context stands still. -/
def Obligations.StreamsComplete : Prop :=
  ∀ (s : State) (c : Cmd) (sl : Nat) (j : VJob) (v : W64), s.cmd? c.id = some c → c.kind = .stream sl j (some (v, [])) → c.st = .running →
    c.rem ≤ 1 → (s.cmds.all (fun x => x.id == c.id || x.out.isEmpty)) = true →
    (c.held = false → s.patternWaits c = false → ∃ t, exec (.streamingCommandCompletion c.id) s = .next t ∧ t.cmd? c.id = none ∧
      t.mem = c.out.foldl (fun m w => m.writeN w.addr w.bytes) s.mem ∧
      (t.ctx (ctxKey c.core c.h)).live.vstat = (s.ctx (ctxKey c.core c.h)).live.vstat ||| c.flags ∧
      (t.ctx (ctxKey c.core c.h)).live.flights = (s.ctx (ctxKey c.core c.h)).live.flights ++
        (if j.b4 then [{ rem := 1 + (s.ctx (ctxKey c.core c.h)).heldFor, dst := .none, latch := some 4, val := v }] else []) ∧
      (t.ctx (ctxKey c.core c.h)).live.g = (s.ctx (ctxKey c.core c.h)).live.g ∧ SameOthers (ctxKey c.core c.h) s t ∧ SameArrays s t) ∧
    (c.held = true ∨ s.patternWaits c = true → exec (.streamingCommandCompletion c.id) s = .next s)

/-- R211: the address of element `k` of a region of 4-byte elements. -/
def Sys2Proof.Cert.elemAt (base : Nat) (stride : Int) (k : Nat) : Nat := ((base : Int) + k * stride * 4).toNat

/-- R219, R224, R225, R227: what integer commands compute. `I32` elements (format 3): a sum, difference or product of each pair saturates at the
format's limits, each written to its place with its flags, and sets `of` and `nx` when it does; bitwise operations act on the stored bits; a sum over a region
and a dot product are exact, saturated to 64 bits; a maximum or minimum is that of the region, with the lowest index that holds it under `.idx`. Regions have any
count and stride. -/
def Obligations.IntegerCommands : Prop :=
  ∀ (m : Memory) (f : VR) (n d a b : Nat) (sd sa sb : Int) (x y : Nat → BitVec 32),
    (∀ k < n, IsLoaded m (elemAt a sa k) 4 false ((x k).setWidth 64)) → (∀ k < n, IsLoaded m (elemAt b sb k) 4 false ((y k).setWidth 64)) →
    let run (i : Instr) : VRes := ({
      word := i, dd := { base := d, stride := sd, count := n, fmt := 3 }, da := { base := a, stride := sa, count := n, fmt := 3 },
      db := { base := b, stride := sb, count := n, fmt := 3 } } : VJob).run m
    let lim (z : Int) : Int := max (-(2 ^ 31)) (min z (2 ^ 31 - 1))
    let fl (z : Int) : Flags := if lim z = z then 0 else flagOf ||| flagNx
    let gives (i : Instr) (z : Nat → Int) : Prop := (run i).out = (List.range n).map (fun k =>
        { addr := elemAt d sd k, bytes := bytesOf 4 (BitVec.ofInt 32 (lim (z k))).toNat, fl := fl (z k) }) ∧
      (run i).flags = if ∀ k < n, lim (z k) = z k then 0 else flagOf ||| flagNx
    let stores (i : Instr) (z : Nat → BitVec 32) : Prop := (run i).flags = 0 ∧
      (run i).out = (List.range n).map (fun k => { addr := elemAt d sd k, bytes := bytesOf 4 (z k).toNat })
    let sums (i : Instr) (z : Nat → Int) : Prop :=
      let sum := ((List.range n).map z).sum
      let got := max (-(2 ^ 63)) (min sum (2 ^ 63 - 1))
      (run i).out = [] ∧ (run i).b4 = BitVec.ofInt 64 got ∧ (run i).flags = if got = sum then 0 else flagOf ||| flagNx
    let finds (i : Instr) (better : Int → Int → Prop) : Prop := 0 < n → ∃ k < n, (∀ j < n, ¬better (x j).toInt (x k).toInt) ∧
      (∀ j < k, better (x k).toInt (x j).toInt) ∧ (run i).flags = 0 ∧ (run i).out = [] ∧
      (run i).b4 = if f.md.getLsbD 0 then BitVec.ofNat 64 ((x k).toNat + k * 2 ^ 32) else BitVec.ofInt 64 (x k).toInt
    gives (.vAdd f) (fun k => (x k).toInt + (y k).toInt) ∧ gives (.vSub f) (fun k => (x k).toInt - (y k).toInt) ∧
    gives (.vMul f) (fun k => (x k).toInt * (y k).toInt) ∧ gives (.vMax f) (fun k => max (x k).toInt (y k).toInt) ∧
    gives (.vMin f) (fun k => min (x k).toInt (y k).toInt) ∧
    stores (.vAnd f) (fun k => x k &&& y k) ∧ stores (.vOr f) (fun k => x k ||| y k) ∧ stores (.vXor f) (fun k => x k ^^^ y k) ∧
    sums (.vRsum f) (fun k => (x k).toInt) ∧ sums (.vRdot f) (fun k => (x k).toInt * (y k).toInt) ∧
    finds (.vRmax f) (fun u v => v < u) ∧ finds (.vRmin f) (fun u v => u < v)


/-! ### Engine commands (R183 to R185, R264 to R298, R190, R209) -/

/-- The token a word names, if it names one (R184). -/
def Sys2Proof.Cert.tokenOf (f : TQ) : Option Nat := if f.kw then some f.k.toNat else none

/-- What a word that takes no register gives: its status, in `b5` two cycles on, behind those of its cycle with a lower priority (R108, R184); a
secondary writes none. -/
def Sys2Proof.Cert.statusFlight (s : State) (prio : Nat) (v : W64) : Flight :=
  { rem := 2, dst := .none, latch := if s.iss.sec then none else some 5, val := v, prio := prio }

/-- What a T, A or Q word leaves alone: every byte of every store, the registers but for the status in flight, the other contexts, the arrays, the
shared parts. -/
def Sys2Proof.Cert.OnlyStatus (s t : State) (prio : Nat) (v : W64) : Prop :=
  (t.ctx s.key).live = { s.cur.live with flights := s.cur.live.flights ++ [statusFlight s prio v] } ∧
  SameMemory s t ∧ SameOthers s.key s t ∧ SameArrays s t ∧ SameShared s t

/-- An accepted word: one more command, last in its queue, with its token armed (R184, R185, R264); its status is 0. -/
def Sys2Proof.Cert.Accepts (s : State) (i : Instr) (f : TQ) (prio : Nat) (kind : CmdKind → Prop) : Prop :=
  ∃ t c, exec i s = .next t ∧ t.cmds = s.cmds ++ [c] ∧ c.id = s.nextId ∧ c.core = s.iss.core ∧ c.h = s.iss.h ∧ kind c.kind ∧ c.st = .queued ∧
    c.tok = tokenOf f ∧ c.born = s.now ∧ c.held = false ∧ c.out = [] ∧ c.flags = 0 ∧
    (∀ n, (t.ctx s.key).token n = if tokenOf f = some n then { s.cur.token n with cnt := (s.cur.token n).cnt + 1 } else s.cur.token n) ∧
    OnlyStatus s t prio 0

/-- A rejected word: no command; its status; its token signalled with `err` (R184). -/
def Sys2Proof.Cert.Rejects (s : State) (i : Instr) (f : TQ) (prio status : Nat) : Prop :=
  ∃ t, exec i s = .next t ∧ t.cmds = s.cmds ∧
    (∀ n, (t.ctx s.key).token n = if tokenOf f = some n then { s.cur.token n with err := true } else s.cur.token n) ∧
    OnlyStatus s t prio (BitVec.ofNat 64 status)

/-- The word finds its record: the offset is a multiple of 8 below 0x400000, and no token count overflows (R183, R185). -/
abbrev Sys2Proof.Cert.FindsRecord (s : State) (f : TQ) (a : Nat) : Prop :=
  Settled s ∧ Quiet s ∧ s.cmds.all (fun c => c.id < s.nextId) = true ∧ a = (s.value f.sp + extUnsigned 0 0 s.iss.ext).toNat ∧ a % 8 = 0 ∧
    a < 0x400000 ∧ s.tokFull f.kw f.k.toNat = false

/-- The bytes of a record (R183). -/
def Sys2Proof.Cert.recordBytes (s : State) (a n : Nat) : List Byte := s.mem.readN (gsaOf s.iss.core a) n

/-- R183 to R185, R264, R268, R271, R273 to R277: the T words. A product or tile move whose record is in range and whose regions lie in their
bank enters the queue of the log matrix unit; one out of range is rejected with status 1, and a grouped one with a group out of range with status 2. `t.cop` sets
the cell pattern. A tile move or product that is not rejected and breaks the region rule takes a trap (R268, R277). (That a record which starts below 0x400000 and
runs past it is read on into the accumulators is the model's choice: log 98.) -/
def Obligations.MatrixWords : Prop :=
  ∀ (s : State) (f : TQ) (a : Nat), FindsRecord s f a →
    (∀ b, b = recordBytes s a 32 → Executes (.tMm f) f.g s →
      (productOk false b = true → aRowsOk (s.fmtOf s.key (fld b 0 4 / 0x40000)) (fld b 0 4) (fld b 4 4) (fld b 8 1) (fld b 10 1) = true →
        Accepts s (.tMm f) f 0 (fun k => ∃ p, k = .product p ∧ p.abase = fld b 0 4 ∧ p.apitch = fld b 4 4 ∧ p.ncols = fld b 9 1 ∧
          p.kch = fld b 10 1 ∧ p.ob = fld b 11 1 ∧ p.bfmt = fld b 12 1 ∧ p.groups = [(fld b 16 4, 0, fld b 8 1)] ∧ p.z = f.sub.toNat / 4)) ∧
      (productOk false b = true → aRowsOk (s.fmtOf s.key (fld b 0 4 / 0x40000)) (fld b 0 4) (fld b 4 4) (fld b 8 1) (fld b 10 1) = false →
        s.isSuper s.key = false → TrapsWith s (.tMm f) 4 (BitVec.ofNat 64 (fld b 0 4))) ∧
      (productOk false b = false → Rejects s (.tMm f) f 0 1)) ∧
    (∀ b, b = recordBytes s a 32 → Executes (.tMmg f) f.g s → productOk true b = false → Rejects s (.tMmg f) f 0 1) ∧
    (∀ b cnts offs, b = recordBytes s a 32 → Executes (.tMmg f) f.g s → productOk true b = true →
      tableOk (fld b 0x18 4) (fld b 14 1) 4 4 = true → tableOk (fld b 0x1C 4) (fld b 14 1) 4 4 = true →
      cnts = recordBytes s (fld b 0x18 4) (4 * fld b 14 1) → offs = recordBytes s (fld b 0x1C 4) (4 * fld b 14 1) →
      (badGroup b cnts offs = none → aRowsOk (s.fmtOf s.key (fld b 0 4 / 0x40000)) (fld b 0 4) (fld b 4 4) (fld b 8 1) (fld b 10 1) = true →
        Accepts s (.tMmg f) f 0 (fun k => ∃ p, k = .product p ∧ p.groups = productGroups b cnts offs ∧ p.kch = fld b 10 1)) ∧
      (badGroup b cnts offs = none → aRowsOk (s.fmtOf s.key (fld b 0 4 / 0x40000)) (fld b 0 4) (fld b 4 4) (fld b 8 1) (fld b 10 1) = false →
        s.isSuper s.key = false → TrapsWith s (.tMmg f) 4 (BitVec.ofNat 64 (fld b 0 4))) ∧
      (∀ g, badGroup b cnts offs = some g → Rejects s (.tMmg f) f 0 (2 + 256 * g))) ∧
    (∀ b, b = recordBytes s a 16 →
      (∀ x ∈ ([(.ldb, .tLdb f), (.zld, .tZld f), (.zst, .tZst f), (.zadd, .tZadd f)] : List (TileOp × Instr)), Executes x.2 f.g s →
        (moveOk x.1 b = true → moveRowsOk x.1 (s.fmtOf s.key (fld b 0 4 / 0x40000)) b = true →
          Accepts s x.2 f 0 (fun k => ∃ m, k = .move m ∧ m.op = x.1 ∧ m.z = f.sub.toNat / 4 ∧ m.loc = fld b 0 4 ∧ m.pitch = fld b 4 4 ∧
            m.mrows = fld b 8 1 ∧ m.ncols = fld b 9 1)) ∧
        (moveOk x.1 b = false → Rejects s x.2 f 0 1) ∧
        (moveOk x.1 b = true → moveRowsOk x.1 (s.fmtOf s.key (fld b 0 4 / 0x40000)) b = false → s.isSuper s.key = false →
          TrapsWith s x.2 4 (BitVec.ofNat 64 (fld b 0 4))))) ∧
    (Executes (.tZclr f) f.g s → Accepts s (.tZclr f) f 0 (fun k => ∃ m, k = .move m ∧ m.op = .zclr ∧ m.z = f.sub.toNat / 4)) ∧
    (∀ v : W64, recordBytes s a 8 = bytesOf 8 v.toNat → Executes (.tCop f) f.g s →
      -- R276: no 2-bit code is 3
      let ok := ∀ c < 32, ¬(v.getLsbD (2 * c) = true ∧ v.getLsbD (2 * c + 1) = true)
      (ok → ∃ t, exec (.tCop f) s = .next t ∧ (t.ctx s.key).cpat = v ∧ OnlyStatus s t 0 0) ∧
      (¬ok → ∃ t, exec (.tCop f) s = .next t ∧ (t.ctx s.key).cpat = s.cur.cpat ∧ OnlyStatus s t 0 1))

/-- The pair an A word names (R278): its subfield through the context's pair map. -/
def Sys2Proof.Cert.pairNamed (s : State) (f : TQ) : Nat := s.cur.mapPair (subAp f).toNat

/-- An accepted A word of one pair: a command of one entry on the ADC group of the pair (R281, R282). -/
def Sys2Proof.Cert.AcceptsEntry (s : State) (i : Instr) (f : TQ) (p : AEntry → Prop) : Prop :=
  Accepts s i f 1 (fun k => ∃ e, k = .array [e] ∧ e.pair = pairNamed s f ∧ e.grp = pairNamed s f % 8 ∧ e.issued = s.iss.when_ ∧ e.st = .queued ∧
    e.done = 0 ∧ p e)

/-- R278: an A word of a user context that names a pair its partition does not own traps with cause 6 and the pair. R285 to R291, R296, R297:
where it is owned, the record in range and the regions in their banks, the word queues an entry with the window, tokens and scales of
its record; out of range it is rejected with status 1. R298: `a.stat` answers flags, verification count or age, and clears the flags with `.clr`. -/
def Obligations.ArrayWords : Prop :=
  ∀ (s : State) (f : TQ), Settled s →
    ((s.apown s.iss.core).testBit (pairNamed s f) = false → s.isSuper s.key = false →
      ∀ k ∈ ([.aFwd, .aBwd, .aUpd, .aXfer, .aSymw, .aSymr, .aProg, .aCkpt, .aSeed, .aScl, .aStat] : List (TQ → Instr)), Executes (k f) f.g s →
        TrapsWith s (k f) 6 (BitVec.ofNat 64 (pairNamed s f))) ∧
    ((s.apown s.iss.core).testBit (pairNamed s f) = true →
      (∀ a, FindsRecord s f a →
        (∀ b fm, b = recordBytes s a 48 → fm = fmtsOf s.bankFmts →
          (∀ x ∈ ([(false, .aFwd f), (true, .aBwd f)] : List (Bool × Instr)), Executes x.2 f.g s →
            (readOk b = true → readBad x.1 b fm = none → AcceptsEntry s x.2 f (fun e => (e.row0, e.col0, e.nrows, e.ncols) = window b 0x10 ∧
              e.ntok = fld b 0x20 2 ∧ e.lbnd = fld b 0x24 4 ∧ ∃ md acc, e.op = .read x.1 md acc (fld b 0 4) (fld b 4 4) (fld b 8 4) (fld b 12 4)
                (fpFld b 0x18) (fpFld b 0x1C))) ∧
            (readOk b = false → Rejects s x.2 f 1 1)) ∧
          (Executes (.aUpd f) f.g s →
            (∀ ex, ex = f.sub.getLsbD 0 → updOk b = true → updBad ex b fm = none → AcceptsEntry s (.aUpd f) f (fun e =>
              (e.row0, e.col0, e.nrows, e.ncols) = window b 0x10 ∧ e.ntok = fld b 0x20 2 ∧
                e.op = .upd ex (fld b 0 4) (fld b 4 4) (fld b 8 4) (fld b 12 4) (fpFld b 0x18) (fpFld b 0x1C) (fld b 0x23 1) (fld b 0x24 4)
                  (fld b 0x28 4) (fld b 0x2C 4))) ∧
            (updOk b = false → Rejects s (.aUpd f) f 1 1))) ∧
        (∀ b fm, b = recordBytes s a 16 → fm = fmtsOf s.bankFmts →
          (Executes (.aXfer f) f.g s → (xferOk b = true → AcceptsEntry s (.aXfer f) f (fun e => (e.row0, e.col0, e.nrows, e.ncols) = window b 0 ∧
              e.op = .xfer (f.sub.getLsbD 0))) ∧
            (xferOk b = false → Rejects s (.aXfer f) f 1 1)) ∧
          (∀ x ∈ ([(.symw (fld b 0 4), .aSymw f), (.symr (fld b 0 4), .aSymr f)] : List (ArrayOp × Instr)), Executes x.2 f.g s →
            (symOk b = true → symBad b fm = none → AcceptsEntry s x.2 f (fun e => e.op = x.1 ∧ e.col0 = fld b 4 2 ∧ e.ncols = fld b 6 2)) ∧
            (symOk b = false → Rejects s x.2 f 1 1)) ∧
          (Executes (.aScl f) f.g s → (sclOk b = true → AcceptsEntry s (.aScl f) f (fun e => e.op = .scl (fpFld b 0) (fpFld b 4) (fpFld b 8))) ∧
            (sclOk b = false → Rejects s (.aScl f) f 1 1))) ∧
        (∀ b fm, b = recordBytes s a 24 → fm = fmtsOf s.bankFmts → Executes (.aProg f) f.g s →
          (∀ sel, sel = (subMd f).toNat % 4 → progOk b = true → progBad sel b fm = none → AcceptsEntry s (.aProg f) f (fun e =>
            (e.row0, e.col0, e.nrows, e.ncols) = window b 8 ∧ e.op = .prog sel (fld b 0 4) (fld b 4 4))) ∧
          (progOk b = false → Rejects s (.aProg f) f 1 1)) ∧
        (∀ b, b = recordBytes s a 32 → Executes (.aCkpt f) f.g s →
          (ckptOk b = true → AcceptsEntry s (.aCkpt f) f (fun e => (e.row0, e.col0, e.nrows, e.ncols) = window b 0x10 ∧
            e.op = .ckpt (f.sub.getLsbD 0) (fld b 0 8) (fld b 8 4) (fld b 12 1))) ∧
          (ckptOk b = false → Rejects s (.aCkpt f) f 1 1))) ∧
      (Executes (.aSeed f) f.g s → s.cmds.all (fun c => c.id < s.nextId) = true →
        AcceptsEntry s (.aSeed f) f (fun e => e.op = .seed (s.value f.sp))) ∧
      (Executes (.aStat f) f.g s →
        let md := (subMd f).toNat
        let flags := (look {} (s.core s.iss.core).adc (pairNamed s f % 8)).flags
        let v : Nat := if md = 2 then (look {} (s.core s.iss.core).pairs (pairNamed s f)).pvf % 2 ^ 32
          else if md = 3 then min ((s.now - max (look {} (s.core s.iss.core).pairs (pairNamed s f)).born s.mon.ageFrom) / 2 ^ 21) (2 ^ 32 - 1)
          else flags.toNat
        ∃ t, exec (.aStat f) s = .next t ∧ (t.ctx s.key).live = {
            s.cur.live with
            flights := s.cur.live.flights ++ [statusFlight s 1 (BitVec.ofNat 64 v)] } ∧
          (look {} (t.core s.iss.core).adc (pairNamed s f % 8)).flags = (if md = 1 then 0 else flags) ∧
          (∀ c, c ≠ s.iss.core → t.core c = s.core c) ∧ (t.core s.iss.core).pairs = (s.core s.iss.core).pairs ∧ SameMemory s t ∧
          SameOthers s.key s t ∧ SameShared s t))

/-- R293 to R295: a grouped form whose record, tables, groups and regions are in order queues one command with an entry for each group whose count is
above 0, in the order of the groups; a record out of range is rejected with status 1, a group with status 2 and its number. -/
def Obligations.GroupedArrayWords : Prop :=
  ∀ (s : State) (f : TQ) (a : Nat), FindsRecord s f a →
    ∀ x ∈ ([(.fwd, .aGfwd f), (.bwd, .aGbwd f), (.upd, .aGupd f)] : List (Grouped × Instr)), Executes x.2 f.g s →
      ∀ b ng recs, b = recordBytes s a 48 → ng = fld b 0x1C 1 →
        recs = [b, s.bankFmts, recordBytes s (fld b 0x10 4) (4 * ng), recordBytes s (fld b 0x14 4) (4 * ng), recordBytes s (fld b 0x18 4) (24 * ng)] →
        (groupedOk x.1 b = false → Rejects s x.2 f 1 1) ∧
        (groupedOk x.1 b = true → tableOk (fld b 0x10 4) ng 4 4 = true → tableOk (fld b 0x14 4) ng 4 4 = true →
            tableOk (fld b 0x18 4) ng 24 8 = true →
          (∀ g, s.badEntry x.1 ng recs = some g → Rejects s x.2 f 1 (2 + 256 * g)) ∧
          (s.badEntry x.1 ng recs = none → groupedBad x.1 (s.groupedEntries f x.1 recs) = none → s.groupedEntries f x.1 recs ≠ [] →
            Accepts s x.2 f 1 (fun k => ∃ es, k = .array es ∧
              es.map (fun e => (e.toff, e.ntok)) = ((List.range ng).filterMap (fun g =>
                let n := toSigned 32 (fld (recordBytes s (fld b 0x10 4) (4 * ng)) (4 * g) 4)
                if 0 < n then some ((toSigned 32 (fld (recordBytes s (fld b 0x14 4) (4 * ng)) (4 * g) 4)).toNat, n.toNat) else none)))))

/-- R190 to R193, R209, R253, R254: `q.copy` and `q.sortc` start a command when their record is in range, and are rejected with status 1 otherwise; an
empty copy completes at once; R73, R196: one into an operand buffer raises the `fillseq` of the buffer its base names. (That a record out of range is rejected
before any fault of its sides is read by inference: log 16.) -/
def Obligations.CopyAndSortWords : Prop :=
  ∀ (s : State) (f : TQ) (a : Nat), FindsRecord s f a →
    (∀ b, b = recordBytes s a 112 → Executes (.qCopy f) f.g s →
      (copyOk b = false → Rejects s (.qCopy f) f 2 1) ∧
      (copyOk b = true → (∃ l < 6, fld b (0x20 + 12 * l) 4 = 0) →
        ∃ t, exec (.qCopy f) s = .next t ∧ t.cmds = s.cmds ∧ (∀ n, (t.ctx s.key).token n = s.cur.token n) ∧
          (fld b 0x15 1 ≠ 2 → OnlyStatus s t 2 0) ∧
          (fld b 0x15 1 = 2 →
            (t.ctx s.key).live = { s.cur.live with flights := s.cur.live.flights ++ [statusFlight s 2 0] } ∧ SameMemory s t ∧
              SameOthers s.key s t ∧ SameShared s t ∧
              ∀ c n, look 0 (t.core c).obSeq n = look 0 (s.core c).obSeq n +
                (if c = fld b 8 8 / 2 ^ 23 % 512 ∧ n = fld b 8 8 / 2 ^ 16 % 4 then 1 else 0))) ∧
      (copyOk b = true → (∀ l < 6, fld b (0x20 + 12 * l) 4 ≠ 0) → s.copyTrap s.iss.core (copyOf b (s.copyFmts (copyOf b []))) = none →
        ∃ t c r rs, exec (.qCopy f) s = .next t ∧ t.cmds = s.cmds ++ [c] ∧ c.id = s.nextId ∧ c.kind = .copy r rs ∧ c.st = .running ∧ c.done = 0 ∧
          c.tok = tokenOf f ∧ r.sbase = BitVec.ofNat 64 (fld b 0 8) ∧ r.dbase = BitVec.ofNat 64 (fld b 8 8) ∧ r.tlen = fld b 0x18 4 ∧
          r.op = fld b 0x17 1 ∧
          (∀ n, (t.ctx s.key).token n =
            if tokenOf f = some n then { s.cur.token n with cnt := (s.cur.token n).cnt + 1 } else s.cur.token n) ∧ OnlyStatus s t 2 0)) ∧
    (∀ b, b = recordBytes s a 64 → Executes (.qSortc f) f.g s →
      (sortOk b = true → Accepts s (.qSortc f) f 2 (fun k => k = .sort (sortOf b))) ∧ (sortOk b = false → Rejects s (.qSortc f) f 2 1))

/-- What is left when a command is over: it is gone, the element writes it had computed are performed in order, its flags are set, and its token has one
less to wait for, with the status bits it met (R64, R65, R185). The other commands go on as they were; a streaming command may have read an
element before it was written (R216). -/
def Sys2Proof.Cert.Ends (s t : State) (c : Cmd) : Prop :=
  t.cmd? c.id = none ∧
  (∀ x, x ≠ c.id → (t.cmd? x).map (fun d => { d with taken := [] }) = (s.cmd? x).map (fun d => { d with taken := [] })) ∧ t.mem = c.out.foldl (fun m w => m.writeN w.addr w.bytes) s.mem ∧
  (let k := ctxKey c.core c.h
   (t.ctx k).live.vstat = (s.ctx k).live.vstat ||| c.flags ∧ (t.ctx k).live.g = (s.ctx k).live.g ∧ SameOthers k s t ∧
   ∀ n, (t.ctx k).token n = if c.tok = some n then
       { cnt := ((s.ctx k).token n).cnt - 1, part := ((s.ctx k).token n).part, nres := ((s.ctx k).token n).nres || c.nres,
         err := ((s.ctx k).token n).err || c.err }
     else (s.ctx k).token n)

/-- R269, R270, R274: the oldest command of a core's log matrix queue that may start does: a product of `n` rows and `k` chunks takes `n·k` cycles and
12, a tile move a cycle a row and 6, a clear 8. One cycle into its last step a product has fetched its operands. R282, R287 to R291: an
idle ADC group starts its entry, which takes its steps and 6 cycles. When they are over the command completes. R210, R193, R196, R377: so do a sort
and a copy, which raises the `fillseq` of an operand buffer it filled; a copy that met a translation fault ends with `err` and posts an event on
its die, when there is room in its queue, and waits until then. -/
def Obligations.CommandsRun : Prop :=
  (∀ (s : State) (core : Nat) (c : Cmd), coreExists core = true → s.tHead core = some c → s.tMayStart c = true → s.cmd? c.id = some c →
    ∃ t x, exec (.logMatrixCommandStart core) s = .next t ∧ t.cmd? c.id = some x ∧ x.st = .running ∧ x.kind = c.kind ∧ SameMemory s t ∧
      (c.done = 0 → (∀ p off n, c.kind = .product p → p.groups = [(off, 0, n)] → x.rem = n * p.kch + 12) ∧
        (∀ m, c.kind = .move m → x.rem = if m.op = .zclr then 8 else m.mrows + 6)) ∧ t.ctxs = s.ctxs) ∧
  (∀ (s : State) (c : Cmd) (p : Product), s.cmd? c.id = some c → c.kind = .product p → c.st = .running → p.fetched = false → 0 < p.kch →
    (∃ off n, p.groups = [(off, 0, n)] ∧ c.rem ≤ n + 12) →
    ∃ t x, exec (.operandFetchDone c.id) s = .next t ∧ t.cmd? c.id = some x ∧ x = { c with kind := .product { p with fetched := true } } ∧
      SameMemory s t ∧ t.ctxs = s.ctxs) ∧
  (∀ (s : State) (c : Cmd), s.cmd? c.id = some c → Quiet { s with cmds := s.cmds.filter (fun x => x.id != c.id) } → c.st = .running → c.rem ≤ 1 →
    ((∃ p, c.kind = .product p) ∨ (∃ m, c.kind = .move m)) → ∃ t, exec (.logMatrixCommandCompletion c.id) s = .next t ∧ Ends s t c) ∧
  (∀ (s : State) (core g n : Nat) (c : Cmd) (e : AEntry), coreExists core = true → g < 8 → s.aFree core g = true → s.aChoice core g = some (c, n, e) →
    s.cmd? c.id = some c → c.entries[n]? = some e →
    ∃ t x y, exec (.adcGroupCommandStart core g) s = .next t ∧ t.cmd? c.id = some x ∧ x.entries[n]? = some y ∧
      y = { e with st := .running, rem := e.steps.2 * (e.steps.1 - e.done) + 6 } ∧ SameMemory s t ∧ t.ctxs = s.ctxs) ∧
  (∀ (s : State) (c : Cmd) (n : Nat) (e : AEntry), s.cmd? c.id = some c → c.entries[n]? = some e → e.isRead = true → e.st = .queued →
    e.expired = false → 0 < e.lbnd → e.issued + e.lbnd ≤ s.now →
    ∃ t x y, exec (.readLatencyExpiry c.id n) s = .next t ∧ t.cmd? c.id = some x ∧ x.entries[n]? = some y ∧ y = { e with expired := true } ∧
      SameMemory s t ∧ t.ctxs = s.ctxs) ∧
  (∀ (s : State) (c : Cmd) (e : AEntry), s.cmd? c.id = some c → c.kind = .array [e] → e.st = .running → e.rem ≤ 1 → e.steps.1 ≤ e.done →
    c.fault = none →
    Quiet { s with cmds := s.cmds.filter (fun x => x.id != c.id) } → ∃ t, exec (.arrayCommandCompletion c.id 0) s = .next t ∧ Ends s t c) ∧
  (∀ (s : State) (c : Cmd) (r : SortRec), s.cmd? c.id = some c → c.kind = .sort r → c.st = .running → c.rem ≤ 1 → c.done = 1 →
    Quiet { s with cmds := s.cmds.filter (fun x => x.id != c.id) } → ∃ t, exec (.sortCompletion c.id) s = .next t ∧ Ends s t c) ∧
  (∀ (s : State) (c : Cmd) (r : CopyRec) (rs : List Nat), s.cmd? c.id = some c → c.kind = .copy r rs → (s.waitsFor rs) = [] → s.parked c = false →
    ∃ t x, exec (.operandBufferFillStart c.id) s = .next t ∧ t.cmd? c.id = some x ∧ x.kind = .copy r [] ∧ SameMemory s t ∧ t.ctxs = s.ctxs) ∧
  (∀ (s : State) (c : Cmd) (r : CopyRec), s.cmd? c.id = some c → c.kind = .copy r [] → c.held = false → s.parked c = false → c.after = [] →
    c.fault = none → c.rem ≤ 1 → c.done = r.transfers * r.tlen → r.tlen ≠ 0 →
    Quiet { s with cmds := s.cmds.filter (fun x => x.id != c.id) } → ∃ t, exec (.copyCompletion c.id) s = .next t ∧ Ends s t c ∧
      (r.dspc ≠ 2 → SameArrays s t) ∧
      (∀ b, r.obTargets = [b] → look 0 (t.core b.1).obSeq b.2 = look 0 (s.core b.1).obSeq b.2 + 1)) ∧
  (∀ (s : State) (c : Cmd) (r : CopyRec) (rs : List Nat) (va : Nat), s.cmd? c.id = some c → c.kind = .copy r rs → c.fault = some va →
    Quiet { s with cmds := s.cmds.filter (fun x => x.id != c.id) } →
    (64 ≤ (s.die (dieOf c.core)).events → exec (.engineTranslationFault c.id) s = .next s) ∧
    ((s.die (dieOf c.core)).events < 64 →
    ∃ t e, exec (.engineTranslationFault c.id) s = .next t ∧ Ends s t { c with err := true } ∧
      (t.die (dieOf c.core)).evq = (s.die (dieOf c.core)).evq ++ [e] ∧ e.cause = 7 ∧ e.src = 1 ∧ e.kind = 1 ∧ e.tval = BitVec.ofNat 64 va ∧
      e.core = c.core ∧ e.h = c.h))

/-- R277: what a row of a tile move does: a clear leaves every word of its tile 0 and every other byte alone; an addition leaves in a word of the first
tile the sum of both, rounded to FP32, and no byte outside the row changes. -/
def Obligations.TileMoves : Prop :=
  ∀ (s : State) (core z : Nat), coreExists core = true → z < 192 → s.mem.wf = true →
    (∀ m : TileMove, m.op = .zclr → m.z = z →
      (∀ j < 0x4000, (s.moveStep core m 0).1.mem.read (gsaOf core (0x400000 + z * 0x4000 + j)) = 0) ∧
      (∀ a, a < gsaOf core (0x400000 + z * 0x4000) ∨ gsaOf core (0x400000 + z * 0x4000) + 0x4000 ≤ a →
        (s.moveStep core m 0).1.mem.read a = s.mem.read a)) ∧
    (∀ m : TileMove, m.op = .zadd → m.z = z → m.ncols ≤ 64 → ∀ r < 64,
      (∀ j < m.ncols, (s.moveStep core m r).1.mem.num (gsaOf core (0x400000 + z * 0x4000 + 256 * r + 4 * j)) 4 =
        (f32Bits (f32Of ((s.tileWord core z r j).add (s.tileWord core m.loc r j))).1).toNat) ∧
      (∀ a, a < gsaOf core (0x400000 + z * 0x4000 + 256 * r) ∨ gsaOf core (0x400000 + z * 0x4000 + 256 * r) + 4 * m.ncols ≤ a →
        (s.moveStep core m r).1.mem.read a = s.mem.read a))

/-- R279, R291, R296, R297: what array steps do to the pair of an entry, and to no other, in the nominal part: that the levels are exact, with none of the
deviations R299 allows, is the model's choice (log 20, DESIGN CHOICE). A transfer moves each slow level of its column by β times the
fast level's distance from the symmetry point, rounded to nearest even, between −1023 and 1023, and with `.rst` resets the fast level to
the point; scales are set; a seed restarts the lanes of the group. -/
def Obligations.ArraySteps : Prop :=
  ∀ (s : State) (c : Cmd) (n t : Nat) (e : AEntry) (ins : List (List Byte)),
    let p := look {} (s.core c.core).pairs e.pair
    let u := s.aEffect c n e t ins
    let q := look {} (u.core c.core).pairs e.pair
    (∀ rst, e.op = .xfer rst → e.row0 + e.nrows ≤ 512 → e.col0 + e.ncols ≤ 512 → t < e.ncols →
      (∀ i j, i < 512 → j < 512 →
        let inside := e.row0 ≤ i ∧ i < e.row0 + e.nrows ∧ j = e.col0 + t
        let moved := max (-1023) (min (p.slow i j + ((f32Val p.beta).mul (Fp.ofInt (p.fast i j - p.sym j))).toIntRnd .rne) 1023)
        (inside → q.slow i j = moved ∧ q.fast i j = if rst then p.sym j else p.fast i j) ∧
        (¬inside → q.slow i j = p.slow i j ∧ q.fast i j = p.fast i j)) ∧ q.sigma = p.sigma ∧ u.mem = s.mem) ∧
    (∀ a b g, e.op = .scl a b g → q = { p with aF := a, aS := b, beta := g } ∧ u.mem = s.mem) ∧
    (∀ v, e.op = .seed v → (look {} (u.core c.core).adc e.grp).seed = v ∧ (look {} (u.core c.core).adc e.grp).lanes = [] ∧
      (look {} (u.core c.core).adc e.grp).flags = (look {} (s.core c.core).adc e.grp).flags ∧ u.mem = s.mem) ∧
    ((∃ rst, e.op = .xfer rst) ∨ (∃ a b g, e.op = .scl a b g) ∨ (∃ v, e.op = .seed v) →
      ∀ d k, (d ≠ c.core ∨ k ≠ e.pair) → look {} (u.core d).pairs k = look {} (s.core d).pairs k)

/-! ### Headers, tokens, drains, pipes, page requests (R87, R88, R103, R109, R153, R154, R185 to R189, R197, R198, R208, R377) -/

/-- R103, R153: a header advances by one entry each head of its `pop`, and with `y` in a bundle that is not speculative notes the yield and, in
a primary, hands the core on (R20). R109, R154: an EXT word gives its payload to the word after it. No byte of any store changes. -/
def Obligations.HeadersAndExtensions : Prop :=
  (∀ (s : State) (f : HDR), ∃ t, exec (.hdr f) s = .next t ∧ SameMemory s t ∧ SameOthers s.key s t ∧ SameArrays s t ∧ SameShared s t ∧
    (∀ n < 8, (t.ctx s.key).live.queue n = if f.pop.getLsbD n then (s.cur.live.queue n).tail else s.cur.live.queue n) ∧
    (t.ctx s.key).live.g = s.cur.live.g ∧ (t.ctx s.key).live.p = s.cur.live.p ∧ (t.ctx s.key).live.pc = s.cur.live.pc ∧
    (f.y = true → Settled s → (t.ctx s.key).lastY = s.cur.ctime ∧ ((s.core s.iss.core).primary = s.iss.h → (t.core s.iss.core).choosing = true)) ∧
    (f.y = false → (t.ctx s.key).lastY = s.cur.lastY ∧ t.cores = s.cores)) ∧
  (∀ (s : State) (f : EXT), exec (.ext f) s = .next {
      s with
      iss := { s.iss with ext := s.iss.ext ++ [f.pay] } })

/-- R186: `q.tokst` answers a token: count, `part`, `nres`, `err`, signalled. R188: `q.kclr` clears the sticky bits of the tokens of its mask. R187:
`q.waitk` starts to wait for the tokens of its mask. R208: `q.offer` sets the offer of the issuing unit, or withdraws it, and answers how many
units are queued on its core. (That an offer is the unit's own, beside those of other units of the core, is read by inference: log 49.) -/
def Obligations.TokenWords : Prop :=
  ∀ (s : State) (f : TQ), Settled s →
    (Executes (.qTokst f) f.g s → (s.cur.token f.k.toNat).cnt < 2 ^ 16 → let x := s.cur.token f.k.toNat
      ∃ t, exec (.qTokst f) s = .next t ∧ t.cmds = s.cmds ∧ (t.ctx s.key).tok = s.cur.tok ∧
        OnlyStatus s t 2 ((BitVec.ofNat 16 x.cnt ++ (0 : BitVec 12) ++ BitVec.ofBool x.part ++ BitVec.ofBool x.nres ++ BitVec.ofBool x.err ++
          BitVec.ofBool (x.cnt == 0)).setWidth 64)) ∧
    (Executes (.qKclr f) f.g s → ∃ t, exec (.qKclr f) s = .next t ∧ t.cmds = s.cmds ∧ OnlyStatus s t 2 0 ∧
      ∀ n < 8, (t.ctx s.key).token n = if f.sub.getLsbD n then { cnt := (s.cur.token n).cnt } else s.cur.token n) ∧
    (Executes (.qWaitk f) f.g s → ∃ t, exec (.qWaitk f) s = .next t ∧ t.agenda.head? = some (.tokenWaitCompletion s.key) ∧
      (t.ctx s.key).waitk = some { mask := f.sub.toNat % 256, any := f.sub.getLsbD 8, chk := f.sub.getLsbD 9, sec := s.iss.sec } ∧
      (t.ctx s.key).live = s.cur.live ∧ (t.ctx s.key).tok = s.cur.tok ∧ SameMemory s t ∧ SameOthers s.key s t ∧ SameArrays s t ∧ SameShared s t) ∧
    (Executes (.qOffer f) f.g s → ∃ t, exec (.qOffer f) s = .next t ∧
      (f.sub ≠ 0 ∨ sortedKeys (s.core s.iss.core).offers = true → look 0 (t.core s.iss.core).offers s.key = f.sub.toNat) ∧
      (∀ k, k ≠ s.key → look 0 (t.core s.iss.core).offers k = look 0 (s.core s.iss.core).offers k) ∧
      OnlyStatus s t 2 (BitVec.ofNat 64 ((s.units.filter (fun u => u.2.owner == s.iss.core && u.2.st == .queued)).length)))

/-- R187: a wait for all the tokens of its mask lasts while one of them is not signalled; over, it delivers the mask in `b5` in the next cycle, and
with `.chk` and a sticky `err` among them the context takes the token-error trap, with those tokens, before its next bundle. A wait for any
is over with the first, and delivers those signalled. (Released words that wait for it go on then, R118: here there are none. That a wait also ends while its
context is frozen is read by inference: log 81.) -/
def Obligations.TokenWaits : Prop :=
  ∀ (s : State) (k : Nat) (w : WaitK), (s.ctx k).waitk = some w → w.mask < 256 → (s.ctx k).rest = [] →
    let sig (n : Nat) : Bool := ((s.ctx k).token n).cnt == 0
    let err (n : Nat) : Bool := ((s.ctx k).token n).err
    let ended : Prop := if w.any = true ∧ w.mask ≠ 0 then ∃ n < 8, w.mask.testBit n = true ∧ sig n = true
      else ∀ n < 8, w.mask.testBit n = true → sig n = true
    (¬ended → exec (.tokenWaitCompletion k) s = .next s) ∧
    (ended → ∃ t v, exec (.tokenWaitCompletion k) s = .next t ∧ (t.ctx k).waitk = none ∧
      (∀ n < 64, (v : W64).getLsbD n = (decide (n < 8) && w.mask.testBit n && sig n)) ∧
      (t.ctx k).live = {
        (s.ctx k).live with
        flights := (s.ctx k).live.flights ++ [{ rem := 1, dst := .none, latch := if w.sec then none else some 5, val := v, prio := 2 }] } ∧
      (t.ctx k).tok = (s.ctx k).tok ∧ SameMemory s t ∧ SameOthers k s t ∧
      ((w.chk = true ∧ ∃ n < 8, w.mask.testBit n = true ∧ sig n = true ∧ err n = true) →
        ∃ x, (t.ctx k).later = some x ∧ x.cause = 12 ∧ ∀ n < 64, x.tval.getLsbD n = (decide (n < 8) && w.mask.testBit n && sig n && err n)) ∧
      (¬(w.chk = true ∧ ∃ n < 8, w.mask.testBit n = true ∧ sig n = true ∧ err n = true) → (t.ctx k).later = (s.ctx k).later))

/-- R87, R88, R189: `q.drain` and `q.fence` hold the context until every earlier write of it is done with, in the scope named: at core scope (0) at once, at
cluster scope (1) beyond the request table, at die scope (2) beyond the cluster's egress, at package scope and above when its last acknowledgement has come; and a
fence until every earlier load and atomic has returned. Then they end. (Released words that wait for them go on then, R118: here there are none. At which stage a
write counts is read by inference: log 60; that a local load still on its way to its register does not hold a fence is the model's choice: log 98.) -/
def Obligations.Drains : Prop :=
  (∀ (s : State) (f : TQ), Settled s →
    (∀ x ∈ ([(false, .qDrain f, .drainCompletion s.key), (true, .qFence f, .fenceCompletion s.key)] : List (Bool × Instr × Instr)),
      Executes x.2.1 f.g s → ∃ t, exec x.2.1 s = .next t ∧ (t.ctx s.key).drain = some { scope := f.sub.toNat % 8, fence := x.1, at_ := s.iss.when_ } ∧
        t.agenda.head? = some x.2.2 ∧ OnlyStatus s t 2 0)) ∧
  (∀ (s : State) (k : Nat) (d : DrainW), (s.ctx k).drain = some d → (s.ctx k).eret = none → (s.ctx k).rest = [] →
    (∀ m ∈ s.msgs, (∀ x ∈ (s.ctx k).seen, x.1 ≠ m.id) ∧ (m.dest = k → m.at_ < d.at_ →
      (d.fence = true → m.returns = false) ∧ (m.kind ≠ .load → m.core = keyCore k ∧ ((m.stage = .table ∧ d.scope = 0) ∨ (m.stage = .cluster ∧ d.scope ≤ 1) ∨
        ((m.stage = .ring ∨ m.stage = .far) ∧ d.scope ≤ 2))))) →
    let e := if d.fence then Instr.fenceCompletion k else .drainCompletion k
    ∃ t, exec e s = .next t ∧ (t.ctx k).drain = none ∧ (t.ctx k).live = (s.ctx k).live ∧ SameMemory s t ∧ SameOthers k s t) ∧
  (∀ (s : State) (k : Nat) (d : DrainW) (m : Msg), (s.ctx k).drain = some d → m ∈ s.msgs → m.dest = k → m.at_ < d.at_ →
    (m.kind = .store ∧ m.core = keyCore k ∧ m.paid = false ∧ ((m.stage = .table ∧ 1 ≤ d.scope) ∨ (m.stage = .cluster ∧ 2 ≤ d.scope) ∨
        ((m.stage = .ring ∨ m.stage = .far ∨ m.stage = .done) ∧ 3 ≤ d.scope))) ∨
      (d.fence = true ∧ (m.kind = .load ∨ ∃ af cmp, m.kind = .amo af cmp)) →
    exec (if d.fence then .fenceCompletion k else .drainCompletion k) s = .next s)

/-- R25, R198: an entry put into a pipe with room waits behind the others of it, in order, and follows the producer's earlier writes; a pipe whose
consumer has completed drops it with status 1; a full pipe (64 entries) holds the Q slot until an entry is popped; the status of
such a put comes two cycles after its entry was placed (read by inference: log 62). A pipe that does not exist makes the word illegal. -/
def Obligations.Pipes : Prop :=
  (∀ (s : State) (f : TQ), Settled s → Executes (.qPut f) f.g s →
    (s.outPipe s.key f.sub.toNat = none → s.isSuper s.key = false → TrapsWith s (.qPut f) 1 (s.iss.word.setWidth 64)) ∧
    (∀ p, s.outPipe s.key f.sub.toNat = some p → p.consDone = true → ∃ t, exec (.qPut f) s = .next t ∧ OnlyStatus s t 2 1) ∧
    (∀ p, s.outPipe s.key f.sub.toNat = some p → p.consDone = false → s.pipeLoad p < 64 →
      ∃ t q ids, exec (.qPut f) s = .next t ∧ t.outPipe s.key f.sub.toNat = some q ∧ q = { p with wait := p.wait ++ [(s.value f.sp, ids)] } ∧
        (∀ m ∈ s.msgs, m.dest = s.key → m.at_ < s.iss.when_ → m.kind = .store → m.stage ≠ .done → m.id ∈ ids) ∧
        (t.ctx s.key).live = { s.cur.live with flights := s.cur.live.flights ++ [statusFlight s 2 0] } ∧ SameMemory s t ∧ SameOthers s.key s t) ∧
    (∀ p, s.outPipe s.key f.sub.toNat = some p → p.consDone = false → 64 ≤ s.pipeLoad p →
      ∃ t, exec (.qPut f) s = .next t ∧ (t.ctx s.key).put = some { pipe := f.sub.toNat, val := s.value f.sp, sec := s.iss.sec, at_ := s.iss.when_ } ∧ (t.ctx s.key).live = s.cur.live ∧
        t.pipes = s.pipes ∧ SameMemory s t ∧ SameOthers s.key s t)) ∧
  (∀ (s : State) (k : Nat) (w : PutW) (p : Pipe), (s.ctx k).put = some w → (s.ctx k).rest = [] → s.outPipe k w.pipe = some p → p.consDone = false →
    p.cons ≠ k → s.pipeLoad p < 64 →
    ∃ t q ids, exec (.pipeSpaceFreed k) s = .next t ∧ (t.ctx k).put = none ∧ t.outPipe k w.pipe = some q ∧ q = { p with wait := p.wait ++ [(w.val, ids)] } ∧
      (t.ctx k).live.flights = (s.ctx k).live.flights ++
        [{ rem := 2, dst := .none, latch := if w.sec then none else some 5, val := 0, prio := 2 }] ∧ SameMemory s t ∧
      SameOthers k s t) ∧
  (∀ (s : State) (p : Pipe), (s.ctx p.cons).snaps = [] → p.cons < 2 ^ 20 → s.pipeLoad p = p.wait.length + ((s.ctx p.cons).live.queue p.head).length)

/-- R197, R76, R377: a request for a page that is resident answers 1 and its token follows; for one that is not, its event, with the address, the
token and the context, goes to the die's supervisor; for one without a mapping the token is signalled with `err` and the fault event posted. An
address of more than 57 bits is a translation fault. The oldest waiting event enters the die's event queue when it holds fewer than 64, and a request
that held its Q slot for it goes on. (That the event of a request without a mapping carries source 1 is read by inference: log 63.) -/
def Obligations.PageRequests : Prop :=
  (∀ (s : State) (f : TQ), Settled s → Executes (.qPgreq f) f.g s → s.tokFull f.kw f.k.toNat = false → s.cmds.all (fun c => c.id < s.nextId) = true →
    (2 ^ 57 ≤ (s.value f.sp).toNat → s.isSuper s.key = false → TrapsWith s (.qPgreq f) 7 (s.value f.sp)) ∧
    (∀ l, (s.value f.sp).toNat < 2 ^ 57 → s.walk ((s.partOf s.iss.core).getD 16) (s.value f.sp).toNat = some l → l.res = true →
      ∃ t c, exec (.qPgreq f) s = .next t ∧ t.cmds = s.cmds ++ [c] ∧ c.kind = .pgreq (s.value f.sp) ∧ c.tok = some f.k.toNat ∧ c.rem = 2 ∧ c.done = 1 ∧
        (t.ctx s.key).token f.k.toNat = { s.cur.token f.k.toNat with cnt := (s.cur.token f.k.toNat).cnt + 1 } ∧ OnlyStatus s t 2 1) ∧
    (∀ l, (s.value f.sp).toNat < 2 ^ 57 → s.walk ((s.partOf s.iss.core).getD 16) (s.value f.sp).toNat = some l → l.res = false →
      (s.die (dieOf s.iss.core)).events + (s.die (dieOf s.iss.core)).evwait.length < 64 →
      ∃ t c e, exec (.qPgreq f) s = .next t ∧ t.cmds = s.cmds ++ [c] ∧ c.kind = .pgreq (s.value f.sp) ∧ c.done = 0 ∧
        (t.die (dieOf s.iss.core)).evwait = (s.die (dieOf s.iss.core)).evwait ++ [e] ∧ e.tval = s.value f.sp ∧ e.tok = f.k.toNat ∧
        e.core = s.iss.core ∧ e.h = s.iss.h ∧ e.kind = 4 ∧ e.src = 2 ∧ e.cmd = some c.id ∧
        (t.ctx s.key).live = { s.cur.live with flights := s.cur.live.flights ++ [statusFlight s 2 0] } ∧ SameMemory s t ∧ SameOthers s.key s t) ∧
    ((s.value f.sp).toNat < 2 ^ 57 → s.walk ((s.partOf s.iss.core).getD 16) (s.value f.sp).toNat = none →
      ∃ t e, exec (.qPgreq f) s = .next t ∧ t.cmds = s.cmds ∧ (t.ctx s.key).token f.k.toNat = { s.cur.token f.k.toNat with err := true } ∧
        (t.die (dieOf s.iss.core)).evwait = (s.die (dieOf s.iss.core)).evwait ++ [e] ∧ e.cause = 7 ∧ e.src = 1 ∧ e.tval = s.value f.sp ∧
        SameMemory s t ∧ SameOthers s.key s t)) ∧
  (∀ (s : State) (d : Nat) (e : PendEv) (es : List PendEv), d < 4 → (s.die d).evwait = e :: es → (s.die d).events < 64 → (∀ k, (s.ctx k).rest = []) →
    ∃ t, exec (.engineEventPost d) s = .next t ∧ (t.die d).evq = (s.die d).evq ++ [e] ∧ (t.die d).evwait = es ∧ SameMemory s t ∧ SameRegisters s t ∧
      (∀ id va, e.cmd = some id → s.cmd? id = none → (s.ctx (ctxKey e.core e.h)).pgq = some (va, id) → (t.ctx (ctxKey e.core e.h)).pgq = none))

/-! ### Work (R16 to R43, R199 to R208, R353 to R371) -/

/-- The units of a launch record (R200). -/
def Sys2Proof.Cert.unitsOf (s : State) (b : List Byte) (img : Nat) : Nat :=
  let g := (s.image img).gridOf (launchOf b) (fld b 0x20 2 / 2 % 2 == 1)
  g.1 * g.2.1 * g.2.2

/-- The eligible cores of a launch record (R354). -/
def Sys2Proof.Cert.coresFor (s : State) (b : List Byte) (die part img : Nat) : List Nat :=
  s.eligible part (if (launchOf b).dies = 0 then 2 ^ die else (launchOf b).dies) ((s.image img).tasksOf (launchOf b))

/-- The line a launch record names, if it names one, is the partition's and bound to no live launch (R202). -/
def Sys2Proof.Cert.lineOk (s : State) (b : List Byte) (part : Nat) : Bool :=
  (launchOf b).sync.all (fun l => (s.part part).lines.getLsbD l && !s.lineBound l)

/-- A launch record that can be created on the die of the context in hand, for its image and partition, whatever else is created with it: its fields in
range, its task there, its unit records on a core of the partition, its line free, an eligible core, one for each unit with a line (R18, R200 to R202, R354). -/
abbrev Sys2Proof.Cert.Creatable (s : State) (b : List Byte) (die part img : Nat) : Prop :=
  launchOk b = true ∧ ((s.image img).tasksOf (launchOf b)).isEmpty = false ∧ s.unitRecordsOk part (launchOf b).urec (unitsOf s b img) = true ∧
  lineOk s b part = true ∧ coresFor s b die part img ≠ [] ∧ ((launchOf b).sync = none ∨ unitsOf s b img ≤ (coresFor s b die part img).length)

/-- Why a launch record is refused: the status and the condition, for a die whose scheduler has room or not (R202). -/
def Sys2Proof.Cert.RefusedWith (s : State) (b : List Byte) (die part img code : Nat) : Prop :=
  let ts := (s.image img).tasksOf (launchOf b)
  let found := launchOk b = true ∧ ts.isEmpty = false
  let placed := found ∧ s.unitRecordsOk part (launchOf b).urec (unitsOf s b img) = true
  (code = 1 ∧ launchOk b = false) ∨ (code = 2 ∧ launchOk b = true ∧ ts.isEmpty = true) ∨
    (code = 1 ∧ found ∧ s.unitRecordsOk part (launchOf b).urec (unitsOf s b img) = false) ∨
    (code = 3 ∧ placed ∧ lineOk s b part = false) ∨
    (coresFor s b die part img = [] ∧ placed ∧ lineOk s b part = true ∧ code = if ts.any (fun t => !t.2.arrays.isEmpty) then 4 else 5) ∨
    (code = 3 ∧ placed ∧ lineOk s b part = true ∧ coresFor s b die part img ≠ [] ∧ (launchOf b).sync ≠ none ∧
      (coresFor s b die part img).length < unitsOf s b img) ∨
    (code = 5 ∧ Creatable s b die part img ∧ 1024 ≤ s.recordsUsed die)

/-- R199 to R203, R354: a launch that can be created gets a level of its units, a handle of kind 1 on the issuing die as its status, and its token armed
and bound to the level; its units go round the eligible cores from the partition's pointer, queued on the die of the launch (to be reserved, with a line, which is
bound), on their way to another; no byte outside its unit records changes. A record out of range (1), an unknown task (2), a line that cannot be bound (3), no
eligible core (4, 5), a die without room (5) are refused with that code, and nothing is created. A graph of creatable launches on distinct lines is created whole while
handles are to be had: each of its launches is there, below it, and depends on the earlier ones whose ranges meet its own (R360). (The order of the refusals is read by inference: log 64.) -/
def Obligations.Launches : Prop :=
  ∀ (s : State) (f : TQ) (a die part img : Nat), FindsRecord s f a → die = dieOf s.iss.core → die < 4 → part = (s.partOf s.iss.core).getD 16 → img = s.cur.img →
    (∀ b, b = recordBytes s a 48 → Executes (.qLaunch f) f.g s →
      (∀ n e ptr, Creatable s b die part img → s.recordsUsed die < 1024 → n = unitsOf s b img → 0 < n → e = coresFor s b die part img →
        ptr = look 0 (s.part part).ptr die →
        ∃ t h l, exec (.qLaunch f) s = .next t ∧ handleKind h = 1 ∧ handleDie h = die ∧ t.level? h = some l ∧ l.total = n ∧ l.part = part ∧
          l.img = img ∧ l.parent = (s.creator s.key).1 ∧ l.ndone = 0 ∧ l.toks = (if f.kw then [(s.key, f.k.toNat)] else []) ∧
          (∀ i < n, ∃ u, t.unit? u.uid = some u ∧ u.launch = h ∧ u.idx = i ∧ u.owner = e.getD ((ptr + i) % e.length) 0 ∧
            u.st = (if dieOf u.owner ≠ die then .moving else if (launchOf b).sync.isSome then .reserving else .queued)) ∧
          (∀ x, (launchOf b).sync = some x → (t.line x).launch = some h) ∧
          (∀ k, (t.ctx s.key).token k = if tokenOf f = some k then { s.cur.token k with cnt := (s.cur.token k).cnt + 1 } else s.cur.token k) ∧
          (t.ctx s.key).live = { s.cur.live with flights := s.cur.live.flights ++ [statusFlight s 2 (BitVec.ofNat 64 h)] } ∧ SameOthers s.key s t ∧
          (∀ c, c < (launchOf b).urec ∨ (launchOf b).urec + 32 * n ≤ c → t.mem.read c = s.mem.read c)) ∧
      (∀ code, RefusedWith s b die part img code →
        ∃ t, exec (.qLaunch f) s = .next t ∧ t.levels = s.levels ∧ t.units = s.units ∧ (t.ctx s.key).tok = s.cur.tok ∧
          OnlyStatus s t 2 (BitVec.ofNat 64 (code * 2 ^ 32)))) ∧
    (∀ b bs, b = recordBytes s a 8 → bs = s.graphRecords a b → Executes (.qGlaunch f) f.g s →
      (bs = [] → ∃ t, exec (.qGlaunch f) s = .next t ∧ OnlyStatus s t 2 (BitVec.ofNat 64 (2 ^ 32))) ∧
      (bs ≠ [] → (∀ r ∈ bs, Creatable s r die part img) → (bs.filterMap (fun r => (launchOf r).sync)).Nodup → s.recordsUsed die + bs.length < 1024 →
        s.rangesUsed die + ((bs.map (fun r => (s.rangesOf img (launchOf r)).length)).foldl (· + ·) 0) ≤ 256 →
        s.handles.length + bs.length + 2 ≤ 2 ^ 26 →
        ∃ t h l, ∃ hs : List Nat, exec (.qGlaunch f) s = .next t ∧ handleKind h = 2 ∧ handleDie h = die ∧ t.level? h = some l ∧ l.total = bs.length ∧
          l.part = part ∧ hs.length = bs.length ∧ hs.Nodup ∧
          (∀ i r c, bs[i]? = some r → hs[i]? = some c → ∃ m, t.level? c = some m ∧ handleKind c = 1 ∧ handleDie c = die ∧ m.parent = h ∧ m.part = part ∧
            m.total = unitsOf s r img ∧ (∀ x ∈ m.deps, x ∈ hs.take i) ∧
            ∀ j r' c', j < i → bs[j]? = some r' → hs[j]? = some c' →
              (c' ∈ m.deps ↔ ∃ x ∈ s.rangesOf img (launchOf r'), ∃ y ∈ s.rangesOf img (launchOf r), rangesMeet x y = true)) ∧
          (t.ctx s.key).live.flights = s.cur.live.flights ++ [statusFlight s 2 (BitVec.ofNat 64 h)] ∧ (t.ctx s.key).live.g = s.cur.live.g))

/-- R204: `q.cancel` of a level its partition holds marks it cancelled, with the launches of a graph that are not complete, and sends the cancel of each launch to
every die, and a launch's units that are still queued at the scheduler of the record are looked for at once (log 90); a finished level is left (1), one of no level or of
another partition unknown (2), a phase or job refused to users (3). R205: `q.exit` ends a unit's run, which then waits for what R42 names; a
handler's context is dormant again at once, its coin kept. R207: `q.hset` sets the lowest reserved contexts aside for handlers, once. R206: `q.srec`
reads a completion record, or the claim record of its core. (That a handle of another partition is as one of no level, and the order of the refusals, are read
by inference: log 64.) -/
def Obligations.LevelWords : Prop :=
  ∀ (s : State) (f : TQ), Settled s →
    (∀ h, h = (s.value f.sp).toNat % 2 ^ 32 → Executes (.qCancel f) f.g s →
      (s.nameable s.key h = none → ∃ t, exec (.qCancel f) s = .next t ∧ t.levels = s.levels ∧ OnlyStatus s t 2 2) ∧
      (∀ l, s.nameable s.key h = some l → 3 ≤ handleKind h → s.isSuper s.key = false →
        ∃ t, exec (.qCancel f) s = .next t ∧ t.levels = s.levels ∧ OnlyStatus s t 2 3) ∧
      (∀ l, s.nameable s.key h = some l → handleKind h ≤ 2 → l.total = l.ncncl + l.ndone →
        ∃ t, exec (.qCancel f) s = .next t ∧ t.levels = s.levels ∧ OnlyStatus s t 2 1) ∧
      (∀ l, s.nameable s.key h = some l → handleKind h = 1 → l.ncncl + l.ndone < l.total →
        ∃ t m, exec (.qCancel f) s = .next t ∧ t.level? h = some m ∧ m.cncl = true ∧ m.ncncl = l.ncncl ∧ (∀ d < 4, (d, h) ∈ t.cancels) ∧
          (t.ctx s.key).live = { s.cur.live with flights := s.cur.live.flights ++ [statusFlight s 2 0] } ∧ SameOthers s.key s t ∧
          t.agenda.contains (.cancelArrival (handleDie h) h) = true ∧
          ((s.below (s.levels.length + 1) [h]).all (fun x => handleKind x != 4) = true → SameMemory s t)) ∧
      (∀ l, s.nameable s.key h = some l → handleKind h = 2 → l.ncncl + l.ndone < l.total →
        ∃ t m, exec (.qCancel f) s = .next t ∧ t.level? h = some m ∧ m.cncl = true ∧ m.ncncl = l.ncncl ∧
          (∀ x y, s.level? x = some y → y.parent = h → handleKind x = 1 → y.ncncl + y.ndone < y.total →
            (∃ z, t.level? x = some z ∧ z.cncl = true) ∧ (∀ d < 4, (d, x) ∈ t.cancels) ∧ t.agenda.contains (.cancelArrival (handleDie x) x) = true) ∧
          (t.ctx s.key).live = { s.cur.live with flights := s.cur.live.flights ++ [statusFlight s 2 0] } ∧ SameOthers s.key s t ∧
          ((s.below (s.levels.length + 1) [h]).all (fun x => handleKind x != 4) = true → SameMemory s t))) ∧
    (Executes (.qExit f) f.g s →
      (∀ w, s.cur.role = .unit → s.cur.work = some w → ∃ t, exec (.qExit f) s = .next t ∧ (t.ctx s.key).exiting = true ∧
        (t.ctx s.key).role = .unit ∧ (t.ctx s.key).live.flights = [] ∧ t.agenda.head? = some (.unitCompletion w.uid) ∧ SameMemory s t ∧
        SameOthers s.key s t ∧ t.cmds = s.cmds ∧ t.msgs = s.msgs) ∧
      (s.cur.role = .handler → s.cur.pmtWait = [] → ∃ t, exec (.qExit f) s = .next t ∧ (t.ctx s.key).role = .dormant ∧
        (t.ctx s.key).live.coin = s.cur.live.coin ∧ (t.ctx s.key).live.g = [] ∧ (t.ctx s.key).asg = s.cur.asg ∧ SameMemory s t ∧ SameOthers s.key s t)) ∧
    (∀ w, s.cur.work = some w → Executes (.qHset f) f.g s →
      (w.resv.length + w.hset.getD 0 < f.sub.toNat → ∃ t, exec (.qHset f) s = .next t ∧ OnlyStatus s t 2 (BitVec.ofNat 64 (2 ^ 32))) ∧
      (f.sub.toNat ≤ w.resv.length + w.hset.getD 0 → w.hset.isSome = true → ∃ t, exec (.qHset f) s = .next t ∧ OnlyStatus s t 2 (BitVec.ofNat 64 (2 ^ 33))) ∧
      (f.sub.toNat ≤ w.resv.length → w.hset = none → w.resv.Nodup → (∀ x ∈ w.resv, x < 8 ∧ x ≠ s.iss.h) → s.iss.h < 8 →
        ∃ t v w', exec (.qHset f) s = .next t ∧ (∀ n < 64, (v : W64).getLsbD n = (w.resv.take f.sub.toNat).contains n) ∧
          (∀ i < f.sub.toNat, ∃ x, w.resv[i]? = some x ∧ (let c := t.ctx (ctxKey s.iss.core x)
            c.role = .dormant ∧ c.asg = some s.key ∧ c.live.coin = coinAfter (i + 1) s.cur.live.coin)) ∧
          (t.ctx s.key).work = some w' ∧ w'.hset = some f.sub.toNat ∧ w'.resv = w.resv.drop f.sub.toNat ∧
          (t.ctx s.key).live = { s.cur.live with flights := s.cur.live.flights ++ [statusFlight s 2 v] } ∧ SameMemory s t)) ∧
    (Executes (.qSrec f) f.g s →
      (f.sub = 2 → (s.core s.iss.core).claim < 16 → ∃ t, exec (.qSrec f) s = .next t ∧
        OnlyStatus s t 2 (BitVec.ofNat 64 ((s.core s.iss.core).claims % 2 ^ 32 * 2 ^ 32 + (s.core s.iss.core).claim))) ∧
      (∀ l, f.sub.toNat < 2 → s.nameable s.key ((s.value f.sp).toNat % 2 ^ 32) = some l → ∃ t, exec (.qSrec f) s = .next t ∧ OnlyStatus s t 2
        (if f.sub = 1 then BitVec.ofNat 64 (l.ncncl * 2 ^ 32 + l.ndone)
         else BitVec.ofNat 64 ((l.total - l.ncncl - l.ndone) * 2 ^ 32 + (if l.pres then 8 else 0) + (if l.err then 4 else 0) + (if l.cncl then 2 else 0) +
           (if l.total - l.ncncl - l.ndone = 0 then 1 else 0)))) ∧
      (f.sub.toNat < 2 → s.nameable s.key ((s.value f.sp).toNat % 2 ^ 32) = none → ∃ t, exec (.qSrec f) s = .next t ∧
        OnlyStatus s t 2 (BitVec.allOnes 64)))

/-- What a dispatched routine finds: it runs at its entry, its arguments in `g1` and `g2`, its coin from the seed and its index, its first bundle four
cycles on; its other contexts are reserved (R19, R165, R359). -/
def Sys2Proof.Cert.Started (t : State) (l : Level) (u : Machine.Unit) (task : Task) (k : Nat) (rest : List Nat) : Prop :=
  let c := t.ctx k
  c.role = .unit ∧ c.live.pc = BitVec.ofNat 32 task.entry ∧ c.live.readG 1 = BitVec.ofNat 64 l.lrec.args ∧
  c.live.readG 2 = BitVec.ofNat 64 (l.lrec.urec + 32 * u.idx) ∧ c.live.coin = l.lrec.cseed ^^^ BitVec.ofNat 64 ((u.idx + 1) * 0xA3B195C47E2D6F19) ∧
  c.live.p = 1 ∧ c.live.flights = [] ∧ c.wake = 4 ∧ (∃ w, c.work = some w ∧ w.idx = u.idx ∧ w.launch = u.launch) ∧
  ∀ x ∈ rest, (t.ctx x).role = .reserved

/-- R358, R359, R367 to R369, R371, R20, R354, R356, R370: a unit that a core picks as the cycle begins is dispatched in its contexts; a core that claims
another's unit becomes its owner, and notes it; the next ready context becomes primary with zeroed latches; a unit on its way is queued when it arrives; an image's data and zeros reach a core, here with the stacks of its die awake
(R394; which of them holds the data is free: log 100); a cancel removes the units still queued. -/
def Obligations.Dispatch : Prop :=
  (∀ (s : State) (core : Nat) (u : Machine.Unit) (p q k r : Nat) (task : Task) (rest : List Nat) (l : Level), coreExists core = true →
    s.atStart.pickUnit core = some (u, p, q) → s.placement u core = some [(r, task, k :: rest)] → (k :: rest).Nodup → s.unit? u.uid = some u →
    s.level? u.launch = some l → l.lrec.gang = false →
    ∃ t v, exec (.dispatchDecision core) s = .next t ∧ Started t l u task k rest ∧ t.unit? u.uid = some v ∧ v.st = .running ∧ v.owner = core ∧
      v.open_ = [k] ∧ (∀ j, j ∉ k :: rest → t.ctx j = s.ctx j) ∧ look 0 (t.die (dieOf core)).rr (8 * core + p) = (q + 1) % 32) ∧
  (∀ (s : State) (core : Nat) (u : Machine.Unit) (k r : Nat) (task : Task) (rest : List Nat) (l : Level), coreExists core = true →
    s.atStart.freeCtxs core ≠ [] → s.atStart.availableTo core = [] → s.atStart.claimPick core = some u → s.atStart.mayHold u core = true →
    (s.atStart.placement u core).isSome = true → u.st = .queued → s.placement u core = some [(r, task, k :: rest)] → (k :: rest).Nodup → s.unit? u.uid = some u →
    s.level? u.launch = some l → l.lrec.gang = false →
    ∃ t v, exec (.stealClaim core) s = .next t ∧ Started t l u task k rest ∧ t.unit? u.uid = some v ∧ v.st = .running ∧ v.owner = core ∧
      (t.core core).claim = 0 ∧ (t.core core).claims = (s.core core).claims + 1) ∧
  (∀ (s : State) (core h : Nat), coreExists core = true → (s.core core).choosing = true → s.chooseNext core (s.core core).primary = some h →
    ∃ t, exec (.nextPrimaryChoice core) s = .next t ∧ (t.core core).primary = h ∧ (t.core core).choosing = false ∧
      (h ≠ (s.core core).primary → (s.ctx (ctxKey core h)).keepLatch = false → ∀ n, (t.ctx (ctxKey core h)).live.readB n = 0) ∧
      ((s.ctx (ctxKey core h)).keepLatch = true → (t.ctx (ctxKey core h)).live = (s.ctx (ctxKey core h)).live) ∧ SameMemory s t ∧
      SameOthers (ctxKey core h) s t) ∧
  (∀ (s : State) (u : Machine.Unit) (l : Level), s.unit? u.uid = some u → u.st = .moving → s.level? u.launch = some l → l.cncl = false →
    s.units.all (fun e => e.2.launch != u.launch || decide (u.idx ≤ e.2.idx)) = true →
    ∃ t v, exec (.unitTransfer u.uid) s = .next t ∧ t.unit? u.uid = some v ∧ v.st = (if l.lrec.sync.isSome then .reserving else .queued) ∧ v.owner = u.owner ∧ v.idx = u.idx ∧ SameMemory s t ∧
      t.ctxs = s.ctxs) ∧
  (∀ (s : State) (core img : Nat), coreExists core = true →
    ((s.core core).loading = none → ∀ u l, (s.units.map Prod.snd).find? (s.wants core) = some u → s.level? u.launch = some l →
      ∃ t, exec (.imageDataLoad core) s = .next t ∧ (t.core core).loading = some (l.img, s.now + loadTime (s.image l.img)) ∧ (t.core core).image = none ∧ SameMemory s t ∧ t.ctxs = s.ctxs) ∧
    (∀ at_, (s.core core).loading = some (img, at_) → s.now + 1 < at_ → exec (.imageDataLoad core) s = .next s) ∧
    (∀ at_, (s.core core).loading = some (img, at_) → at_ ≤ s.now + 1 → (∀ n < 4, look false s.selfRef (4 * dieOf core + n) = false) → s.mem.wf = true → ∀ a n o bs, (s.image img).bss = [(a, n)] → (s.image img).data = [(o, bs)] →
      a + n ≤ 0x400000 → o + bs.length ≤ 0x400000 → (a + n ≤ o ∨ o + bs.length ≤ a) →
      ∃ t, exec (.imageDataLoad core) s = .next t ∧ (t.core core).image = some img ∧ (t.core core).loading = none ∧
        (∀ j < n, t.mem.read (gsaOf core (a + j)) = 0) ∧ (∀ j < bs.length, t.mem.read (gsaOf core (o + j)) = bs.getD j 0) ∧
        (∀ c, (c < gsaOf core a ∨ gsaOf core a + n ≤ c) → (c < gsaOf core o ∨ gsaOf core o + bs.length ≤ c) → t.mem.read c = s.mem.read c))) ∧
  (∀ (s : State) (d h : Nat), d < 4 → (d, h) ∈ s.cancels → sortedKeys s.units = true →
    ∃ t, exec (.cancelArrival d h) s = .next t ∧ (d, h) ∉ t.cancels ∧
      ∀ u, s.unit? u.uid = some u → u.launch = h → dieOf u.owner = d → u.st = .queued → t.unit? u.uid = none)

/-- A free context: what its unit left in its registers (R19, R332), and nothing else. -/
def Sys2Proof.Cert.FreedAs (s t : State) (k : Nat) : Prop :=
  t.ctx k = { live := { (s.ctx k).live with flights := [], q := [] }, xpat := (s.ctx k).xpat, cpat := (s.ctx k).cpat }

/-- R17, R32, R42, R354: when everything a unit's one routine must wait for is over, its context is free and the unit counts in its launch's record, at once on
the die that holds it; from another die the count sets out, and is added when it arrives. -/
def Obligations.Completion : Prop :=
  (∀ (s : State) (u : Machine.Unit) (k : Nat) (l : Level), s.unit? u.uid = some u → sortedKeys s.units = true → u.st = .running → u.open_ = [k] →
    s.routineDone k = true → s.level? u.launch = some l → l.parent ≠ u.launch →
    (∀ x, s.level? l.parent = some x → handleKind l.parent ≤ 2 → x.parent ≠ u.launch ∧ ∀ y, s.level? x.parent = some y → 2 < handleKind x.parent) →
    (handleDie u.launch = dieOf u.owner → ∃ t m, exec (.unitCompletion u.uid) s = .next t ∧ t.unit? u.uid = none ∧ FreedAs s t k ∧
      t.level? u.launch = some m ∧ m.ndone = l.ndone + 1 ∧ m.total = l.total ∧ m.err = (l.err || u.err) ∧ m.pres = (l.pres || u.pres)) ∧
    (handleDie u.launch ≠ dieOf u.owner → ∃ t v, exec (.unitCompletion u.uid) s = .next t ∧ t.unit? u.uid = some v ∧ v.st = .counting ∧ FreedAs s t k ∧
      (∃ m, t.level? u.launch = some m ∧ m.ndone = l.ndone) ∧ SameMemory s t)) ∧
  (∀ (s : State) (u : Machine.Unit) (l : Level), s.unit? u.uid = some u → sortedKeys s.units = true → u.st = .counting → s.level? u.launch = some l →
    l.parent ≠ u.launch →
    (∀ x, s.level? l.parent = some x → handleKind l.parent ≤ 2 → x.parent ≠ u.launch ∧ ∀ y, s.level? x.parent = some y → 2 < handleKind x.parent) →
    ∃ t m, exec (.completionCountArrival u.uid) s = .next t ∧ t.unit? u.uid = none ∧ t.level? u.launch = some m ∧ m.ndone = l.ndone + 1)

/-- R33 to R36, R363: an episode whose last member arrives in cycle T resumes in cycle T + 96: it then gives every member the votes in `p7` and opens the next; one that stays open too
long is abandoned with a sync trap in each member that has arrived; and a sync-bound launch whose contexts are all reserved starts in the
cycle named, every member at once. -/
def Obligations.SyncLines : Prop :=
  (∀ (s : State) (k : Nat) (b : Bundle) (f : HDR), b.hdr = some f → let l := s.line f.line.toNat
    l.resume = none → l.members ≠ [] → (let all := ∀ m ∈ l.members, m = k ∨ ∃ x ∈ l.arr, x.1 = m
      (all → ((s.arrive k b).line f.line.toNat).resume = some (s.now + 96)) ∧ (¬all → ((s.arrive k b).line f.line.toNat).resume = none) ∧
      (k, f.v, s.now) ∈ ((s.arrive k b).line f.line.toNat).arr)) ∧
  (∀ (s : State) (n at_ : Nat), n < 16 → (s.line n).resume = some at_ → at_ ≤ s.now →
    ∃ t, exec (.syncEpisodeResume n) s = .next t ∧ (t.line n).arr = [] ∧ (t.line n).resume = none ∧ (t.line n).members = (s.line n).members ∧
      (∀ k ∈ (s.line n).members, (t.ctx k).live.readP 7 = ((s.line n).votes || (s.line n).arr.any (fun x => x.2.1)) ∧
        (t.ctx k).pendSync = some n ∧ (t.ctx k).live.g = (s.ctx k).live.g) ∧
      (∀ k, k ∉ (s.line n).members → t.ctx k = s.ctx k) ∧ SameMemory s t) ∧
  (∀ (s : State) (n : Nat), n < 16 → (s.line n).tmo = 1 → (s.line n).first.isSome = true → (s.line n).resume = none →
    (∀ x ∈ (s.line n).arr, s.isSuper x.1 = false) →
    ∃ t, exec (.syncTimeout n) s = .next t ∧ (t.line n).arr = [] ∧ (t.line n).members = (s.line n).members ∧ SameMemory s t ∧
      (∀ x ∈ (s.line n).arr, (∀ c, (s.ctx x.1).frozen = some c → (t.ctx x.1).frozen = some c ∧ (t.ctx x.1).syncTo = some n) ∧
        ((s.ctx x.1).frozen = none → (t.ctx x.1).frozen = some 11 ∧ ∃ e, (t.ctx x.1).pend = some e ∧ e.cause = 11 ∧ e.tval = BitVec.ofNat 64 n))) ∧
  (∀ (s : State) (h n at_ : Nat) (l : Level), s.level? h = some l → l.lrec.sync = some n → l.syncAt = some at_ → at_ ≤ s.now → l.cncl = false → l.handle = h →
    (s.units.map Prod.snd).filter (fun u => u.launch == h) ≠ [] →
    (∀ u ∈ (s.units.map Prod.snd).filter (fun u => u.launch == h), u.st = .reserved ∧ s.unit? u.uid = some u) →
    ∃ t, exec (.syncLaunchDispatch h) s = .next t ∧ (t.line n).launch = some h ∧ (t.line n).arr = [] ∧ (t.line n).synto = (s.line n).synto ∧
      ∀ u ∈ (s.units.map Prod.snd).filter (fun u => u.launch == h), ∃ v, t.unit? u.uid = some v ∧ v.st = .running)

/-- R27, R28, R350 to R352, R364 to R366: the host's job address enters the mailbox when it is one and there is room, else it counts as dropped; the oldest is read, and the
job it names starts after a time; a job starts with a token per micro-batch for the die of its first phase; a die's oldest token starts a phase, whose launch
records are fetched; fetched, which waits for stacks in self-refresh (R394), they are created, unless the phase is cancelled or the fetch meets a translation fault; a phase that ends sends its token on, or
counts at its job. (That the first tokens leave from `State.tokenSource` is the model's choice: log 88; the delayed start in the list of inputs is log 77, a
DESIGN CHOICE, and a job's index and time log 65, read by inference.) -/
def Obligations.Jobs : Prop :=
  (∀ (s : State) (p : Nat) (a : W64), (s.part p).live = true → let ok := a.toNat < 2 ^ 57 ∧ a.toNat % 64 = 0 ∧ (s.part p).mbox.length < 16 ∧ (s.part p).notices = []
    ∃ t, exec (.jobAddressWrite p a) s = .next t ∧ (ok → (t.part p).mbox = (s.part p).mbox ++ [a] ∧ (t.part p).dropped = (s.part p).dropped) ∧
      (¬ok → (t.part p).mbox = (s.part p).mbox ∧ (t.part p).dropped = min ((s.part p).dropped + 1) 65535) ∧ SameMemory s t ∧ t.ctxs = s.ctxs) ∧
  (∀ (s : State) (p : Nat) (a : W64) (rest : List W64), (s.part p).mbox = a :: rest → (s.part p).notices = [] → a.toNat < 2 ^ 57 →
    ∃ t at_, exec (.mailboxPop p) s = .next t ∧ (t.part p).mbox = rest ∧ s.now < at_ ∧ (at_, .jobStart p a) ∈ t.inputs ∧ SameMemory s t ∧ t.ctxs = s.ctxs) ∧
  (∀ (s : State) (d : Nat) (x : W64), d < 4 →
    ((s.die d).tokens.length < 256 → ∃ t, exec (.microBatchTokenArrival d x) s = .next t ∧ (t.die d).tokens = (s.die d).tokens ++ [x] ∧
      (∀ m, m ∈ t.mbs ↔ m ∈ s.mbs ∧ ¬(m.to_ = d ∧ m.at_ = d ∧ m.tok = x)) ∧ SameMemory s t ∧ t.ctxs = s.ctxs) ∧
    (256 ≤ (s.die d).tokens.length → exec (.microBatchTokenArrival d x) s = .next s)) ∧
  (∀ (s : State) (p : Nat) (a : W64) (b hd pt file : List Byte) (im : Image) (code : List (Nat × List Byte)) (first : Nat) (chain : List Nat),
    s.virtBytes p a.toNat 64 = some b → fld b 0 1 = 0x4A → fld b 1 1 ≤ 7 → fld b 2 2 ≠ 0 → zeros b 4 4 = true → zeros b 32 32 = true →
    s.virtBytes p (fld b 8 8) 64 = some hd → s.virtBytes p (fld b 16 8) 16 = some pt → s.virtBytes p (fld b 8 8) (fld hd 32 8) = some file →
    loadImage file 2 (s.levelsOf p) = some (im, code) → s.chainOf p (fld b 16 8) (fld b 2 2) (fld b 2 2 + 1) (fld pt 2 2) [] = some (first :: chain) →
    1 ≤ fld pt 0 2 → fld pt 0 2 ≤ 256 → zeros pt 4 12 = true →
    (∀ k ∈ first :: chain, ∀ r, s.phaseRec p (fld b 16 8) k = some r → s.tokensFor r.die + fld pt 0 2 ≤ 256) →
    (∃ i < 65536, ∀ e ∈ s.levels, handleKind e.1 = 4 → e.1 % 2 ^ 16 ≠ i) →
    ∃ t h l, exec (.jobStart p a) s = .next t ∧ s.level? h = none ∧ t.level? h = some l ∧ handleKind h = 4 ∧ l.part = p ∧ l.total = fld pt 0 2 * (chain.length + 1) ∧
      l.prio = fld b 1 1 ∧ l.cdone = fld b 24 8 ∧
      ∀ m < fld pt 0 2, ∃ x ∈ t.mbs, x.to_ = handleDie h ∧ x.src = s.tokenSource p ∧ x.tok = mbToken h (fld pt 2 2) m) ∧
  (∀ (s : State) (d : Nat) (x : W64) (xs : List W64) (job : Level) (r : PhaseRec), d < 4 → (s.die d).tokens = x :: xs → (s.part job.part).faulted = false →
    (s.levels.filter (fun e => handleDie e.1 == d && handleKind e.1 == 3)).length < 256 → s.fetches d = [] →
    s.jobOf x = some job → s.phaseRec job.part job.ptab (x.toNat / 2 ^ 32 % 2 ^ 16) = some r →
    ∃ t h l at_, exec (.phaseStart d) s = .next t ∧ (t.die d).tokens = xs ∧ t.level? h = some l ∧ handleKind h = 3 ∧ handleDie h = d ∧ l.total = r.nl ∧
      l.parent = job.handle ∧ l.mb = x.toNat % 2 ^ 32 ∧ l.next = r.next ∧ l.fetch = some (at_, r.lrec) ∧ s.now + s.fetchTime job.part d r.lrec r.nl ≤ at_) ∧
  (∀ (s : State) (d a : Nat) (l : Level), d < 4 → s.fetches d = [(l, a)] → s.level? l.handle = some l → (s.die d).tokens = [] →
    (l.cncl = true → ∃ t m, exec (.phaseStart d) s = .next t ∧ t.level? l.handle = some m ∧ m.fetch = none ∧ m.ncncl = l.total ∧ SameMemory s t) ∧
    (l.cncl = false → (s.die d).failed = false → l.total ≠ 0 → s.rangeAsleep l.part a (64 * l.total) = true → exec (.phaseStart d) s = .next s) ∧
    (∀ va, l.cncl = false → (s.die d).failed = false → s.rangeAsleep l.part a (64 * l.total) = false → s.readFault l.part a (64 * l.total) = some va →
      (64 ≤ ((s.die d).evq.filter (fun e => e.cls == 1)).length → exec (.phaseStart d) s = .next s) ∧
      (((s.die d).evq.filter (fun e => e.cls == 1)).length < 64 →
        ∃ t e, exec (.phaseStart d) s = .next t ∧ e ∈ (t.die d).evq ∧ e.cause = 7 ∧ e.tval = BitVec.ofNat 64 va ∧ e.part = l.part)) ∧
    (∀ b, l.cncl = false → (s.die d).failed = false → l.total = 1 → s.rangeAsleep l.part a 64 = false → s.readFault l.part a 64 = none → s.virtBytes l.part a 48 = some b → Creatable s b d l.part l.img →
      s.recordsUsed d < 1024 → ∃ t h c, exec (.phaseStart d) s = .next t ∧ t.level? h = some c ∧ handleKind h = 1 ∧ handleDie h = d ∧
        c.parent = l.handle ∧ c.part = l.part ∧ c.img = l.img)) ∧
  (∀ (s : State) (h : Nat) (l job : Level), s.level? h = some l → handleKind h = 3 → l.total = l.ncncl + l.ndone → l.reported = false → l.cncl = false →
    s.level? l.parent = some job → handleKind l.parent = 4 → job.parent = 0 → s.level? 0 = none → sortedKeys s.levels = true → job.handle = l.parent →
    (l.next = 0xFFFF → job.ndone + job.ncncl + 1 < job.total → ∃ t j, exec (.phaseCompletion h) s = .next t ∧ t.level? h = none ∧ t.level? l.parent = some j ∧
      j.ndone = job.ndone + 1 ∧ SameMemory s t ∧ t.ctxs = s.ctxs) ∧
    (∀ r, l.next ≠ 0xFFFF → s.phaseRec job.part job.ptab l.next = some r → ∃ t, exec (.phaseCompletion h) s = .next t ∧ t.level? h = none ∧
      ∃ x ∈ t.mbs, x.src = handleDie h ∧ x.to_ = r.die ∧ x.tok = mbToken job.handle l.next l.mb))

/-- R317 to R328: `q.carm` arms a slot whose record and peers are in range, refuses one that is not idle (2), and with the disarm bit frees it (3); `q.ctrig` adds to an
armed slot's counter and attaches its token; `q.cstat` reads it. An armed slot fires when its counter reaches its threshold; a transfer that arrives writes its
bytes and counts; a firing whose sends are done signals its tokens, adds one to its count and re-arms or becomes idle. A slot of another partition traps. -/
def Obligations.Collectives : Prop :=
  (∀ (s : State) (f : TQ) (n p : Nat), Settled s → n = f.sub.toNat % 128 → s.partOf s.iss.core = some p →
    ((s.part p).slots.testBit n = false → s.isSuper s.key = false → ∀ k ∈ ([.qCarm, .qCtrig, .qCstat] : List (TQ → Instr)), Executes (k f) f.g s →
      TrapsWith s (k f) 6 (BitVec.ofNat 64 n)) ∧
    ((s.part p).slots.testBit n = true →
      (∀ a b ps, FindsRecord s f a → b = recordBytes s a 128 → Executes (.qCarm f) f.g s → f.sub.getLsbD 8 = false → collOk b = true →
        ps = peersOf (recordBytes s (fld b 0x1C 4) (16 * fld b 0x18 2)) → peersOk (s.part p).eps ps = true →
        ((s.slot n).state = 0 → ∃ t, exec (.qCarm f) s = .next t ∧ (t.slot n).state = 1 ∧ (t.slot n).crec = collOf b ps ∧ (t.slot n).sb = fld b 0 8 ∧
          (t.slot n).db = fld b 8 8 ∧ (t.slot n).ctr = 0 ∧ (t.slot n).part = p ∧ (∀ m, m ≠ n → t.slot m = s.slot m) ∧ SameMemory s t ∧
          (t.ctx s.key).live = { s.cur.live with flights := s.cur.live.flights ++ [statusFlight s 2 0] }) ∧
        ((s.slot n).state ≠ 0 → ∃ t, exec (.qCarm f) s = .next t ∧ OnlyStatus s t 2 2)) ∧
      (Executes (.qCarm f) f.g s → f.sub.getLsbD 8 = true → s.tokFull f.kw f.k.toNat = false → (s.slot n).state = 1 →
        ∃ t, exec (.qCarm f) s = .next t ∧ (t.slot n).state = 0 ∧ SameMemory s t ∧
          (t.ctx s.key).live = { s.cur.live with flights := s.cur.live.flights ++ [statusFlight s 2 3] }) ∧
      (Executes (.qCtrig f) f.g s → s.tokFull f.kw f.k.toNat = false →
        ((s.slot n).state = 0 → Rejects s (.qCtrig f) f 2 1) ∧
        ((s.slot n).state ≠ 0 → ∃ t, exec (.qCtrig f) s = .next t ∧
          (t.slot n).ctr = min ((s.slot n).ctr + (s.value f.sp).toNat % 2 ^ 32) (2 ^ 32 - 1) ∧
          (t.slot n).waitToks = (s.slot n).waitToks ++ (if f.kw then [(s.key, f.k.toNat)] else []) ∧
          (t.ctx s.key).live = { s.cur.live with flights := s.cur.live.flights ++ [statusFlight s 2 0] } ∧ SameMemory s t ∧ SameOthers s.key s t)) ∧
      (Executes (.qCstat f) f.g s → ∃ t, exec (.qCstat f) s = .next t ∧ t.slots = s.slots ∧ OnlyStatus s t 2 (let x := s.slot n
        if f.sub.toNat / 256 = 0 then BitVec.ofNat 64 (x.ctr * 2 ^ 32 + x.fired % 2 ^ 24 * 256 + (if x.partial_ then 4 else 0) + x.state)
        else if f.sub.toNat / 256 = 1 then BitVec.ofNat 64 (min x.rer (2 ^ 32 - 1) * 2 ^ 32 + min x.drops (2 ^ 32 - 1))
        else BitVec.ofNat 64 x.lastFault)))) ∧
  (∀ (s : State) (n : Nat), n < 128 → (s.slot n).state = 1 → (s.slot n).crec.thr ≤ (s.slot n).ctr → s.cwEvwait = [] →
    ∃ t, exec (.collectiveFiringStart n) s = .next t ∧ (t.slot n).state = 2 ∧ (t.slot n).ctr = (s.slot n).ctr - (s.slot n).crec.thr ∧
      (t.slot n).toks = (s.slot n).waitToks ∧ (t.slot n).waitToks = []) ∧
  (∀ (s : State) (x : CollTransfer), x ∈ s.xfers → Quiet s → s.mem.wf = true → x.virt = false → x.addr < 2 ^ 32 → coreExists (gsaCore x.addr) = true →
    gsaOff x.addr + x.data.length ≤ 0x400000 → s.partOf (gsaCore x.addr) = some x.part → (s.die (dieOf (gsaCore x.addr))).failed = false →
    ∃ t, exec (.collectiveTransferArrival x) s = .next t ∧ (∀ j < x.data.length, t.mem.read (x.addr + j) = x.data.getD j 0) ∧
      (∀ c, c < x.addr ∨ x.addr + x.data.length ≤ c → t.mem.read c = s.mem.read c) ∧ t.xfers = s.xfers.erase x ∧ t.ctxs = s.ctxs ∧
      (∀ m, x.rcnt = some m → (s.slot m).state ≠ 0 → (t.slot m).ctr = min ((s.slot m).ctr + 1) (2 ^ 32 - 1))) ∧
  (∀ (s : State) (n : Nat), n < 128 → (s.slot n).state = 2 → s.cwEvwait = [] → s.xfers.all (fun x => (x.own.map Prod.fst) != some n) = true →
    (s.slot n).crec.next = none →
    ∃ t, exec (.collectiveFiringCompletion n) s = .next t ∧ (t.slot n).fired = (s.slot n).fired + 1 ∧ (t.slot n).toks = [] ∧
      (t.slot n).rer = (s.slot n).rer + (s.slot n).frer ∧ (t.slot n).drops = (s.slot n).drops + (s.slot n).fdrops ∧
      (t.slot n).state = (if (s.slot n).crec.rearm = true ∧ (s.slot n).disarm = false then 1 else 0) ∧ (t.slot n).lastFault = (s.slot n).fault ∧
      ((s.slot n).crec.rearm = true → (t.slot n).sb = (s.slot n).sb + (s.slot n).crec.sadv ∧ (t.slot n).db = (s.slot n).db + (s.slot n).crec.dadv) ∧
      SameMemory s t)

/-! ### Privileged state, traps, pre-emption (R340 to R351, R377 to R392) -/

/-- A privileged word of a supervisor executes (R106, R340, R388). -/
abbrev Sys2Proof.Cert.Supervises (i : Instr) (g : Bool) (s : State) : Prop := Executes i g s ∧ s.isSuper s.key = true

/-- Where control registers of the context, the core, the die and the partition are, with what reading them gives (R342, R343, R381, R316). -/
def Sys2Proof.Cert.controls (s : State) : List (Nat × W64) :=
  let c := s.cur
  let part := s.part ((s.partOf s.iss.core).getD 16)
  let d := s.die (dieOf s.iss.core)
  [(0x000, c.live.vstat.setWidth 64), (0x001, c.live.coin), (0x004, c.cpat), (0x020, c.tcause), (0x021, c.tpc.setWidth 64), (0x022, c.tval),
   (0x023, c.tsrc), (0x024, ((BitVec.ofBool c.tselEn ++ (0 : BitVec 12) ++ c.tselCtx).setWidth 64)), (0x029, c.wdog.setWidth 64),
   (0x02B, c.tvec.setWidth 64), (0x049, ((BitVec.ofBool part.lnk ++ part.lines).setWidth 64)),
   (0x050, ((BitVec.ofBool d.evEn ++ (0 : BitVec 5) ++ d.evClu ++ d.evCore).setWidth 64)), (0x07C, d.inc.setWidth 64)]

/-- R342, R343, R381, R389: `p.csrr` delivers a control register, in `rd` and `b0` two cycles on; `p.csrw` writes it, `p.csrs` sets and
`p.csrc` clears the bits of its source; no other register, predicate, descriptor, token or control register of the context, no other context and no store
changes. A word on `csr.vstat` finds the flags of the element writes that its context's commands have
made by then (R65). R382: breakpoints and the watchdog among them. A user's P word takes the protection trap, a
register that does not exist makes the word illegal. (That a write of `csr.vstat` clears the bits written 1 is read from R2 by inference; no clause here rests
on it.) -/
def Obligations.ControlRegisters : Prop :=
  (∀ (s u : State) (f : PV) (v : W64), Supervises (.pCsrr f) f.g s → s.cur.tselEn = false →
    u = (if f.csr = 0 then s.earlyFlags s.key else s) → (f.csr.toNat, v) ∈ controls u → f.md = 0 →
    s.cur.live.collides (.g f.sa.toNat) 2 = false →
    exec (.pCsrr f) s = .next (u.updLive (fun a => { a with flights := a.flights ++
      [{ rem := 2, dst := .g f.sa.toNat, latch := if s.iss.sec then none else some 0, val := v }] }))) ∧
  (∀ (s : State) (f : PV), s.isSuper s.key = true → s.cur.tselEn = false →
    let kept (n : Nat) (t : State) : Prop := (t.ctx s.key).live = { s.cur.live with coin := (t.ctx s.key).live.coin } ∧
      (∀ m md, m ≠ n → isCtxCsr m = true → (t.ctx s.key).csr m md = s.cur.csr m md) ∧ (t.ctx s.key).tok = s.cur.tok ∧ (t.ctx s.key).role = s.cur.role ∧
      SameMemory s t ∧ SameOthers s.key s t ∧ SameArrays s t ∧ SameShared s t
    (∀ x ∈ ([(0x001, (s.cur.live.coin, s.value f.sa)), (0x004, (s.cur.cpat, s.value f.sa)), (0x021, (s.cur.tpc.setWidth 64, (s.value f.sa) &&& 0xFFFFFFFF)),
        (0x029, (s.cur.wdog.setWidth 64, (s.value f.sa) &&& 0xFFFFFFFF)), (0x02B, (s.cur.tvec.setWidth 64, (s.value f.sa) &&& 0xFFFFFFFF)),
        (0x024, (s.cur.csr 0x024 0, (s.value f.sa) &&& 0x8007))] : List (Nat × W64 × W64)), f.csr.toNat = x.1 → f.md = 0 →
      (Executes (.pCsrw f) f.g s → ∃ t, exec (.pCsrw f) s = .next t ∧ (t.ctx s.key).csr x.1 0 = x.2.2 ∧ kept x.1 t) ∧
      (Executes (.pCsrs f) f.g s → ∃ t, exec (.pCsrs f) s = .next t ∧ (t.ctx s.key).csr x.1 0 = (x.2.1 ||| x.2.2) ∧ kept x.1 t) ∧
      (Executes (.pCsrc f) f.g s → ∃ t, exec (.pCsrc f) s = .next t ∧ (t.ctx s.key).csr x.1 0 = (x.2.1 &&& ~~~x.2.2) ∧ kept x.1 t)) ∧
    (∀ n < 4, f.csr.toNat = 0x02A → f.md.toNat = n → Executes (.pCsrw f) f.g s → ∃ t b, exec (.pCsrw f) s = .next t ∧
      b = look {} (t.ctx s.key).brk n ∧ b.addr = (s.value f.sa).extractLsb' 2 30 ∧ b.en = (s.value f.sa).getLsbD 0 ∧
      (∀ m, m ≠ n → look {} (t.ctx s.key).brk m = look {} s.cur.brk m) ∧ kept 0x02A t)) ∧
  (∀ (s : State) (f : PV), Settled s → s.isSuper s.key = false →
    (csrMax f.csr.toNat = some 0 → f.md = 0 → ∀ k ∈ ([.pCsrr, .pCsrw, .pCsrs, .pCsrc] : List (PV → Instr)), Executes (k f) f.g s →
      TrapsWith s (k f) 6 (s.iss.word.setWidth 64)) ∧
    (csrMax f.csr.toNat = none → ∀ k ∈ ([.pCsrr, .pCsrw, .pCsrs, .pCsrc] : List (PV → Instr)), Executes (k f) f.g s →
      TrapsWith s (k f) 1 (s.iss.word.setWidth 64)) ∧
    (Executes (.pEret f) f.g s → TrapsWith s (.pEret f) 6 (s.iss.word.setWidth 64))) ∧
  (∀ (s : State) (f : TQ), Settled s → s.isSuper s.key = false → ∀ k ∈ ([.pTlbi, .pCtxsv, .pCtxld, .pHalt, .pPmt] : List (TQ → Instr)),
    Executes (k f) f.g s → TrapsWith s (k f) 6 (s.iss.word.setWidth 64))

/-- R389, R380, R401: `p.trap` of a user context freezes it with cause 8 and its code in `csr.tval`; of a supervisor, codes 0x200 to 0x2FF are calls of the
monitor, which wait in its queue and leave the registers alone. R390: `p.halt` waits for an event, and takes one that waits at once; R380, R381: the oldest event loads the frame registers and the supervisor goes on
at `csr.tvec`. R391: `p.eret` drains, and then the trapped context resumes at `csr.tpc` with its loops. R376, R390: `p.tlbi` starts an invalidation,
which signals its token; an address of more than 57 bits meets a translation fault. -/
def Obligations.TrapsAndReturns : Prop :=
  (∀ (s : State) (f : PV), Executes (.pTrap f) f.g s → Settled s →
    (s.isSuper s.key = false → TrapsWith s (.pTrap f) 8 (f.csr.setWidth 64)) ∧
    (s.isSuper s.key = true → 0x200 ≤ f.csr.toNat → f.csr.toNat ≤ 0x2FF → ∃ t, exec (.pTrap f) s = .next t ∧ (t.ctx s.key).frozen = some 8 ∧
      t.mon.calls = s.mon.calls ++ [(s.key, f.csr.toNat - 0x200)] ∧ (t.ctx s.key).tval = s.cur.tval ∧ (t.ctx s.key).lcsv0 = s.cur.lcsv0 ∧
      (t.ctx s.key).lcsv1 = s.cur.lcsv1 ∧ (t.ctx s.key).live.pc = s.iss.pc ∧ SameMemory s t ∧
      KeepsRegisters s t ∧ SameOthers s.key s t)) ∧
  (∀ (s : State) (f : TQ), Supervises (.pHalt f) f.g s → s.cur.frame = none →
    ∃ t, exec (.pHalt f) s = .next t ∧ (t.ctx s.key).halted = true ∧ (t.ctx s.key).live = s.cur.live ∧ SameMemory s t ∧ SameOthers s.key s t ∧
      (s.waitingFor s.key = [] → t.agenda = s.agenda ∧ ((s.core s.iss.core).primary = s.iss.h → (t.core s.iss.core).choosing = true)) ∧
      (s.waitingFor s.key ≠ [] → t.agenda = .eventTake s.key :: s.agenda ∧ t.cores = s.cores)) ∧
  (∀ (s : State) (k w : Nat) (e : PendEv) (rest : List (Nat × PendEv)), s.isSuper k = true → (s.ctx k).halted = true → (s.ctx k).frame = none →
    (s.ctx k).frozen = none → sortBy PendEv.before (s.waitingFor k) = (w, e) :: rest →
    (∀ x ∈ s.waitingFor k, e.time ≤ x.2.time) ∧
    ∃ t, exec (.eventTake k) s = .next t ∧ (t.ctx k).frame = some e ∧ (t.ctx k).halted = false ∧ (t.ctx k).live.pc = (s.ctx k).tvec ∧
      (t.ctx k).tval = e.tval ∧ (t.ctx k).tcause = BitVec.ofNat 64 (e.widx * 2 ^ 24 + e.src * 2 ^ 16 + e.cause) ∧
      (t.ctx k).tsrc = BitVec.ofNat 64 (e.eidx * 2 ^ 32 + e.kind * 2 ^ 24 + e.tok * 2 ^ 16 + e.core * 2 ^ 7 + e.h * 2 ^ 4) ∧
      (e.src = 0 → (t.ctx k).tpc = (s.ctx (ctxKey e.core e.h)).live.pc) ∧ (t.ctx k).live.g = (s.ctx k).live.g ∧ SameMemory s t) ∧
  (∀ (s : State) (f : PV), Supervises (.pEret f) f.g s → s.cur.frame.isSome = true →
    ∃ t, exec (.pEret f) s = .next t ∧ (t.ctx s.key).eret = some f.md.toNat ∧ (t.ctx s.key).drain = some { scope := 3, fence := false, at_ := s.iss.when_ } ∧
      t.agenda = .drainCompletion s.key :: s.agenda ∧ (t.ctx s.key).live = s.cur.live ∧ SameMemory s t ∧ SameOthers s.key s t) ∧
  (∀ (s : State) (k u md : Nat) (e : PendEv) (d : DrainW), (s.ctx k).drain = some d → d.fence = false → d.scope = 3 → (s.ctx k).eret = some md → (s.ctx k).rest = [] →
    (s.ctx k).frame = some e →
    (∀ m ∈ s.msgs, m.dest ≠ k ∧ ∀ x ∈ (s.ctx k).seen, x.1 ≠ m.id) → e.src = 0 → u = ctxKey e.core e.h → u ≠ k → (s.ctx u).frozen = some e.cause →
    (s.ctx u).why = 0 → md < 2 →
    ∃ t, exec (.drainCompletion k) s = .next t ∧ (t.ctx k).frame = none ∧ (t.ctx k).drain = none ∧ (t.ctx u).frozen = none ∧
      (t.ctx u).live.pc = (s.ctx k).tpc ∧ (t.ctx u).live.lc0 = (s.ctx u).lcsv0 ∧ (t.ctx u).live.lc1 = (s.ctx u).lcsv1 ∧ (t.ctx u).pend = none ∧
      (t.ctx u).live.g = (s.ctx u).live.g ∧ (t.ctx u).live.flights = (s.ctx u).live.flights ∧ (t.ctx u).noBrk = true ∧ SameMemory s t) ∧
  (∀ (s : State) (f : TQ), Supervises (.pTlbi f) f.g s → s.tokFull f.kw f.k.toNat = false → s.cmds.all (fun c => c.id < s.nextId) = true →
    (2 ^ 57 ≤ (s.value f.sp + extUnsigned 0 0 s.iss.ext).toNat →
      exec (.pTlbi f) s = .next (s.takeTrap { ord := 6, widx := s.iss.widx, cause := 7, tval := s.value f.sp + extUnsigned 0 0 s.iss.ext })) ∧
    ((s.value f.sp + extUnsigned 0 0 s.iss.ext).toNat < 2 ^ 57 →
    ∃ t c, exec (.pTlbi f) s = .next t ∧ t.cmds = s.cmds ++ [c] ∧ c.id = s.nextId ∧ c.tok = tokenOf f ∧
      c.kind = .tlbi (if f.sub.getLsbD 0 then none else some (s.value f.sp + extUnsigned 0 0 s.iss.ext).toNat) ∧ OnlyStatus s t 3 0)) ∧
  (∀ (s : State) (c : Cmd), s.cmd? c.id = some c → c.kind = .tlbi none → Quiet { s with cmds := s.cmds.filter (fun x => x.id != c.id) } → c.out = [] →
    ∃ t, exec (.tlbInvalidationCompletion c.id) s = .next t ∧ Ends s t c ∧
      ∀ d < 5, ∀ x ∈ (t.die d).tlb, x.1 ≠ (s.partOf c.core).getD 16)

/-- R383, R385, R390: `p.pmt` asks every running unit or handler of its mask on a core of the partition to freeze, and answers which; R385: a context freezes
when its branches have resolved and its time has come, with its loops saved and disarmed, its results in flight kept. R382: a context that has not yielded for as
long as its watchdog allows takes that trap. R386: results due are written when it goes on. R385, R390: quiescence signals the token of the `p.pmt` that
waited for it last. R387, R392: `p.ctxsv` and `p.ctxld` start a save or load whose record and target are in order; a load reserves its context; a core of another partition meets the protection trap, which is a supervisor's fault (R402). (That `p.pmt` also acts on a
context whose unit has exited, and `.res` on bit 0 of the reasons alone, is log 68; the order of the protection trap and the role of a context that is being
loaded are log 43: all read by inference.) -/
def Obligations.Preemption : Prop :=
  (∀ (s : State) (f : TQ) (a : W64) (core : Nat), Supervises (.pPmt f) f.g s → a = s.value f.sp + extUnsigned 0 0 s.iss.ext → a.toNat < 2 ^ 32 →
    core = gsaCore a.toNat → gsaOff a.toNat = 0 → coreExists core = true → s.sameParts s.iss.core core = true → s.tokFull f.kw f.k.toNat = false → f.sub.getLsbD 8 = false →
    ∃ t v, exec (.pPmt f) s = .next t ∧
      ((t.ctx s.key).token f.k.toNat).cnt = (s.cur.token f.k.toNat).cnt + (if f.kw = true ∧ v ≠ 0 then 1 else 0) ∧
      (t.ctx s.key).live = { s.cur.live with flights := s.cur.live.flights ++ [statusFlight s 3 v] } ∧ SameMemory s t ∧
      (∀ h < 8, let c := s.ctx (ctxKey core h)
        let acts := f.sub.getLsbD h && (c.role == .unit || c.role == .handler) && (c.frozen.isNone || c.frozen == some 15)
        (v : W64).getLsbD h = acts ∧
        (acts = true → (t.ctx (ctxKey core h)).why.getLsbD 0 = true ∧ (c.frozen = none → ∃ d, (t.ctx (ctxKey core h)).freezeReq = some (d, 15))) ∧
        (acts = false → ctxKey core h ≠ s.key → t.ctx (ctxKey core h) = c))) ∧
  (∀ (s : State) (f : TQ) (a : W64) (core : Nat), Supervises (.pPmt f) f.g s → a = s.value f.sp + extUnsigned 0 0 s.iss.ext → a.toNat < 2 ^ 32 →
    core = gsaCore a.toNat → gsaOff a.toNat = 0 → coreExists core = true → s.sameParts s.iss.core core = true → s.tokFull f.kw f.k.toNat = false →
    f.sub.getLsbD 8 = true →
    ∃ t v, exec (.pPmt f) s = .next t ∧
      (t.ctx s.key).live = { s.cur.live with flights := s.cur.live.flights ++ [statusFlight s 3 v] } ∧ SameMemory s t ∧
      (∀ h < 8, let c := s.ctx (ctxKey core h)
        let acts := f.sub.getLsbD h && (c.role == .unit || c.role == .handler) && c.frozen == some 15 && c.why.getLsbD 0
        (v : W64).getLsbD h = acts ∧
        (acts = true → (t.ctx (ctxKey core h)).why.getLsbD 0 = false ∧ (t.ctx (ctxKey core h)).frozen = (if c.why = 1 then none else some 15)) ∧
        (acts = false → ctxKey core h ≠ s.key → t.ctx (ctxKey core h) = c))) ∧
  (∀ (s : State) (k due cause : Nat), (s.ctx k).frozen = none → (s.ctx k).snaps = [] → (s.ctx k).role ≠ .free → (s.ctx k).later = none →
    (s.ctx k).freezeReq = some (due, cause) → due ≤ s.now →
    ∃ t, exec (.contextFreeze k cause) s = .next t ∧ (t.ctx k).frozen = some cause ∧ (t.ctx k).freezeReq = none ∧
      (t.ctx k).lcsv0 = (s.ctx k).live.lc0 ∧ (t.ctx k).lcsv1 = (s.ctx k).live.lc1 ∧ (t.ctx k).live.lc0.armed = false ∧
      (t.ctx k).live.lc1.armed = false ∧ (t.ctx k).live.flights = (s.ctx k).live.flights ∧ (t.ctx k).live.g = (s.ctx k).live.g ∧ SameMemory s t ∧
      SameOthers k s t) ∧
  (∀ (s : State) (k : Nat), (s.ctx k).wdog ≠ 0 → (s.ctx k).wdog.toNat * 1024 ≤ (s.ctx k).ctime - (s.ctx k).lastY → (s.ctx k).runs = true →
    (s.ctx k).snaps = [] → s.isSuper k = false →
    ∃ t, exec (.watchdogExpiry k) s = .next t ∧ (t.ctx k).frozen = some 10 ∧ (∃ e, (t.ctx k).pend = some e ∧ e.cause = 10 ∧ e.core = keyCore k) ∧
      SameMemory s t ∧ KeepsRegisters s t ∧ SameOthers k s t) ∧
  (∀ (s : State) (k n : Nat) (v : W64) (x : Flight), (s.ctx k).frozen = none → (s.ctx k).thaw = false → (s.ctx k).snaps = [] →
    (s.ctx k).live.flights = [x] → x.rem ≤ 1 → x.dst = .g n → x.val = v → 1 ≤ n →
    ∃ t, exec (.replayInjection k) s = .next t ∧ (t.ctx k).live.readG n = v ∧ (t.ctx k).live.flights = [] ∧
      (∀ m, m ≠ n → (t.ctx k).live.readG m = (s.ctx k).live.readG m) ∧ SameMemory s t ∧ SameOthers k s t) ∧
  (∀ (s : State) (k id tok key : Nat), (s.ctx k).pmtWait = [(id, key * 8 + tok)] → tok < 8 → key < 2 ^ 12 → key ≠ k → s.quiescent k = true →
    s.ctxs.all (fun e => e.1 == k || e.2.pmtWait.isEmpty) = true → sortedKeys s.ctxs = true →
    ∃ t, exec (.contextQuiescence k) s = .next t ∧ (t.ctx k).pmtWait = [] ∧
      ((t.ctx key).token tok).cnt = ((s.ctx key).token tok).cnt - 1 ∧ ((t.ctx key).token tok).err = ((s.ctx key).token tok).err ∧ SameMemory s t ∧
      SameRegisters s t) ∧
  (∀ (s : State) (f : TQ) (a core h : Nat) (b : List Byte), FindsRecord s f a → s.isSuper s.key = true → b = recordBytes s a 16 → core = gsaCore (fld b 0 4) →
    h = fld b 4 1 →
    (∀ x ∈ ([(false, .pCtxsv f), (true, .pCtxld f)] : List (Bool × Instr)), Executes x.2 f.g s →
      (saveRecOk b = false → Rejects s x.2 f 3 1) ∧
      (saveRecOk b = true → s.sameParts s.iss.core core = true → s.targetOk x.1 (f.sub.toNat % 8) core h = false → Rejects s x.2 f 3 2) ∧
      (saveRecOk b = true → s.sameParts s.iss.core core = false → ∀ p, s.partOf s.iss.core = some p →
        ∃ t, exec x.2 s = .next t ∧ (t.part p).faulted = true ∧ t.cmds = s.cmds) ∧
      (saveRecOk b = true → s.sameParts s.iss.core core = true → s.targetOk x.1 (f.sub.toNat % 8) core h = true →
        (x.1 = true → f.sub.toNat % 8 = 0 → s.elsewhere core (fld b 8 8) = false) → ctxKey core h ≠ s.key →
        ∃ t c, exec x.2 s = .next t ∧ t.cmds = s.cmds ++ [c] ∧ c.id = s.nextId ∧ c.tok = tokenOf f ∧ c.st = .running ∧
          c.kind = .ctxmove x.1 (f.sub.toNat % 8) core h (fld b 8 8) (f.sub.getLsbD 3) ∧
          (t.ctx s.key).live = { s.cur.live with flights := s.cur.live.flights ++ [statusFlight s 3 0] } ∧ SameMemory s t ∧
          (x.1 = true → f.sub.toNat % 8 = 0 → (t.ctx (ctxKey core h)).role = .loaded ∧ (t.ctx (ctxKey core h)).frozen = some 15))))

/-! ### Links (R301 to R314, R349) -/

/-- R305, R306, R308 to R312: a good flit that is next in its channel advances the channel and its messages and tokens reach their die; a bad one is counted and leaves a gap to
refuse, unless it only repeats one received before; a refusal replays from the flit it names; acknowledgements are sent when 64 flits or 1 µs are owed, in the slot of a module; what goes unacknowledged for 4 µs is replayed; too
many replays step the rate down; a lane lost narrows its module; a rate written is in force at both ends, and the link retrains, unless the step is none of the link's (R308); a retraining that
ends leaves the link in service, its modules active; a module's slot sends the next flit. (That a flit carries one packet, and that channel 0 goes first while no channel replays, is the
model's: log 61.) -/
def Obligations.Links : Prop :=
  ∀ (s : State) (d n : Nat), d < 4 → n < 3 → let l := s.link d n
    (∀ (f : Flit) (i : Nat) (m : Msg), f.vc < 4 → f.avc < 4 → f.idle = false → f.akt = 0 → f.seq = (l.vc f.vc).rseq → f.pay = [i] → s.msg? i = some m → m.bound = d →
      ∃ t x, exec (.flitReception d n f true) s = .next t ∧ ((t.link d n).vc f.vc).rseq = (f.seq + 1) % 4096 ∧
        ((t.link d n).vc f.vc).toAck = (l.vc f.vc).toAck + 1 ∧ t.msg? i = some x ∧ x = { m with home := true, here := none } ∧ SameMemory s t ∧ t.ctxs = s.ctxs) ∧
    (∀ (f : Flit) (i : Nat) (m : MbMove), f.vc < 4 → f.avc < 4 → f.idle = false → f.akt = 0 → f.seq = (l.vc f.vc).rseq → f.pay = [i] → s.msg? i = none →
      s.mbs.find? (fun x => x.id == i) = some m → m.to_ = d →
      ∃ t, exec (.flitReception d n f true) s = .next t ∧ ((t.link d n).vc f.vc).rseq = (f.seq + 1) % 4096 ∧
        t.mbs.find? (fun x => x.id == i) = some { m with at_ := d } ∧ SameMemory s t ∧ t.ctxs = s.ctxs) ∧
    (∀ f : Flit, f.vc < 4 → f.avc < 4 → f.idle = false → (l.vc f.vc).gap = 0 →
      ∃ t, exec (.flitReception d n f false) s = .next t ∧ (t.link d n).crc = min (l.crc + 1) (2 ^ 64 - 1) ∧
        ((t.link d n).vc f.vc).gap = (if (f.seq + 4096 - (l.vc f.vc).rseq) % 4096 < 2048 then 1 else 0) ∧
        ((t.link d n).vc f.vc).rseq = (l.vc f.vc).rseq ∧ t.msgs = s.msgs ∧ SameMemory s t ∧ t.ctxs = s.ctxs) ∧
    (∀ v q, v < 4 → ∃ t, exec (.refusalReceipt d n v q) s = .next t ∧
      ((t.link d n).vc v).resend = ((l.vc v).unacked).dropWhile (fun u => u.1 != q) ∧ (t.link d n).rply = min (l.rply + 1) (2 ^ 64 - 1) ∧ SameMemory s t ∧
      t.ctxs = s.ctxs) ∧
    (∀ v, v < 4 → 0 < (l.vc v).toAck → (64 ≤ (l.vc v).toAck ∨ 2000 ≤ (l.vc v).ackAge) →
      ((∃ m < modulesOf d n, l.ready m = true) →
        ∃ t, exec (.acknowledgementTimer d n v) s = .next t ∧ ((t.link d n).vc v).toAck = 0 ∧ (t.link d n).flits = min (l.flits + 1) (2 ^ 64 - 1) ∧
          (∃ m < modulesOf d n, l.ready m = true ∧ look 0 (t.link d n).credit m = look 0 l.credit m - 64) ∧ SameMemory s t ∧ t.ctxs = s.ctxs) ∧
      ((∀ m < modulesOf d n, l.ready m = false) → exec (.acknowledgementTimer d n v) s = .next s)) ∧
    (∀ v, v < 4 → ((∃ u ∈ (l.vc v).unacked, look 0 (l.vc v).sent u.1 + 8000 ≤ s.now) →
      ∃ t, exec (.replayTimeout d n v) s = .next t ∧ ((t.link d n).vc v).resend = (l.vc v).unacked ∧
        (∀ u ∈ (l.vc v).unacked, look 0 ((t.link d n).vc v).sent u.1 = s.now) ∧
        (t.link d n).rply = min (l.rply + 1) (2 ^ 64 - 1) ∧ SameMemory s t ∧ t.ctxs = s.ctxs) ∧
      ((∀ u ∈ (l.vc v).unacked, s.now < look 0 (l.vc v).sent u.1 + 8000) → exec (.replayTimeout d n v) s = .next s)) ∧
    (l.abo = true → l.rthr.toNat < l.winRply → 0 < l.rate.toNat →
      ∃ t, exec (.automaticBackOff d n) s = .next t ∧ (t.link d n).rate.toNat = l.rate.toNat - 1 ∧ (t.link d n).winRply = 0 ∧ (t.link d n).winFlits = 0 ∧
        1 ≤ (t.link d n).train ∧ (t.link d n).train ≤ 6000 ∧ SameMemory s t ∧ t.ctxs = s.ctxs) ∧
    (∀ m lane, m < modulesOf d n → lane < 64 → m < l.widths.length → l.widths.getD m 0 = 2 →
      ∃ t, exec (.laneRetirement d n m lane) s = .next t ∧ (t.link d n).widths.getD m 0 = 1 ∧ (t.link d n).widths.length = l.widths.length ∧
        (∀ k, k ≠ m → (t.link d n).widths.getD k 0 = l.widths.getD k 0) ∧ SameMemory s t ∧ t.ctxs = s.ctxs) ∧
    (∀ r, r < 7 → (n = 2 → r ≤ 2) → r ≠ l.rate.toNat →
      ∃ t, exec (.linkRateWrite d n r) s = .next t ∧ (t.link d n).rate.toNat = r ∧ 1 ≤ (t.link d n).train ∧ (t.link d n).train ≤ 6000 ∧
        (∀ e m, otherEnd d n = some (e, m) → (t.link e m).rate.toNat = r) ∧ SameMemory s t ∧ t.ctxs = s.ctxs) ∧
    (∀ r, (7 ≤ r ∨ (n = 2 ∧ 2 < r)) → exec (.linkRateWrite d n r) s = .next s) ∧
    (l.train = 1 → l.up = true → ∃ t, exec (.linkRetrainCompletion d n 7) s = .next t ∧ (t.link d n).train = 0 ∧ (t.link d n).up = true ∧
      (∀ m, 0 < l.width m → look 0 l.modTrain m = 0 → (t.link d n).active m = true) ∧
      (∀ v, ((t.link d n).vc v).resend = ((t.link d n).vc v).unacked) ∧ SameMemory s t ∧ t.ctxs = s.ctxs) ∧
    (∀ m x, l.ready m = true → s.inTurn d (l.vc 0) x.2 = true → l.owes = none → (∀ v < 4, (l.vc v).resend = []) → (l.vc 0).unacked = [] → (l.vc 0).outq = [x] →
      ∃ t f, exec (.flitTransmission d n m) s = .next t ∧ ((t.link d n).vc 0).outq = [] ∧
        ((t.link d n).vc 0).unacked = [((l.vc 0).nseq, x.1, [x.2])] ∧ ((t.link d n).vc 0).nseq = ((l.vc 0).nseq + 1) % 4096 ∧
        t.flying = s.flying ++ [f] ∧ f.flit.pay = [x.2] ∧ f.flit.seq = (l.vc 0).nseq ∧ f.flit.vc = 0 ∧ s.now < f.due ∧
        otherEnd d n = some (f.die, f.link) ∧ SameMemory s t ∧ t.ctxs = s.ctxs)

/-! ### The monitor (R346, R347, R394 to R418) -/

/-- What a completed service leaves: its status, the sequence number one higher (R399). -/
def Sys2Proof.Cert.Served (s t : State) (st : Nat) : Prop := t.mon.status = st ∧ t.mon.seq = (s.mon.seq + 1) % 2 ^ 32 ∧ t.mon.busy = false

/-- A service the monitor takes: in normal operation, of a length the service needs, in a lifecycle state it is accepted in (R399, R400). -/
abbrev Sys2Proof.Cert.Takes (s : State) (lcs : List Nat) (need : Nat) : Prop :=
  s.mon.busy = false ∧ s.mon.frozen = false ∧ s.mon.stage ≠ 9 ∧ s.mon.lc ∈ lcs ∧ need ≤ s.mon.len

/-- R399, R400, R407 to R411: the services of identity and lifecycle. In a lifecycle state where a service is not accepted its status is 4, with a buffer too small 3, and
no context, partition or store changes, nor the lifecycle state. Otherwise: the identity response begins with the serial number and the lifecycle state; a nonce is fresh 32 bytes and
is remembered; a token that is accepted unlocks or enters RMA, any other fails with 5, and either takes the nonce; relock and provision lead to
the secure state. (That the room for a response counts as the buffer a service needs, and the layout of the identity key pair in the request of Provision, are
read by inference: log 70.) -/
def Obligations.LifecycleServices : Prop :=
  ∀ s : State,
    (∀ x ∈ ([(.readIdentity, ([0, 1, 2, 3], 912)), (.attest, ([1], 880)), (.challenge, ([1], 32)), (.unlock, ([1], 1072)), (.relock, ([2], 0)),
        (.enterRma, ([1, 2], 1072)), (.provision, ([0], 1220)), (.createPartition, ([1, 2], 256)), (.destroyPartition, ([1, 2], 1)),
        (.reassignCluster, ([1, 2], 3)), (.setPairOwner, ([1, 2], 9))] : List (Instr × List Nat × Nat)),
      s.mon.busy = false → s.mon.frozen = false → s.mon.stage ≠ 9 →
      ∃ t, exec x.1 s = .next t ∧ (s.mon.lc ∉ x.2.1 → Served s t 4 ∧ t.ctxs = s.ctxs ∧ t.parts = s.parts ∧ t.mon.lc = s.mon.lc ∧ SameMemory s t) ∧
        (s.mon.lc ∈ x.2.1 → s.mon.len < x.2.2 → Served s t 3 ∧ t.ctxs = s.ctxs ∧ t.parts = s.parts ∧ t.mon.lc = s.mon.lc ∧ SameMemory s t)) ∧
    (Takes s [0, 1, 2, 3] 912 → s.mem.wf = true → ∃ t, exec .readIdentity s = .next t ∧ Served s t 0 ∧ t.ctxs = s.ctxs ∧
      (∀ j < 8, t.mem.read (hostKey (s.mon.buf + j)) = Config.serial.extractLsb' (8 * j) 8) ∧
      t.mem.read (hostKey (s.mon.buf + 8)) = BitVec.ofNat 8 s.mon.lc) ∧
    (Takes s [1] 880 → ∃ t, exec .attest s = .next t ∧ Served s t 0 ∧ t.ctxs = s.ctxs ∧ t.mon.lc = s.mon.lc) ∧
    (Takes s [1] 32 → s.mem.wf = true → ∃ t b, exec .challenge s = .next t ∧ Served s t 0 ∧ t.mon.nonce = some b ∧ b.length = 32 ∧
      (∀ j < 32, t.mem.read (hostKey (s.mon.buf + j)) = b.getD j 0) ∧ t.ctxs = s.ctxs) ∧
    (Takes s [1] 1072 → ∃ t, exec .unlock s = .next t ∧ t.mon.nonce = none ∧ t.ctxs = s.ctxs ∧
      Served s t (if s.tokenOk (s.request 1072) 2 then 0 else 5) ∧ t.mon.lc = (if s.tokenOk (s.request 1072) 2 then 2 else 1) ∧
      (s.tokenOk (s.request 1072) 2 = true → t.mon.keyReg = [])) ∧
    (Takes s [2] 0 → ∃ t, exec .relock s = .next t ∧ Served s t 0 ∧ t.mon.lc = 1 ∧ t.mon.caps = 0 ∧ t.ctxs = s.ctxs) ∧
    (Takes s [1, 2] 1072 → ∃ t, exec .enterRma s = .next t ∧ t.mon.nonce = none ∧ t.ctxs = s.ctxs ∧
      Served s t (if s.tokenOk (s.request 1072) 3 then 0 else 5) ∧ t.mon.lc = (if s.tokenOk (s.request 1072) 3 then 3 else s.mon.lc) ∧
      (s.tokenOk (s.request 1072) 3 = true → t.mon.keyKilled = true)) ∧
    (Takes s [0] 1220 → ∃ t, exec .provision s = .next t ∧ Served s t 0 ∧ t.mon.lc = 1 ∧ t.ctxs = s.ctxs ∧
      t.mon.idModulus = s.mem.readN (hostKey s.mon.buf + 192) 512 ∧ (s.mon.keyKilled = false → t.mon.keyReg = s.mem.readN (hostKey s.mon.buf + 708) 512) ∧
      ∀ i < 3, look [] t.mon.hashes (i + 1) = s.mem.readN (hostKey s.mon.buf + 64 * i) 64)

/-- R345 to R347, R394, R400 to R403: the services on partitions: a partition is created when its record, resources and image are in order (the fused
keys are free: log 7), else nothing changes; one that exists is destroyed when its cores are
at rest, or at once when it has faulted: a unit on one of them makes the monitor busy, and for accesses and commands under way it waits; a cluster handed back
leaves its partition with its stores zero, in the same way; a pair that an A word names which has issued and not completed keeps its owner (1); a pair handed back has no owner, one given to a partition is scrubbed first, and has its owner when the scrub is over; a cluster of the partition goes to a power state. (How a service
waits is log 69, a DESIGN CHOICE; that a faulted partition is destroyed as it stands, that a pair has no owner during its scrub and when its group is free
again are log 73, read by inference.) -/
def Obligations.PartitionServices : Prop :=
  (∀ (s : State) (b : List Byte), Takes s [1, 2] 256 → b = s.request 256 →
    ∃ t, exec .createPartition s = .next t ∧ ((s.createPart b).1 = 0 → Served s t 0 ∧ (t.part (fld b 0 1)).live = true ∧
        (t.part (fld b 0 1)).clusters = fld b 8 8 % 2 ^ 48 ∧ (t.part (fld b 0 1)).svm = BitVec.ofNat 8 (fld b 5 1)) ∧
      ((s.createPart b).1 ≠ 0 → Served s t (s.createPart b).1 ∧ t.parts = s.parts ∧ t.ctxs = s.ctxs)) ∧
  (∀ (s : State) (p : Nat), Takes s [1, 2] 1 → s.mem.readN (hostKey s.mon.buf) 1 = [BitVec.ofNat 8 p] → p < 16 → sortedKeys s.parts = true →
    ∃ t, exec .destroyPartition s = .next t ∧ ((s.part p).live = false → Served s t 6 ∧ t.parts = s.parts) ∧
      ((s.part p).live = true → (let cores := (bitsSet 48 (s.part p).clusters).flatMap coresOfCluster
        ((s.part p).faulted = true ∨ (cores.any s.holdsUnit = false ∧ cores.any s.underWay = false) →
          Served s t 0 ∧ (t.part p).live = false ∧ (∀ q, q ≠ p → t.part q = s.part q)) ∧
        ((s.part p).faulted = false → cores.any s.holdsUnit = true → Served s t 1 ∧ t.parts = s.parts) ∧
        ((s.part p).faulted = false → cores.any s.holdsUnit = false → cores.any s.underWay = true → t.mon.busy = true ∧ t.mon.waits = some p ∧
          t.mon.noDispatch = (s.part p).clusters ∧ (s.now + 1, .destroyPartition) ∈ t.inputs ∧ t.parts = s.parts ∧ t.ctxs = s.ctxs)))) ∧
  (∀ (s : State) (p : Nat), s.mon.busy = true → s.mon.waits = some p → p < 16 → (s.part p).live = true → (s.part p).faulted = false →
    sortedKeys s.parts = true → (let cores := (bitsSet 48 (s.part p).clusters).flatMap coresOfCluster
      cores.any s.holdsUnit = false → cores.any s.underWay = false →
      ∃ t, exec .destroyPartition s = .next t ∧ Served s t 0 ∧ (t.part p).live = false ∧ t.mon.waits = none ∧ t.mon.noDispatch = 0)) ∧
  (∀ (s : State) (d cl p : Nat), Takes s [1, 2] 3 → s.mem.readN (hostKey s.mon.buf) 3 = [BitVec.ofNat 8 d, BitVec.ofNat 8 cl, 255] → d < 4 → cl < 12 →
    s.partOfCluster (12 * d + cl) = some p → (let cores := coresOfCluster (12 * d + cl)
    ∃ t, exec .reassignCluster s = .next t ∧
      (cores.any s.holdsUnit = true → Served s t 1 ∧ t.parts = s.parts) ∧
      (cores.any s.holdsUnit = false → cores.any s.underWay = true → t.mon.busy = true ∧ t.mon.noDispatch = 2 ^ (12 * d + cl) ∧
        (s.now + 1, .reassignCluster) ∈ t.inputs ∧ t.parts = s.parts ∧ t.ctxs = s.ctxs) ∧
      (cores.any s.holdsUnit = false → cores.any s.underWay = false → Served s t 0 ∧ t.partOfCluster (12 * d + cl) ≠ some p ∧
        (∀ c ∈ cores, ∀ o < 0x700000, t.mem.read (gsaOf c o) = 0)))) ∧
  (∀ (s : State) (core a : Nat), Takes s [1, 2] 9 → s.request 9 = bytesOf 4 (gsaOf core 0) ++ bytesOf 4 (2 ^ a) ++ [255] → coreExists core = true → a < 32 →
    (let held := ∃ e ∈ s.ctxs, keyCore e.1 = core ∧ ∃ h ∈ e.2.rest ++ e.2.held, a ∈ h.pairs e.2
     (¬held → s.cmds = [] → ∃ t, exec .setPairOwner s = .next t ∧ Served s t 0 ∧ look 255 t.owners (core * 32 + a) = 255 ∧
       (∀ x, x ≠ core * 32 + a → look 255 t.owners x = look 255 s.owners x) ∧ t.cores = s.cores) ∧
     (held → ∃ t, exec .setPairOwner s = .next t ∧ Served s t 1 ∧ t.owners = s.owners ∧ t.cores = s.cores))) ∧
  (∀ (s : State) (core a q : Nat), Takes s [1, 2] 9 → s.request 9 = bytesOf 4 (gsaOf core 0) ++ bytesOf 4 (2 ^ a) ++ [BitVec.ofNat 8 q] →
    coreExists core = true → a < 32 → q < 16 → (s.part q).live = true → s.cmds = [] →
    (∀ e ∈ s.ctxs, keyCore e.1 = core → ∀ h ∈ e.2.rest ++ e.2.held, a ∉ h.pairs e.2) → look 255 s.owners (core * 32 + a) ≠ q →
    (let till := max s.now (look {} (s.core core).adc (a % 8)).scrub + 1024000
     ∃ t, exec .setPairOwner s = .next t ∧ t.mon.busy = true ∧ t.mon.waits = some (2 ^ 51 + ownerReq core (2 ^ a) q) ∧ t.mon.seq = s.mon.seq ∧
      look 255 t.owners (core * 32 + a) = 255 ∧ look {} (t.core core).pairs a = { born := till } ∧
      look {} (t.core core).adc (a % 8) = { scrub := till } ∧ (till, .setPairOwner) ∈ t.inputs)) ∧
  (∀ (s : State) (core a q : Nat), s.mon.busy = true → s.mon.waits = some (2 ^ 51 + ownerReq core (2 ^ a) q) → core < 512 → a < 32 → q < 16 →
    (s.part q).live = true → ((look {} (s.core core).adc (a % 8)).scrub ≤ s.now → ∃ t, exec .setPairOwner s = .next t ∧ Served s t 0 ∧
        look 255 t.owners (core * 32 + a) = q ∧ (∀ x, x ≠ core * 32 + a → look 255 t.owners x = look 255 s.owners x) ∧ t.cores = s.cores) ∧
      (s.now < (look {} (s.core core).adc (a % 8)).scrub → exec .setPairOwner s = .next s)) ∧
  (∀ (s : State) (p d cl : Nat), Takes s [0, 1, 2, 3] 25 → s.request 25 = [BitVec.ofNat 8 p] ++ bytesOf 8 (16 * d + cl) ++ bytesOf 8 1 ++ bytesOf 8 0 → p < 16 →
    d < 4 → cl < 12 → ∃ t, exec .powerRequest s = .next t ∧
      ((s.part p).clusters.testBit (12 * d + cl) = false → Served s t 6 ∧ t.power = s.power) ∧
      ((s.part p).clusters.testBit (12 * d + cl) = true → look 0 s.power (12 * d + cl) ≠ 3 → Served s t 0 ∧ look 0 t.power (12 * d + cl) = 1))

/-- R404 to R406, R416, R418: a die reset, by service or for an uncorrectable error, gives the die its next incarnation and empties its translations; a corrected error is
counted; a cold or warm start leaves no context, partition, command or access, and zeros in the stores of the dies (what its tests find is free: log 46; a start keeps the owners of pairs: log 73, read by inference; that every store reads as zero rests on log 3). -/
def Obligations.StartsAndResets : Prop :=
  (∀ (s : State) (d : Nat), d < 4 → Quiet s → (let resets (t : State) : Prop := (t.die d).inc = (s.die d).inc + 1 ∧ (t.die d).tlb = [] ∧
      (t.die d).failed = (!s.imageUnchanged d) ∧ (∀ e, e ≠ d → (t.die e).inc = (s.die e).inc);
    (∃ t, exec (.uncorrectableError d) s = .next t ∧ resets t) ∧
    (Takes s [0, 1, 2, 3] 1 → s.mem.readN (hostKey s.mon.buf) 1 = [BitVec.ofNat 8 d] → ∃ t, exec .dieReset s = .next t ∧ Served s t 0 ∧ resets t) ∧
    (∃ t, exec (.correctedError d) s = .next t ∧ look 0 t.mon.corr d = look 0 s.mon.corr d + 1 ∧ SameMemory s t ∧ t.ctxs = s.ctxs ∧ t.dies = s.dies))) ∧
  (∀ s : State, (let started (t : State) : Prop := t.ctxs = [] ∧ t.parts = [] ∧ t.cmds = [] ∧ t.msgs = [] ∧ (t.mon.stage = 8 ∨ t.mon.stage = 9) ∧
      t.mon.frozen = false ∧ t.owners = s.owners ∧ ∀ a < 2 ^ 41, t.mem.read a = 0;
    (∃ t, exec .powerOn s = .next t ∧ started t) ∧ (∃ t, exec .pcieFundamentalReset s = .next t ∧ started t) ∧
    (Takes s [0, 1, 2, 3] 0 → ∃ t, exec .warmStart s = .next t ∧ started t) ∧
    (s.mon.busy = false → s.mon.frozen = false → s.mon.stage = 9 → s.mon.lc ≤ 3 → 256 ≤ s.mon.len →
      (s.images4.map List.length).foldl (· + ·) 0 ≤ s.mon.len → ∃ t, exec .recoveryImage s = .next t ∧
        (s.images4.all s.dieImageOk = true → started t ∧ t.mon.flash = (List.range 4).zip s.images4) ∧
        (s.images4.all s.dieImageOk = false → Served s t 5 ∧ t.mon.flash = s.mon.flash ∧ t.mon.stage = 9))))

/-- R376, R394, R399, R401, R412 to R415: debug requests (a freeze leaves every command as it is), the calls of the monitor, which wait while it is busy (one that asks for a power state of a cluster of the caller's partition is done, and
answers 0), a cluster's return to P0, and the host's accesses to device memory. (That the host uses virtual addresses of a
partition is log 79; that a sleeping cluster's supervisors are frozen and that a bad argument gives status 2 are log 71; that a debug request has its effect at
once is log 72: all read by inference.) -/
def Obligations.DebugCallsAndPower : Prop :=
  (∀ (s : State) (core h : Nat), Takes s [0, 1, 2, 3] 24 → s.mon.lc = 3 → (s.request 24).drop 4 = bytesOf 4 (gsaOf core 0) ++ (s.request 24).drop 8 →
    fld (s.request 24) 1 1 = h → h < 8 → coreExists core = true → s.power = [] →
    (∃ t, exec .debugHalt s = .next t ∧ Served s t 0 ∧ (let c := s.ctx (ctxKey core h)
      c.role ≠ .free → c.role ≠ .reserved → (t.ctx (ctxKey core h)).why.getLsbD 1 = true ∧ (c.frozen = none → (t.ctx (ctxKey core h)).freezeReq ≠ none))) ∧
    (∃ t, exec .debugStep s = .next t ∧ Served s t 0 ∧ ((s.ctx (ctxKey core h)).frozen = some 15 → (s.ctx (ctxKey core h)).why.getLsbD 1 = true →
      (t.ctx (ctxKey core h)).frozen = none ∧ (t.ctx (ctxKey core h)).dbgStep = true)) ∧
    (∃ t, exec .debugResume s = .next t ∧ Served s t 0 ∧ ((s.ctx (ctxKey core h)).frozen = some 15 → (s.ctx (ctxKey core h)).why = 2 →
      (t.ctx (ctxKey core h)).frozen = none)) ∧
    (∃ t, exec .traceOn s = .next t ∧ Served s t 0 ∧ (t.core core).trace = some (fld (s.request 24) 8 8, 0, fld (s.request 24) 16 4, s.now)) ∧
    (∃ t, exec .traceOff s = .next t ∧ Served s t 0 ∧ (t.core core).trace = none) ∧
    (∃ t, exec .debugFreeze s = .next t ∧ Served s t 0 ∧ t.mon.frozen = true ∧ t.cmds = s.cmds)) ∧
  (∀ (s : State) (k : Nat), s.mon.busy = true → exec (.monitorPowerCall k) s = .next s ∧ exec (.monitorPageTableRootCall k) s = .next s) ∧
  (∀ (s : State) (k p d cl : Nat), s.isSuper k = true → (s.ctx k).frozen = some 8 → (s.ctx k).why = 0 → s.mon.busy = false →
    s.mon.calls.head? = some (k, 0) → s.partOf (keyCore k) = some p → d < 4 → cl < 12 → (s.part p).clusters.testBit (12 * d + cl) = true →
    ((s.ctx k).live.readG 1).toNat = 16 * d + cl → look 0 s.power (12 * d + cl) ≠ 3 →
    (let ended (t : State) : Prop := (t.ctx k).live.readG 1 = 0 ∧ (∀ n, (k, n) ∉ t.mon.calls) ∧ t.parts = s.parts ∧ SameMemory s t
     (∀ x, (x = 1 ∨ x = 2) → ((s.ctx k).live.readG 2).toNat = x → ∃ t, exec (.monitorPowerCall k) s = .next t ∧ ended t ∧
       look 0 t.power (12 * d + cl) = x ∧ (t.ctx k).frozen = (if keyCore k ∈ coresOfCluster (12 * d + cl) then some 15 else none)) ∧
     (((s.ctx k).live.readG 2).toNat = 0 → ∃ t, exec (.monitorPowerCall k) s = .next t ∧ ended t ∧ t.power = s.power ∧ (t.ctx k).frozen = none ∧
       (look 0 s.power (12 * d + cl) ≠ 0 → has t.waking (12 * d + cl) = true)))) ∧
  (∀ (s : State) (k n : Nat), s.isSuper k = true → (s.ctx k).frozen = some 8 → (s.ctx k).why = 0 → s.mon.busy = false → s.mon.calls.head? = some (k, n) →
    (let ends (t : State) (st : Nat) : Prop := (t.ctx k).frozen = none ∧ (t.ctx k).live.readG 1 = BitVec.ofNat 64 st ∧ (∀ j, (k, j) ∉ t.mon.calls) ∧
      (t.ctx k).tval = (s.ctx k).tval ∧ (∀ j, j ≠ 1 → (t.ctx k).live.readG j = (s.ctx k).live.readG j);
    (n = 0 → ((s.ctx k).live.readG 1).toNat = 15 → ∃ t, exec (.monitorPowerCall k) s = .next t ∧ ends t 2 ∧ t.power = s.power) ∧
    (2 ≤ n → ∃ t, exec (.monitorPageTableRootCall k) s = .next t ∧ ends t 3 ∧ t.parts = s.parts) ∧
    (n = 1 → ∃ t, exec (.monitorPageTableRootCall k) s = .next t ∧
      (let pa := ((s.ctx k).live.readG 1).toNat
       let p := (s.partOf (keyCore k)).getD 16
       (pa % 0x20000 ≠ 0 → ends t 3 ∧ (t.part p).ptroot = (s.part p).ptroot) ∧
       (pa % 0x20000 = 0 → s.ownsFrame (s.part p) false pa 0x20000 = true → ends t 0 ∧ (t.part p).ptroot = pa))))) ∧
  (∀ (s : State) (d cl k : Nat), d < 4 → cl < 12 → (look 0 s.power (12 * d + cl) = 1 ∨ look 0 s.power (12 * d + cl) = 2) → has s.waking (12 * d + cl) = true →
    look 0 s.waking (12 * d + cl) ≤ s.now + 1 → sortedKeys s.power = true → keyCore k ∈ coresOfCluster (12 * d + cl) →
    ∃ t, exec (.returnToP0 d cl) s = .next t ∧ look 0 t.power (12 * d + cl) = 0 ∧ SameMemory s t ∧ SameRegisters s t ∧
      ((s.ctx k).why = 4 → (s.ctx k).frozen = some 15 → (t.ctx k).frozen = none)) ∧
  (∀ (s : State) (p a : Nat) (b : Byte) (l : Leaf), exec (.hostCxlMemAccess false p a 1 [b]) s = .next s ∧
    ((s.part p).live = true → s.walk p a = some l → l.w = true → l.res = true → l.cz = false →
      s.lost l = false → s.mem.wf = true →
      ∃ t, exec (.hostCxlMemAccess true p a 1 [b]) s = .next t ∧ t.mem.read (physKey l.host (l.pa + (a - l.base))) = b ∧
        (∀ c, c ≠ physKey l.host (l.pa + (a - l.base)) → t.mem.read c = s.mem.read c) ∧ t.ctxs = s.ctxs))

/-! ### Invariants and reset -/

/-- The model's own invariant (log 3: the canonical form and the byte 0 of an unlisted address are the model's choice): whatever happens in a step (stores, atomics, copies, table walks, loads of images), the store stays in canonical form: addresses rise, no entry reads as an unlisted byte. -/
def Obligations.StepKeepsSound : Prop := ∀ s t : State, Sound s → step s = .next t → Sound t

/-- R2, R281, R313, R342, R398, R404: what reset leaves: stage 1, no partition, every context free with `p0` true, link ends at step 2 with back-off on and a threshold of
16, every byte of every store as an unlisted byte (log 3), every other register of the contexts, cores, dies, lines and slots at 0 (the spec gives a reset value, or log 4
does). -/
def Obligations.ResetValues : Prop :=
  Sound State.reset ∧ State.reset.mon.stage = 1 ∧ State.reset.now = 0 ∧
  (∀ k, State.reset.ctx k = {} ∧ (let c := State.reset.ctx k
    c.role = .free ∧ c.live.pc = 0 ∧ c.live.readP 0 = true ∧ (∀ n, 0 < n → c.live.readP n = false) ∧ (∀ n, c.live.readG n = 0) ∧ (∀ n, c.live.readB n = 0) ∧
    (∀ n, (c.live.desc n).pack = 0) ∧ c.live.coin = 0 ∧ c.live.vstat = 0 ∧ c.cpat = 0 ∧ c.xpat = [] ∧ c.wdog = 0 ∧
    (∀ x ∈ ([0x020, 0x021, 0x022, 0x023, 0x024, 0x02B] : List Nat), c.csr x 0 = 0) ∧ (∀ n, look {} c.brk n = {}) ∧ (∀ n, c.token n = {}) ∧
    (c.live.loop false).pack = (0, 0) ∧ (c.live.loop true).pack = (0, 0))) ∧
  (∀ c, State.reset.core c = {} ∧ (let x := State.reset.core c
    (∀ b, look 0 x.fmt b = 0) ∧ (∀ g, (look {} x.adc g).flags = 0 ∧ (look {} x.adc g).seed = 0) ∧ (∀ b, look 0 x.obSeq b = 0) ∧
    (∀ a, look {} x.pairs a = {}) ∧ x.claim = 15 ∧ x.claims = 0 ∧ x.primary = 0 ∧ x.halted = false)) ∧
  (∀ d, State.reset.die d = {} ∧ (let x := State.reset.die d
    x.inc = 0 ∧ x.fwlvl = 0 ∧ x.stale = 0 ∧ x.rloss = 0 ∧ x.tokens = [] ∧ x.evq = [] ∧ x.evEn = false ∧ x.tlb = [] ∧ (∀ q, look 0 x.rr q = 0))) ∧
  (∀ d n, (State.reset.link d n).rate = 2 ∧ (State.reset.link d n).abo = true ∧ (State.reset.link d n).rthr = 16 ∧ (State.reset.link d n).up = false ∧
    (State.reset.link d n).flits = 0 ∧ (State.reset.link d n).crc = 0 ∧ (State.reset.link d n).rply = 0) ∧
  (∀ l, State.reset.line l = {} ∧ (State.reset.line l).synto = 0 ∧ (State.reset.line l).eps = 0 ∧ (State.reset.line l).lagcyc = 0) ∧
  (∀ p, State.reset.part p = {} ∧ (State.reset.part p).live = false ∧ (State.reset.part p).mbox = [] ∧ (State.reset.part p).dropped = 0) ∧
  (∀ n, State.reset.slot n = {} ∧ (State.reset.slot n).state = 0) ∧ (∀ x, look 255 State.reset.owners x = 255) ∧
  State.reset.msgs = [] ∧ State.reset.cmds = [] ∧ State.reset.levels = [] ∧ State.reset.units = [] ∧
  State.reset.mon.status = 0 ∧ State.reset.mon.busy = false ∧ State.reset.mon.buf = 0 ∧ State.reset.mon.len = 0 ∧ State.reset.mon.seq = 0 ∧
  (∀ a, State.reset.mem.read a = 0)
end

