-- ==== Sys2Proof/Laws/Map.lean ====
section
/-! SUPPORT. Laws of the sparse tables and of the byte store. -/

namespace Sys2Proof.Machine

variable {α : Type}

@[simp] theorem look_nil (d : α) (k : Nat) : look d [] k = d := rfl

@[simp] theorem look_put_same (d : α) (m : SMap α) (k : Nat) (v : α) : look d (put m k v) k = v := by
  induction m with
  | nil => simp [put, look]
  | cons e m ih =>
    obtain ⟨j, w⟩ := e
    simp only [put]
    split
    · simp [look]
    · split
      · simp [look]
      · rename_i h1 h2
        simp [look, h1, ih]

theorem look_put_other (d : α) (m : SMap α) {k j : Nat} (v : α) (h : j ≠ k) : look d (put m k v) j = look d m j := by
  induction m with
  | nil => simp [put, look, h]
  | cons e m ih =>
    obtain ⟨i, w⟩ := e
    simp only [put]
    split
    · rename_i hk; subst hk; simp [look, h]
    · split
      · simp [look, h]
      · simp only [look]; split <;> simp [ih]

theorem look_put (d : α) (m : SMap α) (k j : Nat) (v : α) : look d (put m k v) j = if j = k then v else look d m j := by
  split
  · rename_i h; subst h; simp
  · rename_i h; exact look_put_other d m v h

@[simp] theorem has_put_same (m : SMap α) (k : Nat) (v : α) : has (put m k v) k = true := by
  induction m with
  | nil => simp [put, has]
  | cons e m ih =>
    obtain ⟨j, w⟩ := e
    simp only [put]
    split
    · simp [has]
    · split
      · simp [has]
      · simp [has, ih]

/-- A lower bound of the keys of a table. -/
def allAbove (b : Nat) : SMap α → Prop
  | [] => True
  | (j, _) :: m => b < j ∧ allAbove b m

theorem sortedKeys_cons {j : Nat} {w : α} {m : SMap α} :
    sortedKeys ((j, w) :: m) = true ↔ allAbove j m ∧ sortedKeys m = true := by
  induction m generalizing j w with
  | nil => simp [sortedKeys, allAbove]
  | cons e m ih =>
    obtain ⟨i, v⟩ := e
    simp only [sortedKeys, Bool.and_eq_true, decide_eq_true_eq, allAbove]
    constructor
    · rintro ⟨h1, h2⟩
      refine ⟨⟨h1, ?_⟩, h2⟩
      have := (ih.mp h2).1
      clear ih h2
      induction m with
      | nil => trivial
      | cons f m ihm => exact ⟨lt_trans h1 this.1, ihm this.2⟩
    · rintro ⟨⟨h1, -⟩, h2⟩; exact ⟨h1, h2⟩

theorem allAbove_put {b k : Nat} {v : α} {m : SMap α} (hb : b < k) (h : allAbove b m) : allAbove b (put m k v) := by
  induction m with
  | nil => exact ⟨hb, trivial⟩
  | cons e m ih =>
    obtain ⟨j, w⟩ := e
    simp only [put]
    split
    · exact ⟨hb, h.2⟩
    · split
      · exact ⟨hb, h⟩
      · exact ⟨h.1, ih h.2⟩

theorem allAbove_weaken {a b : Nat} {m : SMap α} (hab : a ≤ b) (h : allAbove b m) : allAbove a m := by
  induction m with
  | nil => trivial
  | cons e m ih => exact ⟨lt_of_le_of_lt hab h.1, ih h.2⟩

/-- A write keeps the keys of a table sorted. -/
theorem sortedKeys_put {m : SMap α} (k : Nat) (v : α) (h : sortedKeys m = true) : sortedKeys (put m k v) = true := by
  induction m with
  | nil => rfl
  | cons e m ih =>
    obtain ⟨j, w⟩ := e
    have h' := sortedKeys_cons.mp h
    simp only [put]
    split
    · rename_i hk; subst hk; exact sortedKeys_cons.mpr h'
    · split
      · rename_i hk
        exact sortedKeys_cons.mpr ⟨⟨hk, allAbove_weaken (le_of_lt hk) h'.1⟩, h⟩
      · rename_i h1 h2
        exact sortedKeys_cons.mpr ⟨allAbove_put (by omega) h'.1, ih h'.2⟩

theorem allAbove_drop1 {b k : Nat} {m : SMap α} (h : allAbove b m) : allAbove b (drop1 m k) := by
  induction m with
  | nil => trivial
  | cons e m ih =>
    obtain ⟨j, w⟩ := e
    simp only [drop1]
    split
    · exact h.2
    · exact ⟨h.1, ih h.2⟩

/-- Removing an entry keeps the keys sorted. -/
theorem sortedKeys_drop1 {m : SMap α} (k : Nat) (h : sortedKeys m = true) : sortedKeys (drop1 m k) = true := by
  induction m with
  | nil => rfl
  | cons e m ih =>
    obtain ⟨j, w⟩ := e
    have h' := sortedKeys_cons.mp h
    simp only [drop1]
    split
    · exact h'.2
    · exact sortedKeys_cons.mpr ⟨allAbove_drop1 h'.1, ih h'.2⟩

theorem allAbove_filter {b : Nat} {m : SMap α} (p : Nat × α → Bool) (h : allAbove b m) : allAbove b (m.filter p) := by
  induction m with
  | nil => trivial
  | cons e m ih =>
    rw [List.filter_cons]
    split
    · exact ⟨h.1, ih h.2⟩
    · exact ih h.2

/-- Dropping entries keeps the keys sorted. -/
theorem sortedKeys_filter {m : SMap α} (p : Nat × α → Bool) (h : sortedKeys m = true) : sortedKeys (m.filter p) = true := by
  induction m with
  | nil => rfl
  | cons e m ih =>
    obtain ⟨j, w⟩ := e
    have h' := sortedKeys_cons.mp h
    rw [List.filter_cons]
    split
    · exact sortedKeys_cons.mpr ⟨allAbove_filter p h'.1, ih h'.2⟩
    · exact ih h'.2

theorem look_of_allAbove (d : α) {m : SMap α} {k b : Nat} (hk : k ≤ b) (h : allAbove b m) : look d m k = d := by
  induction m with
  | nil => rfl
  | cons e m ih =>
    obtain ⟨j, w⟩ := e
    have : k ≠ j := by have := h.1; omega
    simp [look, this, ih h.2]

theorem look_drop1_same (d : α) {m : SMap α} (k : Nat) (h : sortedKeys m = true) : look d (drop1 m k) k = d := by
  induction m with
  | nil => rfl
  | cons e m ih =>
    obtain ⟨j, w⟩ := e
    have h' := sortedKeys_cons.mp h
    simp only [drop1]
    split
    · rename_i hk; subst hk; exact look_of_allAbove d le_rfl h'.1
    · rename_i hk; simp [look, hk, ih h'.2]

theorem look_drop1_other (d : α) (m : SMap α) {k j : Nat} (h : j ≠ k) : look d (drop1 m k) j = look d m j := by
  induction m with
  | nil => rfl
  | cons e m ih =>
    obtain ⟨i, w⟩ := e
    simp only [drop1]
    split
    · rename_i hk; subst hk; simp [look, h]
    · simp only [look]; split <;> simp [ih]

/-! ### The store -/

theorem noBlank_put {m : Memory} {k : Nat} {b : Byte} (hb : b ≠ blankByte) (h : noBlank m = true) : noBlank (put m k b) = true := by
  induction m with
  | nil => simp [put, noBlank, hb]
  | cons e m ih =>
    obtain ⟨j, w⟩ := e
    simp only [noBlank, Bool.and_eq_true, bne_iff_ne] at h
    simp only [put]
    split
    · simp [noBlank, hb, h.2]
    · split
      · simp [noBlank, hb, h.1, h.2]
      · simp [noBlank, h.1, ih h.2]

theorem noBlank_drop1 {m : Memory} {k : Nat} (h : noBlank m = true) : noBlank (drop1 m k) = true := by
  induction m with
  | nil => rfl
  | cons e m ih =>
    obtain ⟨j, w⟩ := e
    simp only [noBlank, Bool.and_eq_true, bne_iff_ne] at h
    simp only [drop1]
    split
    · exact h.2
    · simp [noBlank, h.1, ih h.2]

theorem noBlank_filter {m : Memory} (p : Nat × Byte → Bool) (h : noBlank m = true) : noBlank (m.filter p) = true := by
  induction m with
  | nil => rfl
  | cons e m ih =>
    obtain ⟨j, w⟩ := e
    simp only [noBlank, Bool.and_eq_true, bne_iff_ne] at h
    rw [List.filter_cons]
    split
    · simp [noBlank, h.1, ih h.2]
    · exact ih h.2

/-- Writing a byte keeps the canonical form. -/
theorem Memory.wf_write {m : Memory} (a : Nat) (b : Byte) (h : m.wf = true) : (m.write a b).wf = true := by
  simp only [Memory.wf, Bool.and_eq_true] at h ⊢
  unfold Memory.write
  split
  · exact ⟨sortedKeys_drop1 a h.1, noBlank_drop1 h.2⟩
  · rename_i hb
    exact ⟨sortedKeys_put a b h.1, noBlank_put hb h.2⟩

/-- Writing bytes keeps the canonical form. -/
theorem Memory.wf_writeN {m : Memory} (a : Nat) (bs : List Byte) (h : m.wf = true) : (m.writeN a bs).wf = true := by
  induction bs generalizing m a with
  | nil => exact h
  | cons b bs ih => exact ih (a + 1) (Memory.wf_write a b h)

/-- Dropping entries keeps the canonical form. -/
theorem Memory.wf_filter {m : Memory} (p : Nat × Byte → Bool) (h : m.wf = true) :
    Memory.wf (m.filter p) = true := by
  simp only [Memory.wf, Bool.and_eq_true] at h ⊢
  exact ⟨sortedKeys_filter p h.1, noBlank_filter p h.2⟩

/-- Clearing a range keeps the canonical form. -/
theorem Memory.wf_clear {m : Memory} (a n : Nat) (h : m.wf = true) : (m.clear a n).wf = true := Memory.wf_filter _ h

/-- A read after a write to the same address gives the byte written. -/
theorem Memory.read_write_same {m : Memory} (a : Nat) (b : Byte) (h : m.wf = true) : (m.write a b).read a = b := by
  simp only [Memory.wf, Bool.and_eq_true] at h
  unfold Memory.write Memory.read
  split
  · rename_i hb; rw [look_drop1_same _ _ h.1, hb]
  · simp

/-- A write leaves every other address alone. -/
theorem Memory.read_write_other (m : Memory) {a c : Nat} (b : Byte) (h : c ≠ a) : (m.write a b).read c = m.read c := by
  unfold Memory.write Memory.read
  split
  · exact look_drop1_other _ _ h
  · exact look_put_other _ _ _ h

/-- A write of bytes leaves every address outside them alone. -/
theorem Memory.read_writeN_other (m : Memory) {a c : Nat} (bs : List Byte) (h : c < a ∨ a + bs.length ≤ c) :
    (m.writeN a bs).read c = m.read c := by
  induction bs generalizing m a with
  | nil => rfl
  | cons b bs ih =>
    simp only [List.length_cons] at h
    simp only [Memory.writeN]
    rw [ih _ (by omega), Memory.read_write_other _ _ (by omega)]

/-- A read after a write of bytes gives the byte written there. -/
theorem Memory.read_writeN_at {m : Memory} (a i : Nat) (bs : List Byte) (h : m.wf = true) (hi : i < bs.length) :
    (m.writeN a bs).read (a + i) = bs[i] := by
  induction bs generalizing m a i with
  | nil => simp at hi
  | cons b bs ih =>
    simp only [Memory.writeN]
    cases i with
    | zero => rw [Memory.read_writeN_other _ _ (by omega)]; simp [Memory.read_write_same a b h]
    | succ i =>
      have := ih (a + 1) i (Memory.wf_write a b h) (by simpa using hi)
      rw [show a + (i + 1) = a + 1 + i by omega, this]; simp

theorem look_filter_keep (d : α) (m : SMap α) (p : Nat × α → Bool) (c : Nat) (h : ∀ v, p (c, v) = true) :
    look d (m.filter p) c = look d m c := by
  induction m with
  | nil => rfl
  | cons e m ih =>
    obtain ⟨j, w⟩ := e
    rw [List.filter_cons]
    split
    · simp only [look]; split <;> simp [ih]
    · rename_i hp
      have : c ≠ j := by rintro rfl; exact hp (h w)
      simp [look, this, ih]

theorem look_filter_drop (d : α) (m : SMap α) (p : Nat × α → Bool) (c : Nat) (h : ∀ v, p (c, v) = false) :
    look d (m.filter p) c = d := by
  induction m with
  | nil => rfl
  | cons e m ih =>
    obtain ⟨j, w⟩ := e
    rw [List.filter_cons]
    split
    · rename_i hp
      have : c ≠ j := by rintro rfl; simp [h] at hp
      simp [look, this, ih]
    · exact ih

/-- A cleared range reads blank, and the rest as before. -/
theorem Memory.read_clear (m : Memory) (a n c : Nat) :
    (m.clear a n).read c = if a ≤ c ∧ c < a + n then blankByte else m.read c := by
  unfold Memory.clear Memory.read
  split
  · rename_i h
    exact look_filter_drop _ _ _ _ (by intro v; simp; omega)
  · rename_i h
    exact look_filter_keep _ _ _ _ (by intro v; simp; omega)

end Sys2Proof.Machine
end

