-- ==== Sys2Proof/Laws/State.lean ====
section
/-! SUPPORT. What each update of the state leaves alone, field by field; reading back what was written. -/

namespace Sys2Proof.Machine

/-! ### `State.setCtx` -/

@[simp] theorem State.setCtx_now (s : State) (k : Nat) (c : Ctx) : (s.setCtx k c).now = s.now := rfl
@[simp] theorem State.setCtx_mem (s : State) (k : Nat) (c : Ctx) : (s.setCtx k c).mem = s.mem := rfl
@[simp] theorem State.setCtx_tags (s : State) (k : Nat) (c : Ctx) : (s.setCtx k c).tags = s.tags := rfl
@[simp] theorem State.setCtx_msgs (s : State) (k : Nat) (c : Ctx) : (s.setCtx k c).msgs = s.msgs := rfl
@[simp] theorem State.setCtx_cmds (s : State) (k : Nat) (c : Ctx) : (s.setCtx k c).cmds = s.cmds := rfl
@[simp] theorem State.setCtx_cores (s : State) (k : Nat) (c : Ctx) : (s.setCtx k c).cores = s.cores := rfl
@[simp] theorem State.setCtx_dies (s : State) (k : Nat) (c : Ctx) : (s.setCtx k c).dies = s.dies := rfl
@[simp] theorem State.setCtx_links (s : State) (k : Nat) (c : Ctx) : (s.setCtx k c).links = s.links := rfl
@[simp] theorem State.setCtx_lines (s : State) (k : Nat) (c : Ctx) : (s.setCtx k c).lines = s.lines := rfl
@[simp] theorem State.setCtx_parts (s : State) (k : Nat) (c : Ctx) : (s.setCtx k c).parts = s.parts := rfl
@[simp] theorem State.setCtx_owners (s : State) (k : Nat) (c : Ctx) : (s.setCtx k c).owners = s.owners := rfl
@[simp] theorem State.setCtx_slots (s : State) (k : Nat) (c : Ctx) : (s.setCtx k c).slots = s.slots := rfl
@[simp] theorem State.setCtx_levels (s : State) (k : Nat) (c : Ctx) : (s.setCtx k c).levels = s.levels := rfl
@[simp] theorem State.setCtx_units (s : State) (k : Nat) (c : Ctx) : (s.setCtx k c).units = s.units := rfl
@[simp] theorem State.setCtx_pipes (s : State) (k : Nat) (c : Ctx) : (s.setCtx k c).pipes = s.pipes := rfl
@[simp] theorem State.setCtx_mon (s : State) (k : Nat) (c : Ctx) : (s.setCtx k c).mon = s.mon := rfl
@[simp] theorem State.setCtx_iss (s : State) (k : Nat) (c : Ctx) : (s.setCtx k c).iss = s.iss := rfl
@[simp] theorem State.setCtx_agenda (s : State) (k : Nat) (c : Ctx) : (s.setCtx k c).agenda = s.agenda := rfl
@[simp] theorem State.setCtx_turn (s : State) (k : Nat) (c : Ctx) : (s.setCtx k c).turn = s.turn := rfl
@[simp] theorem State.setCtx_free (s : State) (k : Nat) (c : Ctx) : (s.setCtx k c).free = s.free := rfl
@[simp] theorem State.setCtx_flying (s : State) (k : Nat) (c : Ctx) : (s.setCtx k c).flying = s.flying := rfl
@[simp] theorem State.setCtx_xfers (s : State) (k : Nat) (c : Ctx) : (s.setCtx k c).xfers = s.xfers := rfl
@[simp] theorem State.setCtx_images (s : State) (k : Nat) (c : Ctx) : (s.setCtx k c).images = s.images := rfl
@[simp] theorem State.setCtx_cancels (s : State) (k : Nat) (c : Ctx) : (s.setCtx k c).cancels = s.cancels := rfl
@[simp] theorem State.setCtx_mbs (s : State) (k : Nat) (c : Ctx) : (s.setCtx k c).mbs = s.mbs := rfl
@[simp] theorem State.setCtx_hostRegs (s : State) (k : Nat) (c : Ctx) : (s.setCtx k c).hostRegs = s.hostRegs := rfl
@[simp] theorem State.setCtx_cwEvq (s : State) (k : Nat) (c : Ctx) : (s.setCtx k c).cwEvq = s.cwEvq := rfl
@[simp] theorem State.setCtx_cwEvwait (s : State) (k : Nat) (c : Ctx) : (s.setCtx k c).cwEvwait = s.cwEvwait := rfl
@[simp] theorem State.setCtx_power (s : State) (k : Nat) (c : Ctx) : (s.setCtx k c).power = s.power := rfl
@[simp] theorem State.setCtx_waking (s : State) (k : Nat) (c : Ctx) : (s.setCtx k c).waking = s.waking := rfl
@[simp] theorem State.setCtx_selfRef (s : State) (k : Nat) (c : Ctx) : (s.setCtx k c).selfRef = s.selfRef := rfl
@[simp] theorem State.setCtx_saved (s : State) (k : Nat) (c : Ctx) : (s.setCtx k c).saved = s.saved := rfl
@[simp] theorem State.setCtx_shelf (s : State) (k : Nat) (c : Ctx) : (s.setCtx k c).shelf = s.shelf := rfl
@[simp] theorem State.setCtx_inputs (s : State) (k : Nat) (c : Ctx) : (s.setCtx k c).inputs = s.inputs := rfl
@[simp] theorem State.setCtx_nextId (s : State) (k : Nat) (c : Ctx) : (s.setCtx k c).nextId = s.nextId := rfl

/-! ### `State.updCtx` -/

@[simp] theorem State.updCtx_now (s : State) (k : Nat) (f : Ctx → Ctx) : (s.updCtx k f).now = s.now := rfl
@[simp] theorem State.updCtx_mem (s : State) (k : Nat) (f : Ctx → Ctx) : (s.updCtx k f).mem = s.mem := rfl
@[simp] theorem State.updCtx_tags (s : State) (k : Nat) (f : Ctx → Ctx) : (s.updCtx k f).tags = s.tags := rfl
@[simp] theorem State.updCtx_msgs (s : State) (k : Nat) (f : Ctx → Ctx) : (s.updCtx k f).msgs = s.msgs := rfl
@[simp] theorem State.updCtx_cmds (s : State) (k : Nat) (f : Ctx → Ctx) : (s.updCtx k f).cmds = s.cmds := rfl
@[simp] theorem State.updCtx_cores (s : State) (k : Nat) (f : Ctx → Ctx) : (s.updCtx k f).cores = s.cores := rfl
@[simp] theorem State.updCtx_dies (s : State) (k : Nat) (f : Ctx → Ctx) : (s.updCtx k f).dies = s.dies := rfl
@[simp] theorem State.updCtx_links (s : State) (k : Nat) (f : Ctx → Ctx) : (s.updCtx k f).links = s.links := rfl
@[simp] theorem State.updCtx_lines (s : State) (k : Nat) (f : Ctx → Ctx) : (s.updCtx k f).lines = s.lines := rfl
@[simp] theorem State.updCtx_parts (s : State) (k : Nat) (f : Ctx → Ctx) : (s.updCtx k f).parts = s.parts := rfl
@[simp] theorem State.updCtx_owners (s : State) (k : Nat) (f : Ctx → Ctx) : (s.updCtx k f).owners = s.owners := rfl
@[simp] theorem State.updCtx_slots (s : State) (k : Nat) (f : Ctx → Ctx) : (s.updCtx k f).slots = s.slots := rfl
@[simp] theorem State.updCtx_levels (s : State) (k : Nat) (f : Ctx → Ctx) : (s.updCtx k f).levels = s.levels := rfl
@[simp] theorem State.updCtx_units (s : State) (k : Nat) (f : Ctx → Ctx) : (s.updCtx k f).units = s.units := rfl
@[simp] theorem State.updCtx_pipes (s : State) (k : Nat) (f : Ctx → Ctx) : (s.updCtx k f).pipes = s.pipes := rfl
@[simp] theorem State.updCtx_mon (s : State) (k : Nat) (f : Ctx → Ctx) : (s.updCtx k f).mon = s.mon := rfl
@[simp] theorem State.updCtx_iss (s : State) (k : Nat) (f : Ctx → Ctx) : (s.updCtx k f).iss = s.iss := rfl
@[simp] theorem State.updCtx_agenda (s : State) (k : Nat) (f : Ctx → Ctx) : (s.updCtx k f).agenda = s.agenda := rfl
@[simp] theorem State.updCtx_turn (s : State) (k : Nat) (f : Ctx → Ctx) : (s.updCtx k f).turn = s.turn := rfl
@[simp] theorem State.updCtx_free (s : State) (k : Nat) (f : Ctx → Ctx) : (s.updCtx k f).free = s.free := rfl
@[simp] theorem State.updCtx_flying (s : State) (k : Nat) (f : Ctx → Ctx) : (s.updCtx k f).flying = s.flying := rfl
@[simp] theorem State.updCtx_xfers (s : State) (k : Nat) (f : Ctx → Ctx) : (s.updCtx k f).xfers = s.xfers := rfl
@[simp] theorem State.updCtx_images (s : State) (k : Nat) (f : Ctx → Ctx) : (s.updCtx k f).images = s.images := rfl
@[simp] theorem State.updCtx_cancels (s : State) (k : Nat) (f : Ctx → Ctx) : (s.updCtx k f).cancels = s.cancels := rfl
@[simp] theorem State.updCtx_mbs (s : State) (k : Nat) (f : Ctx → Ctx) : (s.updCtx k f).mbs = s.mbs := rfl
@[simp] theorem State.updCtx_hostRegs (s : State) (k : Nat) (f : Ctx → Ctx) : (s.updCtx k f).hostRegs = s.hostRegs := rfl
@[simp] theorem State.updCtx_cwEvq (s : State) (k : Nat) (f : Ctx → Ctx) : (s.updCtx k f).cwEvq = s.cwEvq := rfl
@[simp] theorem State.updCtx_cwEvwait (s : State) (k : Nat) (f : Ctx → Ctx) : (s.updCtx k f).cwEvwait = s.cwEvwait := rfl
@[simp] theorem State.updCtx_power (s : State) (k : Nat) (f : Ctx → Ctx) : (s.updCtx k f).power = s.power := rfl
@[simp] theorem State.updCtx_waking (s : State) (k : Nat) (f : Ctx → Ctx) : (s.updCtx k f).waking = s.waking := rfl
@[simp] theorem State.updCtx_selfRef (s : State) (k : Nat) (f : Ctx → Ctx) : (s.updCtx k f).selfRef = s.selfRef := rfl
@[simp] theorem State.updCtx_saved (s : State) (k : Nat) (f : Ctx → Ctx) : (s.updCtx k f).saved = s.saved := rfl
@[simp] theorem State.updCtx_shelf (s : State) (k : Nat) (f : Ctx → Ctx) : (s.updCtx k f).shelf = s.shelf := rfl
@[simp] theorem State.updCtx_inputs (s : State) (k : Nat) (f : Ctx → Ctx) : (s.updCtx k f).inputs = s.inputs := rfl
@[simp] theorem State.updCtx_nextId (s : State) (k : Nat) (f : Ctx → Ctx) : (s.updCtx k f).nextId = s.nextId := rfl

/-! ### `State.setCore` -/

@[simp] theorem State.setCore_now (s : State) (c : Nat) (x : Core) : (s.setCore c x).now = s.now := rfl
@[simp] theorem State.setCore_mem (s : State) (c : Nat) (x : Core) : (s.setCore c x).mem = s.mem := rfl
@[simp] theorem State.setCore_tags (s : State) (c : Nat) (x : Core) : (s.setCore c x).tags = s.tags := rfl
@[simp] theorem State.setCore_msgs (s : State) (c : Nat) (x : Core) : (s.setCore c x).msgs = s.msgs := rfl
@[simp] theorem State.setCore_cmds (s : State) (c : Nat) (x : Core) : (s.setCore c x).cmds = s.cmds := rfl
@[simp] theorem State.setCore_ctxs (s : State) (c : Nat) (x : Core) : (s.setCore c x).ctxs = s.ctxs := rfl
@[simp] theorem State.setCore_dies (s : State) (c : Nat) (x : Core) : (s.setCore c x).dies = s.dies := rfl
@[simp] theorem State.setCore_links (s : State) (c : Nat) (x : Core) : (s.setCore c x).links = s.links := rfl
@[simp] theorem State.setCore_lines (s : State) (c : Nat) (x : Core) : (s.setCore c x).lines = s.lines := rfl
@[simp] theorem State.setCore_parts (s : State) (c : Nat) (x : Core) : (s.setCore c x).parts = s.parts := rfl
@[simp] theorem State.setCore_owners (s : State) (c : Nat) (x : Core) : (s.setCore c x).owners = s.owners := rfl
@[simp] theorem State.setCore_slots (s : State) (c : Nat) (x : Core) : (s.setCore c x).slots = s.slots := rfl
@[simp] theorem State.setCore_levels (s : State) (c : Nat) (x : Core) : (s.setCore c x).levels = s.levels := rfl
@[simp] theorem State.setCore_units (s : State) (c : Nat) (x : Core) : (s.setCore c x).units = s.units := rfl
@[simp] theorem State.setCore_pipes (s : State) (c : Nat) (x : Core) : (s.setCore c x).pipes = s.pipes := rfl
@[simp] theorem State.setCore_mon (s : State) (c : Nat) (x : Core) : (s.setCore c x).mon = s.mon := rfl
@[simp] theorem State.setCore_iss (s : State) (c : Nat) (x : Core) : (s.setCore c x).iss = s.iss := rfl
@[simp] theorem State.setCore_agenda (s : State) (c : Nat) (x : Core) : (s.setCore c x).agenda = s.agenda := rfl
@[simp] theorem State.setCore_turn (s : State) (c : Nat) (x : Core) : (s.setCore c x).turn = s.turn := rfl
@[simp] theorem State.setCore_free (s : State) (c : Nat) (x : Core) : (s.setCore c x).free = s.free := rfl
@[simp] theorem State.setCore_flying (s : State) (c : Nat) (x : Core) : (s.setCore c x).flying = s.flying := rfl
@[simp] theorem State.setCore_xfers (s : State) (c : Nat) (x : Core) : (s.setCore c x).xfers = s.xfers := rfl
@[simp] theorem State.setCore_images (s : State) (c : Nat) (x : Core) : (s.setCore c x).images = s.images := rfl
@[simp] theorem State.setCore_cancels (s : State) (c : Nat) (x : Core) : (s.setCore c x).cancels = s.cancels := rfl
@[simp] theorem State.setCore_mbs (s : State) (c : Nat) (x : Core) : (s.setCore c x).mbs = s.mbs := rfl
@[simp] theorem State.setCore_hostRegs (s : State) (c : Nat) (x : Core) : (s.setCore c x).hostRegs = s.hostRegs := rfl
@[simp] theorem State.setCore_cwEvq (s : State) (c : Nat) (x : Core) : (s.setCore c x).cwEvq = s.cwEvq := rfl
@[simp] theorem State.setCore_cwEvwait (s : State) (c : Nat) (x : Core) : (s.setCore c x).cwEvwait = s.cwEvwait := rfl
@[simp] theorem State.setCore_power (s : State) (c : Nat) (x : Core) : (s.setCore c x).power = s.power := rfl
@[simp] theorem State.setCore_waking (s : State) (c : Nat) (x : Core) : (s.setCore c x).waking = s.waking := rfl
@[simp] theorem State.setCore_selfRef (s : State) (c : Nat) (x : Core) : (s.setCore c x).selfRef = s.selfRef := rfl
@[simp] theorem State.setCore_saved (s : State) (c : Nat) (x : Core) : (s.setCore c x).saved = s.saved := rfl
@[simp] theorem State.setCore_shelf (s : State) (c : Nat) (x : Core) : (s.setCore c x).shelf = s.shelf := rfl
@[simp] theorem State.setCore_inputs (s : State) (c : Nat) (x : Core) : (s.setCore c x).inputs = s.inputs := rfl
@[simp] theorem State.setCore_nextId (s : State) (c : Nat) (x : Core) : (s.setCore c x).nextId = s.nextId := rfl

/-! ### `State.updCore` -/

@[simp] theorem State.updCore_now (s : State) (c : Nat) (f : Core → Core) : (s.updCore c f).now = s.now := rfl
@[simp] theorem State.updCore_mem (s : State) (c : Nat) (f : Core → Core) : (s.updCore c f).mem = s.mem := rfl
@[simp] theorem State.updCore_tags (s : State) (c : Nat) (f : Core → Core) : (s.updCore c f).tags = s.tags := rfl
@[simp] theorem State.updCore_msgs (s : State) (c : Nat) (f : Core → Core) : (s.updCore c f).msgs = s.msgs := rfl
@[simp] theorem State.updCore_cmds (s : State) (c : Nat) (f : Core → Core) : (s.updCore c f).cmds = s.cmds := rfl
@[simp] theorem State.updCore_ctxs (s : State) (c : Nat) (f : Core → Core) : (s.updCore c f).ctxs = s.ctxs := rfl
@[simp] theorem State.updCore_dies (s : State) (c : Nat) (f : Core → Core) : (s.updCore c f).dies = s.dies := rfl
@[simp] theorem State.updCore_links (s : State) (c : Nat) (f : Core → Core) : (s.updCore c f).links = s.links := rfl
@[simp] theorem State.updCore_lines (s : State) (c : Nat) (f : Core → Core) : (s.updCore c f).lines = s.lines := rfl
@[simp] theorem State.updCore_parts (s : State) (c : Nat) (f : Core → Core) : (s.updCore c f).parts = s.parts := rfl
@[simp] theorem State.updCore_owners (s : State) (c : Nat) (f : Core → Core) : (s.updCore c f).owners = s.owners := rfl
@[simp] theorem State.updCore_slots (s : State) (c : Nat) (f : Core → Core) : (s.updCore c f).slots = s.slots := rfl
@[simp] theorem State.updCore_levels (s : State) (c : Nat) (f : Core → Core) : (s.updCore c f).levels = s.levels := rfl
@[simp] theorem State.updCore_units (s : State) (c : Nat) (f : Core → Core) : (s.updCore c f).units = s.units := rfl
@[simp] theorem State.updCore_pipes (s : State) (c : Nat) (f : Core → Core) : (s.updCore c f).pipes = s.pipes := rfl
@[simp] theorem State.updCore_mon (s : State) (c : Nat) (f : Core → Core) : (s.updCore c f).mon = s.mon := rfl
@[simp] theorem State.updCore_iss (s : State) (c : Nat) (f : Core → Core) : (s.updCore c f).iss = s.iss := rfl
@[simp] theorem State.updCore_agenda (s : State) (c : Nat) (f : Core → Core) : (s.updCore c f).agenda = s.agenda := rfl
@[simp] theorem State.updCore_turn (s : State) (c : Nat) (f : Core → Core) : (s.updCore c f).turn = s.turn := rfl
@[simp] theorem State.updCore_free (s : State) (c : Nat) (f : Core → Core) : (s.updCore c f).free = s.free := rfl
@[simp] theorem State.updCore_flying (s : State) (c : Nat) (f : Core → Core) : (s.updCore c f).flying = s.flying := rfl
@[simp] theorem State.updCore_xfers (s : State) (c : Nat) (f : Core → Core) : (s.updCore c f).xfers = s.xfers := rfl
@[simp] theorem State.updCore_images (s : State) (c : Nat) (f : Core → Core) : (s.updCore c f).images = s.images := rfl
@[simp] theorem State.updCore_cancels (s : State) (c : Nat) (f : Core → Core) : (s.updCore c f).cancels = s.cancels := rfl
@[simp] theorem State.updCore_mbs (s : State) (c : Nat) (f : Core → Core) : (s.updCore c f).mbs = s.mbs := rfl
@[simp] theorem State.updCore_hostRegs (s : State) (c : Nat) (f : Core → Core) : (s.updCore c f).hostRegs = s.hostRegs := rfl
@[simp] theorem State.updCore_cwEvq (s : State) (c : Nat) (f : Core → Core) : (s.updCore c f).cwEvq = s.cwEvq := rfl
@[simp] theorem State.updCore_cwEvwait (s : State) (c : Nat) (f : Core → Core) : (s.updCore c f).cwEvwait = s.cwEvwait := rfl
@[simp] theorem State.updCore_power (s : State) (c : Nat) (f : Core → Core) : (s.updCore c f).power = s.power := rfl
@[simp] theorem State.updCore_waking (s : State) (c : Nat) (f : Core → Core) : (s.updCore c f).waking = s.waking := rfl
@[simp] theorem State.updCore_selfRef (s : State) (c : Nat) (f : Core → Core) : (s.updCore c f).selfRef = s.selfRef := rfl
@[simp] theorem State.updCore_saved (s : State) (c : Nat) (f : Core → Core) : (s.updCore c f).saved = s.saved := rfl
@[simp] theorem State.updCore_shelf (s : State) (c : Nat) (f : Core → Core) : (s.updCore c f).shelf = s.shelf := rfl
@[simp] theorem State.updCore_inputs (s : State) (c : Nat) (f : Core → Core) : (s.updCore c f).inputs = s.inputs := rfl
@[simp] theorem State.updCore_nextId (s : State) (c : Nat) (f : Core → Core) : (s.updCore c f).nextId = s.nextId := rfl

/-! ### `State.updDie` -/

@[simp] theorem State.updDie_now (s : State) (d : Nat) (f : Die → Die) : (s.updDie d f).now = s.now := rfl
@[simp] theorem State.updDie_mem (s : State) (d : Nat) (f : Die → Die) : (s.updDie d f).mem = s.mem := rfl
@[simp] theorem State.updDie_tags (s : State) (d : Nat) (f : Die → Die) : (s.updDie d f).tags = s.tags := rfl
@[simp] theorem State.updDie_msgs (s : State) (d : Nat) (f : Die → Die) : (s.updDie d f).msgs = s.msgs := rfl
@[simp] theorem State.updDie_cmds (s : State) (d : Nat) (f : Die → Die) : (s.updDie d f).cmds = s.cmds := rfl
@[simp] theorem State.updDie_ctxs (s : State) (d : Nat) (f : Die → Die) : (s.updDie d f).ctxs = s.ctxs := rfl
@[simp] theorem State.updDie_cores (s : State) (d : Nat) (f : Die → Die) : (s.updDie d f).cores = s.cores := rfl
@[simp] theorem State.updDie_links (s : State) (d : Nat) (f : Die → Die) : (s.updDie d f).links = s.links := rfl
@[simp] theorem State.updDie_lines (s : State) (d : Nat) (f : Die → Die) : (s.updDie d f).lines = s.lines := rfl
@[simp] theorem State.updDie_parts (s : State) (d : Nat) (f : Die → Die) : (s.updDie d f).parts = s.parts := rfl
@[simp] theorem State.updDie_owners (s : State) (d : Nat) (f : Die → Die) : (s.updDie d f).owners = s.owners := rfl
@[simp] theorem State.updDie_slots (s : State) (d : Nat) (f : Die → Die) : (s.updDie d f).slots = s.slots := rfl
@[simp] theorem State.updDie_levels (s : State) (d : Nat) (f : Die → Die) : (s.updDie d f).levels = s.levels := rfl
@[simp] theorem State.updDie_units (s : State) (d : Nat) (f : Die → Die) : (s.updDie d f).units = s.units := rfl
@[simp] theorem State.updDie_pipes (s : State) (d : Nat) (f : Die → Die) : (s.updDie d f).pipes = s.pipes := rfl
@[simp] theorem State.updDie_mon (s : State) (d : Nat) (f : Die → Die) : (s.updDie d f).mon = s.mon := rfl
@[simp] theorem State.updDie_iss (s : State) (d : Nat) (f : Die → Die) : (s.updDie d f).iss = s.iss := rfl
@[simp] theorem State.updDie_agenda (s : State) (d : Nat) (f : Die → Die) : (s.updDie d f).agenda = s.agenda := rfl
@[simp] theorem State.updDie_turn (s : State) (d : Nat) (f : Die → Die) : (s.updDie d f).turn = s.turn := rfl
@[simp] theorem State.updDie_free (s : State) (d : Nat) (f : Die → Die) : (s.updDie d f).free = s.free := rfl
@[simp] theorem State.updDie_flying (s : State) (d : Nat) (f : Die → Die) : (s.updDie d f).flying = s.flying := rfl
@[simp] theorem State.updDie_xfers (s : State) (d : Nat) (f : Die → Die) : (s.updDie d f).xfers = s.xfers := rfl
@[simp] theorem State.updDie_images (s : State) (d : Nat) (f : Die → Die) : (s.updDie d f).images = s.images := rfl
@[simp] theorem State.updDie_cancels (s : State) (d : Nat) (f : Die → Die) : (s.updDie d f).cancels = s.cancels := rfl
@[simp] theorem State.updDie_mbs (s : State) (d : Nat) (f : Die → Die) : (s.updDie d f).mbs = s.mbs := rfl
@[simp] theorem State.updDie_hostRegs (s : State) (d : Nat) (f : Die → Die) : (s.updDie d f).hostRegs = s.hostRegs := rfl
@[simp] theorem State.updDie_cwEvq (s : State) (d : Nat) (f : Die → Die) : (s.updDie d f).cwEvq = s.cwEvq := rfl
@[simp] theorem State.updDie_cwEvwait (s : State) (d : Nat) (f : Die → Die) : (s.updDie d f).cwEvwait = s.cwEvwait := rfl
@[simp] theorem State.updDie_power (s : State) (d : Nat) (f : Die → Die) : (s.updDie d f).power = s.power := rfl
@[simp] theorem State.updDie_waking (s : State) (d : Nat) (f : Die → Die) : (s.updDie d f).waking = s.waking := rfl
@[simp] theorem State.updDie_selfRef (s : State) (d : Nat) (f : Die → Die) : (s.updDie d f).selfRef = s.selfRef := rfl
@[simp] theorem State.updDie_saved (s : State) (d : Nat) (f : Die → Die) : (s.updDie d f).saved = s.saved := rfl
@[simp] theorem State.updDie_shelf (s : State) (d : Nat) (f : Die → Die) : (s.updDie d f).shelf = s.shelf := rfl
@[simp] theorem State.updDie_inputs (s : State) (d : Nat) (f : Die → Die) : (s.updDie d f).inputs = s.inputs := rfl
@[simp] theorem State.updDie_nextId (s : State) (d : Nat) (f : Die → Die) : (s.updDie d f).nextId = s.nextId := rfl

/-! ### `State.updLink` -/

@[simp] theorem State.updLink_now (s : State) (d n : Nat) (f : LinkEnd → LinkEnd) : (s.updLink d n f).now = s.now := rfl
@[simp] theorem State.updLink_mem (s : State) (d n : Nat) (f : LinkEnd → LinkEnd) : (s.updLink d n f).mem = s.mem := rfl
@[simp] theorem State.updLink_tags (s : State) (d n : Nat) (f : LinkEnd → LinkEnd) : (s.updLink d n f).tags = s.tags := rfl
@[simp] theorem State.updLink_msgs (s : State) (d n : Nat) (f : LinkEnd → LinkEnd) : (s.updLink d n f).msgs = s.msgs := rfl
@[simp] theorem State.updLink_cmds (s : State) (d n : Nat) (f : LinkEnd → LinkEnd) : (s.updLink d n f).cmds = s.cmds := rfl
@[simp] theorem State.updLink_ctxs (s : State) (d n : Nat) (f : LinkEnd → LinkEnd) : (s.updLink d n f).ctxs = s.ctxs := rfl
@[simp] theorem State.updLink_cores (s : State) (d n : Nat) (f : LinkEnd → LinkEnd) : (s.updLink d n f).cores = s.cores := rfl
@[simp] theorem State.updLink_dies (s : State) (d n : Nat) (f : LinkEnd → LinkEnd) : (s.updLink d n f).dies = s.dies := rfl
@[simp] theorem State.updLink_lines (s : State) (d n : Nat) (f : LinkEnd → LinkEnd) : (s.updLink d n f).lines = s.lines := rfl
@[simp] theorem State.updLink_parts (s : State) (d n : Nat) (f : LinkEnd → LinkEnd) : (s.updLink d n f).parts = s.parts := rfl
@[simp] theorem State.updLink_owners (s : State) (d n : Nat) (f : LinkEnd → LinkEnd) : (s.updLink d n f).owners = s.owners := rfl
@[simp] theorem State.updLink_slots (s : State) (d n : Nat) (f : LinkEnd → LinkEnd) : (s.updLink d n f).slots = s.slots := rfl
@[simp] theorem State.updLink_levels (s : State) (d n : Nat) (f : LinkEnd → LinkEnd) : (s.updLink d n f).levels = s.levels := rfl
@[simp] theorem State.updLink_units (s : State) (d n : Nat) (f : LinkEnd → LinkEnd) : (s.updLink d n f).units = s.units := rfl
@[simp] theorem State.updLink_pipes (s : State) (d n : Nat) (f : LinkEnd → LinkEnd) : (s.updLink d n f).pipes = s.pipes := rfl
@[simp] theorem State.updLink_mon (s : State) (d n : Nat) (f : LinkEnd → LinkEnd) : (s.updLink d n f).mon = s.mon := rfl
@[simp] theorem State.updLink_iss (s : State) (d n : Nat) (f : LinkEnd → LinkEnd) : (s.updLink d n f).iss = s.iss := rfl
@[simp] theorem State.updLink_agenda (s : State) (d n : Nat) (f : LinkEnd → LinkEnd) : (s.updLink d n f).agenda = s.agenda := rfl
@[simp] theorem State.updLink_turn (s : State) (d n : Nat) (f : LinkEnd → LinkEnd) : (s.updLink d n f).turn = s.turn := rfl
@[simp] theorem State.updLink_free (s : State) (d n : Nat) (f : LinkEnd → LinkEnd) : (s.updLink d n f).free = s.free := rfl
@[simp] theorem State.updLink_flying (s : State) (d n : Nat) (f : LinkEnd → LinkEnd) : (s.updLink d n f).flying = s.flying := rfl
@[simp] theorem State.updLink_xfers (s : State) (d n : Nat) (f : LinkEnd → LinkEnd) : (s.updLink d n f).xfers = s.xfers := rfl
@[simp] theorem State.updLink_images (s : State) (d n : Nat) (f : LinkEnd → LinkEnd) : (s.updLink d n f).images = s.images := rfl
@[simp] theorem State.updLink_cancels (s : State) (d n : Nat) (f : LinkEnd → LinkEnd) : (s.updLink d n f).cancels = s.cancels := rfl
@[simp] theorem State.updLink_mbs (s : State) (d n : Nat) (f : LinkEnd → LinkEnd) : (s.updLink d n f).mbs = s.mbs := rfl
@[simp] theorem State.updLink_hostRegs (s : State) (d n : Nat) (f : LinkEnd → LinkEnd) : (s.updLink d n f).hostRegs = s.hostRegs := rfl
@[simp] theorem State.updLink_cwEvq (s : State) (d n : Nat) (f : LinkEnd → LinkEnd) : (s.updLink d n f).cwEvq = s.cwEvq := rfl
@[simp] theorem State.updLink_cwEvwait (s : State) (d n : Nat) (f : LinkEnd → LinkEnd) : (s.updLink d n f).cwEvwait = s.cwEvwait := rfl
@[simp] theorem State.updLink_power (s : State) (d n : Nat) (f : LinkEnd → LinkEnd) : (s.updLink d n f).power = s.power := rfl
@[simp] theorem State.updLink_waking (s : State) (d n : Nat) (f : LinkEnd → LinkEnd) : (s.updLink d n f).waking = s.waking := rfl
@[simp] theorem State.updLink_selfRef (s : State) (d n : Nat) (f : LinkEnd → LinkEnd) : (s.updLink d n f).selfRef = s.selfRef := rfl
@[simp] theorem State.updLink_saved (s : State) (d n : Nat) (f : LinkEnd → LinkEnd) : (s.updLink d n f).saved = s.saved := rfl
@[simp] theorem State.updLink_shelf (s : State) (d n : Nat) (f : LinkEnd → LinkEnd) : (s.updLink d n f).shelf = s.shelf := rfl
@[simp] theorem State.updLink_inputs (s : State) (d n : Nat) (f : LinkEnd → LinkEnd) : (s.updLink d n f).inputs = s.inputs := rfl
@[simp] theorem State.updLink_nextId (s : State) (d n : Nat) (f : LinkEnd → LinkEnd) : (s.updLink d n f).nextId = s.nextId := rfl

/-! ### `State.updLine` -/

@[simp] theorem State.updLine_now (s : State) (l : Nat) (f : Line → Line) : (s.updLine l f).now = s.now := rfl
@[simp] theorem State.updLine_mem (s : State) (l : Nat) (f : Line → Line) : (s.updLine l f).mem = s.mem := rfl
@[simp] theorem State.updLine_tags (s : State) (l : Nat) (f : Line → Line) : (s.updLine l f).tags = s.tags := rfl
@[simp] theorem State.updLine_msgs (s : State) (l : Nat) (f : Line → Line) : (s.updLine l f).msgs = s.msgs := rfl
@[simp] theorem State.updLine_cmds (s : State) (l : Nat) (f : Line → Line) : (s.updLine l f).cmds = s.cmds := rfl
@[simp] theorem State.updLine_ctxs (s : State) (l : Nat) (f : Line → Line) : (s.updLine l f).ctxs = s.ctxs := rfl
@[simp] theorem State.updLine_cores (s : State) (l : Nat) (f : Line → Line) : (s.updLine l f).cores = s.cores := rfl
@[simp] theorem State.updLine_dies (s : State) (l : Nat) (f : Line → Line) : (s.updLine l f).dies = s.dies := rfl
@[simp] theorem State.updLine_links (s : State) (l : Nat) (f : Line → Line) : (s.updLine l f).links = s.links := rfl
@[simp] theorem State.updLine_parts (s : State) (l : Nat) (f : Line → Line) : (s.updLine l f).parts = s.parts := rfl
@[simp] theorem State.updLine_owners (s : State) (l : Nat) (f : Line → Line) : (s.updLine l f).owners = s.owners := rfl
@[simp] theorem State.updLine_slots (s : State) (l : Nat) (f : Line → Line) : (s.updLine l f).slots = s.slots := rfl
@[simp] theorem State.updLine_levels (s : State) (l : Nat) (f : Line → Line) : (s.updLine l f).levels = s.levels := rfl
@[simp] theorem State.updLine_units (s : State) (l : Nat) (f : Line → Line) : (s.updLine l f).units = s.units := rfl
@[simp] theorem State.updLine_pipes (s : State) (l : Nat) (f : Line → Line) : (s.updLine l f).pipes = s.pipes := rfl
@[simp] theorem State.updLine_mon (s : State) (l : Nat) (f : Line → Line) : (s.updLine l f).mon = s.mon := rfl
@[simp] theorem State.updLine_iss (s : State) (l : Nat) (f : Line → Line) : (s.updLine l f).iss = s.iss := rfl
@[simp] theorem State.updLine_agenda (s : State) (l : Nat) (f : Line → Line) : (s.updLine l f).agenda = s.agenda := rfl
@[simp] theorem State.updLine_turn (s : State) (l : Nat) (f : Line → Line) : (s.updLine l f).turn = s.turn := rfl
@[simp] theorem State.updLine_free (s : State) (l : Nat) (f : Line → Line) : (s.updLine l f).free = s.free := rfl
@[simp] theorem State.updLine_flying (s : State) (l : Nat) (f : Line → Line) : (s.updLine l f).flying = s.flying := rfl
@[simp] theorem State.updLine_xfers (s : State) (l : Nat) (f : Line → Line) : (s.updLine l f).xfers = s.xfers := rfl
@[simp] theorem State.updLine_images (s : State) (l : Nat) (f : Line → Line) : (s.updLine l f).images = s.images := rfl
@[simp] theorem State.updLine_cancels (s : State) (l : Nat) (f : Line → Line) : (s.updLine l f).cancels = s.cancels := rfl
@[simp] theorem State.updLine_mbs (s : State) (l : Nat) (f : Line → Line) : (s.updLine l f).mbs = s.mbs := rfl
@[simp] theorem State.updLine_hostRegs (s : State) (l : Nat) (f : Line → Line) : (s.updLine l f).hostRegs = s.hostRegs := rfl
@[simp] theorem State.updLine_cwEvq (s : State) (l : Nat) (f : Line → Line) : (s.updLine l f).cwEvq = s.cwEvq := rfl
@[simp] theorem State.updLine_cwEvwait (s : State) (l : Nat) (f : Line → Line) : (s.updLine l f).cwEvwait = s.cwEvwait := rfl
@[simp] theorem State.updLine_power (s : State) (l : Nat) (f : Line → Line) : (s.updLine l f).power = s.power := rfl
@[simp] theorem State.updLine_waking (s : State) (l : Nat) (f : Line → Line) : (s.updLine l f).waking = s.waking := rfl
@[simp] theorem State.updLine_selfRef (s : State) (l : Nat) (f : Line → Line) : (s.updLine l f).selfRef = s.selfRef := rfl
@[simp] theorem State.updLine_saved (s : State) (l : Nat) (f : Line → Line) : (s.updLine l f).saved = s.saved := rfl
@[simp] theorem State.updLine_shelf (s : State) (l : Nat) (f : Line → Line) : (s.updLine l f).shelf = s.shelf := rfl
@[simp] theorem State.updLine_inputs (s : State) (l : Nat) (f : Line → Line) : (s.updLine l f).inputs = s.inputs := rfl
@[simp] theorem State.updLine_nextId (s : State) (l : Nat) (f : Line → Line) : (s.updLine l f).nextId = s.nextId := rfl

/-! ### `State.updPart` -/

@[simp] theorem State.updPart_now (s : State) (p : Nat) (f : Part → Part) : (s.updPart p f).now = s.now := rfl
@[simp] theorem State.updPart_mem (s : State) (p : Nat) (f : Part → Part) : (s.updPart p f).mem = s.mem := rfl
@[simp] theorem State.updPart_tags (s : State) (p : Nat) (f : Part → Part) : (s.updPart p f).tags = s.tags := rfl
@[simp] theorem State.updPart_msgs (s : State) (p : Nat) (f : Part → Part) : (s.updPart p f).msgs = s.msgs := rfl
@[simp] theorem State.updPart_cmds (s : State) (p : Nat) (f : Part → Part) : (s.updPart p f).cmds = s.cmds := rfl
@[simp] theorem State.updPart_ctxs (s : State) (p : Nat) (f : Part → Part) : (s.updPart p f).ctxs = s.ctxs := rfl
@[simp] theorem State.updPart_cores (s : State) (p : Nat) (f : Part → Part) : (s.updPart p f).cores = s.cores := rfl
@[simp] theorem State.updPart_dies (s : State) (p : Nat) (f : Part → Part) : (s.updPart p f).dies = s.dies := rfl
@[simp] theorem State.updPart_links (s : State) (p : Nat) (f : Part → Part) : (s.updPart p f).links = s.links := rfl
@[simp] theorem State.updPart_lines (s : State) (p : Nat) (f : Part → Part) : (s.updPart p f).lines = s.lines := rfl
@[simp] theorem State.updPart_owners (s : State) (p : Nat) (f : Part → Part) : (s.updPart p f).owners = s.owners := rfl
@[simp] theorem State.updPart_slots (s : State) (p : Nat) (f : Part → Part) : (s.updPart p f).slots = s.slots := rfl
@[simp] theorem State.updPart_levels (s : State) (p : Nat) (f : Part → Part) : (s.updPart p f).levels = s.levels := rfl
@[simp] theorem State.updPart_units (s : State) (p : Nat) (f : Part → Part) : (s.updPart p f).units = s.units := rfl
@[simp] theorem State.updPart_pipes (s : State) (p : Nat) (f : Part → Part) : (s.updPart p f).pipes = s.pipes := rfl
@[simp] theorem State.updPart_mon (s : State) (p : Nat) (f : Part → Part) : (s.updPart p f).mon = s.mon := rfl
@[simp] theorem State.updPart_iss (s : State) (p : Nat) (f : Part → Part) : (s.updPart p f).iss = s.iss := rfl
@[simp] theorem State.updPart_agenda (s : State) (p : Nat) (f : Part → Part) : (s.updPart p f).agenda = s.agenda := rfl
@[simp] theorem State.updPart_turn (s : State) (p : Nat) (f : Part → Part) : (s.updPart p f).turn = s.turn := rfl
@[simp] theorem State.updPart_free (s : State) (p : Nat) (f : Part → Part) : (s.updPart p f).free = s.free := rfl
@[simp] theorem State.updPart_flying (s : State) (p : Nat) (f : Part → Part) : (s.updPart p f).flying = s.flying := rfl
@[simp] theorem State.updPart_xfers (s : State) (p : Nat) (f : Part → Part) : (s.updPart p f).xfers = s.xfers := rfl
@[simp] theorem State.updPart_images (s : State) (p : Nat) (f : Part → Part) : (s.updPart p f).images = s.images := rfl
@[simp] theorem State.updPart_cancels (s : State) (p : Nat) (f : Part → Part) : (s.updPart p f).cancels = s.cancels := rfl
@[simp] theorem State.updPart_mbs (s : State) (p : Nat) (f : Part → Part) : (s.updPart p f).mbs = s.mbs := rfl
@[simp] theorem State.updPart_hostRegs (s : State) (p : Nat) (f : Part → Part) : (s.updPart p f).hostRegs = s.hostRegs := rfl
@[simp] theorem State.updPart_cwEvq (s : State) (p : Nat) (f : Part → Part) : (s.updPart p f).cwEvq = s.cwEvq := rfl
@[simp] theorem State.updPart_cwEvwait (s : State) (p : Nat) (f : Part → Part) : (s.updPart p f).cwEvwait = s.cwEvwait := rfl
@[simp] theorem State.updPart_power (s : State) (p : Nat) (f : Part → Part) : (s.updPart p f).power = s.power := rfl
@[simp] theorem State.updPart_waking (s : State) (p : Nat) (f : Part → Part) : (s.updPart p f).waking = s.waking := rfl
@[simp] theorem State.updPart_selfRef (s : State) (p : Nat) (f : Part → Part) : (s.updPart p f).selfRef = s.selfRef := rfl
@[simp] theorem State.updPart_saved (s : State) (p : Nat) (f : Part → Part) : (s.updPart p f).saved = s.saved := rfl
@[simp] theorem State.updPart_shelf (s : State) (p : Nat) (f : Part → Part) : (s.updPart p f).shelf = s.shelf := rfl
@[simp] theorem State.updPart_inputs (s : State) (p : Nat) (f : Part → Part) : (s.updPart p f).inputs = s.inputs := rfl
@[simp] theorem State.updPart_nextId (s : State) (p : Nat) (f : Part → Part) : (s.updPart p f).nextId = s.nextId := rfl

/-! ### `State.updSlot` -/

@[simp] theorem State.updSlot_now (s : State) (n : Nat) (f : Slot → Slot) : (s.updSlot n f).now = s.now := rfl
@[simp] theorem State.updSlot_mem (s : State) (n : Nat) (f : Slot → Slot) : (s.updSlot n f).mem = s.mem := rfl
@[simp] theorem State.updSlot_tags (s : State) (n : Nat) (f : Slot → Slot) : (s.updSlot n f).tags = s.tags := rfl
@[simp] theorem State.updSlot_msgs (s : State) (n : Nat) (f : Slot → Slot) : (s.updSlot n f).msgs = s.msgs := rfl
@[simp] theorem State.updSlot_cmds (s : State) (n : Nat) (f : Slot → Slot) : (s.updSlot n f).cmds = s.cmds := rfl
@[simp] theorem State.updSlot_ctxs (s : State) (n : Nat) (f : Slot → Slot) : (s.updSlot n f).ctxs = s.ctxs := rfl
@[simp] theorem State.updSlot_cores (s : State) (n : Nat) (f : Slot → Slot) : (s.updSlot n f).cores = s.cores := rfl
@[simp] theorem State.updSlot_dies (s : State) (n : Nat) (f : Slot → Slot) : (s.updSlot n f).dies = s.dies := rfl
@[simp] theorem State.updSlot_links (s : State) (n : Nat) (f : Slot → Slot) : (s.updSlot n f).links = s.links := rfl
@[simp] theorem State.updSlot_lines (s : State) (n : Nat) (f : Slot → Slot) : (s.updSlot n f).lines = s.lines := rfl
@[simp] theorem State.updSlot_parts (s : State) (n : Nat) (f : Slot → Slot) : (s.updSlot n f).parts = s.parts := rfl
@[simp] theorem State.updSlot_owners (s : State) (n : Nat) (f : Slot → Slot) : (s.updSlot n f).owners = s.owners := rfl
@[simp] theorem State.updSlot_levels (s : State) (n : Nat) (f : Slot → Slot) : (s.updSlot n f).levels = s.levels := rfl
@[simp] theorem State.updSlot_units (s : State) (n : Nat) (f : Slot → Slot) : (s.updSlot n f).units = s.units := rfl
@[simp] theorem State.updSlot_pipes (s : State) (n : Nat) (f : Slot → Slot) : (s.updSlot n f).pipes = s.pipes := rfl
@[simp] theorem State.updSlot_mon (s : State) (n : Nat) (f : Slot → Slot) : (s.updSlot n f).mon = s.mon := rfl
@[simp] theorem State.updSlot_iss (s : State) (n : Nat) (f : Slot → Slot) : (s.updSlot n f).iss = s.iss := rfl
@[simp] theorem State.updSlot_agenda (s : State) (n : Nat) (f : Slot → Slot) : (s.updSlot n f).agenda = s.agenda := rfl
@[simp] theorem State.updSlot_turn (s : State) (n : Nat) (f : Slot → Slot) : (s.updSlot n f).turn = s.turn := rfl
@[simp] theorem State.updSlot_free (s : State) (n : Nat) (f : Slot → Slot) : (s.updSlot n f).free = s.free := rfl
@[simp] theorem State.updSlot_flying (s : State) (n : Nat) (f : Slot → Slot) : (s.updSlot n f).flying = s.flying := rfl
@[simp] theorem State.updSlot_xfers (s : State) (n : Nat) (f : Slot → Slot) : (s.updSlot n f).xfers = s.xfers := rfl
@[simp] theorem State.updSlot_images (s : State) (n : Nat) (f : Slot → Slot) : (s.updSlot n f).images = s.images := rfl
@[simp] theorem State.updSlot_cancels (s : State) (n : Nat) (f : Slot → Slot) : (s.updSlot n f).cancels = s.cancels := rfl
@[simp] theorem State.updSlot_mbs (s : State) (n : Nat) (f : Slot → Slot) : (s.updSlot n f).mbs = s.mbs := rfl
@[simp] theorem State.updSlot_hostRegs (s : State) (n : Nat) (f : Slot → Slot) : (s.updSlot n f).hostRegs = s.hostRegs := rfl
@[simp] theorem State.updSlot_cwEvq (s : State) (n : Nat) (f : Slot → Slot) : (s.updSlot n f).cwEvq = s.cwEvq := rfl
@[simp] theorem State.updSlot_cwEvwait (s : State) (n : Nat) (f : Slot → Slot) : (s.updSlot n f).cwEvwait = s.cwEvwait := rfl
@[simp] theorem State.updSlot_power (s : State) (n : Nat) (f : Slot → Slot) : (s.updSlot n f).power = s.power := rfl
@[simp] theorem State.updSlot_waking (s : State) (n : Nat) (f : Slot → Slot) : (s.updSlot n f).waking = s.waking := rfl
@[simp] theorem State.updSlot_selfRef (s : State) (n : Nat) (f : Slot → Slot) : (s.updSlot n f).selfRef = s.selfRef := rfl
@[simp] theorem State.updSlot_saved (s : State) (n : Nat) (f : Slot → Slot) : (s.updSlot n f).saved = s.saved := rfl
@[simp] theorem State.updSlot_shelf (s : State) (n : Nat) (f : Slot → Slot) : (s.updSlot n f).shelf = s.shelf := rfl
@[simp] theorem State.updSlot_inputs (s : State) (n : Nat) (f : Slot → Slot) : (s.updSlot n f).inputs = s.inputs := rfl
@[simp] theorem State.updSlot_nextId (s : State) (n : Nat) (f : Slot → Slot) : (s.updSlot n f).nextId = s.nextId := rfl

/-! ### `State.updCmd` -/

@[simp] theorem State.updCmd_now (s : State) (i : Nat) (f : Cmd → Cmd) : (s.updCmd i f).now = s.now := rfl
@[simp] theorem State.updCmd_mem (s : State) (i : Nat) (f : Cmd → Cmd) : (s.updCmd i f).mem = s.mem := rfl
@[simp] theorem State.updCmd_tags (s : State) (i : Nat) (f : Cmd → Cmd) : (s.updCmd i f).tags = s.tags := rfl
@[simp] theorem State.updCmd_msgs (s : State) (i : Nat) (f : Cmd → Cmd) : (s.updCmd i f).msgs = s.msgs := rfl
@[simp] theorem State.updCmd_ctxs (s : State) (i : Nat) (f : Cmd → Cmd) : (s.updCmd i f).ctxs = s.ctxs := rfl
@[simp] theorem State.updCmd_cores (s : State) (i : Nat) (f : Cmd → Cmd) : (s.updCmd i f).cores = s.cores := rfl
@[simp] theorem State.updCmd_dies (s : State) (i : Nat) (f : Cmd → Cmd) : (s.updCmd i f).dies = s.dies := rfl
@[simp] theorem State.updCmd_links (s : State) (i : Nat) (f : Cmd → Cmd) : (s.updCmd i f).links = s.links := rfl
@[simp] theorem State.updCmd_lines (s : State) (i : Nat) (f : Cmd → Cmd) : (s.updCmd i f).lines = s.lines := rfl
@[simp] theorem State.updCmd_parts (s : State) (i : Nat) (f : Cmd → Cmd) : (s.updCmd i f).parts = s.parts := rfl
@[simp] theorem State.updCmd_owners (s : State) (i : Nat) (f : Cmd → Cmd) : (s.updCmd i f).owners = s.owners := rfl
@[simp] theorem State.updCmd_slots (s : State) (i : Nat) (f : Cmd → Cmd) : (s.updCmd i f).slots = s.slots := rfl
@[simp] theorem State.updCmd_levels (s : State) (i : Nat) (f : Cmd → Cmd) : (s.updCmd i f).levels = s.levels := rfl
@[simp] theorem State.updCmd_units (s : State) (i : Nat) (f : Cmd → Cmd) : (s.updCmd i f).units = s.units := rfl
@[simp] theorem State.updCmd_pipes (s : State) (i : Nat) (f : Cmd → Cmd) : (s.updCmd i f).pipes = s.pipes := rfl
@[simp] theorem State.updCmd_mon (s : State) (i : Nat) (f : Cmd → Cmd) : (s.updCmd i f).mon = s.mon := rfl
@[simp] theorem State.updCmd_iss (s : State) (i : Nat) (f : Cmd → Cmd) : (s.updCmd i f).iss = s.iss := rfl
@[simp] theorem State.updCmd_agenda (s : State) (i : Nat) (f : Cmd → Cmd) : (s.updCmd i f).agenda = s.agenda := rfl
@[simp] theorem State.updCmd_turn (s : State) (i : Nat) (f : Cmd → Cmd) : (s.updCmd i f).turn = s.turn := rfl
@[simp] theorem State.updCmd_free (s : State) (i : Nat) (f : Cmd → Cmd) : (s.updCmd i f).free = s.free := rfl
@[simp] theorem State.updCmd_flying (s : State) (i : Nat) (f : Cmd → Cmd) : (s.updCmd i f).flying = s.flying := rfl
@[simp] theorem State.updCmd_xfers (s : State) (i : Nat) (f : Cmd → Cmd) : (s.updCmd i f).xfers = s.xfers := rfl
@[simp] theorem State.updCmd_images (s : State) (i : Nat) (f : Cmd → Cmd) : (s.updCmd i f).images = s.images := rfl
@[simp] theorem State.updCmd_cancels (s : State) (i : Nat) (f : Cmd → Cmd) : (s.updCmd i f).cancels = s.cancels := rfl
@[simp] theorem State.updCmd_mbs (s : State) (i : Nat) (f : Cmd → Cmd) : (s.updCmd i f).mbs = s.mbs := rfl
@[simp] theorem State.updCmd_hostRegs (s : State) (i : Nat) (f : Cmd → Cmd) : (s.updCmd i f).hostRegs = s.hostRegs := rfl
@[simp] theorem State.updCmd_cwEvq (s : State) (i : Nat) (f : Cmd → Cmd) : (s.updCmd i f).cwEvq = s.cwEvq := rfl
@[simp] theorem State.updCmd_cwEvwait (s : State) (i : Nat) (f : Cmd → Cmd) : (s.updCmd i f).cwEvwait = s.cwEvwait := rfl
@[simp] theorem State.updCmd_power (s : State) (i : Nat) (f : Cmd → Cmd) : (s.updCmd i f).power = s.power := rfl
@[simp] theorem State.updCmd_waking (s : State) (i : Nat) (f : Cmd → Cmd) : (s.updCmd i f).waking = s.waking := rfl
@[simp] theorem State.updCmd_selfRef (s : State) (i : Nat) (f : Cmd → Cmd) : (s.updCmd i f).selfRef = s.selfRef := rfl
@[simp] theorem State.updCmd_saved (s : State) (i : Nat) (f : Cmd → Cmd) : (s.updCmd i f).saved = s.saved := rfl
@[simp] theorem State.updCmd_shelf (s : State) (i : Nat) (f : Cmd → Cmd) : (s.updCmd i f).shelf = s.shelf := rfl
@[simp] theorem State.updCmd_inputs (s : State) (i : Nat) (f : Cmd → Cmd) : (s.updCmd i f).inputs = s.inputs := rfl
@[simp] theorem State.updCmd_nextId (s : State) (i : Nat) (f : Cmd → Cmd) : (s.updCmd i f).nextId = s.nextId := rfl

/-! ### `State.dropCmd` -/

@[simp] theorem State.dropCmd_now (s : State) (i : Nat) : (s.dropCmd i).now = s.now := rfl
@[simp] theorem State.dropCmd_mem (s : State) (i : Nat) : (s.dropCmd i).mem = s.mem := rfl
@[simp] theorem State.dropCmd_tags (s : State) (i : Nat) : (s.dropCmd i).tags = s.tags := rfl
@[simp] theorem State.dropCmd_msgs (s : State) (i : Nat) : (s.dropCmd i).msgs = s.msgs := rfl
@[simp] theorem State.dropCmd_ctxs (s : State) (i : Nat) : (s.dropCmd i).ctxs = s.ctxs := rfl
@[simp] theorem State.dropCmd_cores (s : State) (i : Nat) : (s.dropCmd i).cores = s.cores := rfl
@[simp] theorem State.dropCmd_dies (s : State) (i : Nat) : (s.dropCmd i).dies = s.dies := rfl
@[simp] theorem State.dropCmd_links (s : State) (i : Nat) : (s.dropCmd i).links = s.links := rfl
@[simp] theorem State.dropCmd_lines (s : State) (i : Nat) : (s.dropCmd i).lines = s.lines := rfl
@[simp] theorem State.dropCmd_parts (s : State) (i : Nat) : (s.dropCmd i).parts = s.parts := rfl
@[simp] theorem State.dropCmd_owners (s : State) (i : Nat) : (s.dropCmd i).owners = s.owners := rfl
@[simp] theorem State.dropCmd_slots (s : State) (i : Nat) : (s.dropCmd i).slots = s.slots := rfl
@[simp] theorem State.dropCmd_levels (s : State) (i : Nat) : (s.dropCmd i).levels = s.levels := rfl
@[simp] theorem State.dropCmd_units (s : State) (i : Nat) : (s.dropCmd i).units = s.units := rfl
@[simp] theorem State.dropCmd_pipes (s : State) (i : Nat) : (s.dropCmd i).pipes = s.pipes := rfl
@[simp] theorem State.dropCmd_mon (s : State) (i : Nat) : (s.dropCmd i).mon = s.mon := rfl
@[simp] theorem State.dropCmd_iss (s : State) (i : Nat) : (s.dropCmd i).iss = s.iss := rfl
@[simp] theorem State.dropCmd_agenda (s : State) (i : Nat) : (s.dropCmd i).agenda = s.agenda := rfl
@[simp] theorem State.dropCmd_turn (s : State) (i : Nat) : (s.dropCmd i).turn = s.turn := rfl
@[simp] theorem State.dropCmd_free (s : State) (i : Nat) : (s.dropCmd i).free = s.free := rfl
@[simp] theorem State.dropCmd_flying (s : State) (i : Nat) : (s.dropCmd i).flying = s.flying := rfl
@[simp] theorem State.dropCmd_xfers (s : State) (i : Nat) : (s.dropCmd i).xfers = s.xfers := rfl
@[simp] theorem State.dropCmd_images (s : State) (i : Nat) : (s.dropCmd i).images = s.images := rfl
@[simp] theorem State.dropCmd_cancels (s : State) (i : Nat) : (s.dropCmd i).cancels = s.cancels := rfl
@[simp] theorem State.dropCmd_mbs (s : State) (i : Nat) : (s.dropCmd i).mbs = s.mbs := rfl
@[simp] theorem State.dropCmd_hostRegs (s : State) (i : Nat) : (s.dropCmd i).hostRegs = s.hostRegs := rfl
@[simp] theorem State.dropCmd_cwEvq (s : State) (i : Nat) : (s.dropCmd i).cwEvq = s.cwEvq := rfl
@[simp] theorem State.dropCmd_cwEvwait (s : State) (i : Nat) : (s.dropCmd i).cwEvwait = s.cwEvwait := rfl
@[simp] theorem State.dropCmd_power (s : State) (i : Nat) : (s.dropCmd i).power = s.power := rfl
@[simp] theorem State.dropCmd_waking (s : State) (i : Nat) : (s.dropCmd i).waking = s.waking := rfl
@[simp] theorem State.dropCmd_selfRef (s : State) (i : Nat) : (s.dropCmd i).selfRef = s.selfRef := rfl
@[simp] theorem State.dropCmd_saved (s : State) (i : Nat) : (s.dropCmd i).saved = s.saved := rfl
@[simp] theorem State.dropCmd_shelf (s : State) (i : Nat) : (s.dropCmd i).shelf = s.shelf := rfl
@[simp] theorem State.dropCmd_inputs (s : State) (i : Nat) : (s.dropCmd i).inputs = s.inputs := rfl
@[simp] theorem State.dropCmd_nextId (s : State) (i : Nat) : (s.dropCmd i).nextId = s.nextId := rfl

/-! ### `State.updMsg` -/

@[simp] theorem State.updMsg_now (s : State) (i : Nat) (f : Msg → Msg) : (s.updMsg i f).now = s.now := rfl
@[simp] theorem State.updMsg_mem (s : State) (i : Nat) (f : Msg → Msg) : (s.updMsg i f).mem = s.mem := rfl
@[simp] theorem State.updMsg_tags (s : State) (i : Nat) (f : Msg → Msg) : (s.updMsg i f).tags = s.tags := rfl
@[simp] theorem State.updMsg_cmds (s : State) (i : Nat) (f : Msg → Msg) : (s.updMsg i f).cmds = s.cmds := rfl
@[simp] theorem State.updMsg_ctxs (s : State) (i : Nat) (f : Msg → Msg) : (s.updMsg i f).ctxs = s.ctxs := rfl
@[simp] theorem State.updMsg_cores (s : State) (i : Nat) (f : Msg → Msg) : (s.updMsg i f).cores = s.cores := rfl
@[simp] theorem State.updMsg_dies (s : State) (i : Nat) (f : Msg → Msg) : (s.updMsg i f).dies = s.dies := rfl
@[simp] theorem State.updMsg_links (s : State) (i : Nat) (f : Msg → Msg) : (s.updMsg i f).links = s.links := rfl
@[simp] theorem State.updMsg_lines (s : State) (i : Nat) (f : Msg → Msg) : (s.updMsg i f).lines = s.lines := rfl
@[simp] theorem State.updMsg_parts (s : State) (i : Nat) (f : Msg → Msg) : (s.updMsg i f).parts = s.parts := rfl
@[simp] theorem State.updMsg_owners (s : State) (i : Nat) (f : Msg → Msg) : (s.updMsg i f).owners = s.owners := rfl
@[simp] theorem State.updMsg_slots (s : State) (i : Nat) (f : Msg → Msg) : (s.updMsg i f).slots = s.slots := rfl
@[simp] theorem State.updMsg_levels (s : State) (i : Nat) (f : Msg → Msg) : (s.updMsg i f).levels = s.levels := rfl
@[simp] theorem State.updMsg_units (s : State) (i : Nat) (f : Msg → Msg) : (s.updMsg i f).units = s.units := rfl
@[simp] theorem State.updMsg_pipes (s : State) (i : Nat) (f : Msg → Msg) : (s.updMsg i f).pipes = s.pipes := rfl
@[simp] theorem State.updMsg_mon (s : State) (i : Nat) (f : Msg → Msg) : (s.updMsg i f).mon = s.mon := rfl
@[simp] theorem State.updMsg_iss (s : State) (i : Nat) (f : Msg → Msg) : (s.updMsg i f).iss = s.iss := rfl
@[simp] theorem State.updMsg_agenda (s : State) (i : Nat) (f : Msg → Msg) : (s.updMsg i f).agenda = s.agenda := rfl
@[simp] theorem State.updMsg_turn (s : State) (i : Nat) (f : Msg → Msg) : (s.updMsg i f).turn = s.turn := rfl
@[simp] theorem State.updMsg_free (s : State) (i : Nat) (f : Msg → Msg) : (s.updMsg i f).free = s.free := rfl
@[simp] theorem State.updMsg_flying (s : State) (i : Nat) (f : Msg → Msg) : (s.updMsg i f).flying = s.flying := rfl
@[simp] theorem State.updMsg_xfers (s : State) (i : Nat) (f : Msg → Msg) : (s.updMsg i f).xfers = s.xfers := rfl
@[simp] theorem State.updMsg_images (s : State) (i : Nat) (f : Msg → Msg) : (s.updMsg i f).images = s.images := rfl
@[simp] theorem State.updMsg_cancels (s : State) (i : Nat) (f : Msg → Msg) : (s.updMsg i f).cancels = s.cancels := rfl
@[simp] theorem State.updMsg_mbs (s : State) (i : Nat) (f : Msg → Msg) : (s.updMsg i f).mbs = s.mbs := rfl
@[simp] theorem State.updMsg_hostRegs (s : State) (i : Nat) (f : Msg → Msg) : (s.updMsg i f).hostRegs = s.hostRegs := rfl
@[simp] theorem State.updMsg_cwEvq (s : State) (i : Nat) (f : Msg → Msg) : (s.updMsg i f).cwEvq = s.cwEvq := rfl
@[simp] theorem State.updMsg_cwEvwait (s : State) (i : Nat) (f : Msg → Msg) : (s.updMsg i f).cwEvwait = s.cwEvwait := rfl
@[simp] theorem State.updMsg_power (s : State) (i : Nat) (f : Msg → Msg) : (s.updMsg i f).power = s.power := rfl
@[simp] theorem State.updMsg_waking (s : State) (i : Nat) (f : Msg → Msg) : (s.updMsg i f).waking = s.waking := rfl
@[simp] theorem State.updMsg_selfRef (s : State) (i : Nat) (f : Msg → Msg) : (s.updMsg i f).selfRef = s.selfRef := rfl
@[simp] theorem State.updMsg_saved (s : State) (i : Nat) (f : Msg → Msg) : (s.updMsg i f).saved = s.saved := rfl
@[simp] theorem State.updMsg_shelf (s : State) (i : Nat) (f : Msg → Msg) : (s.updMsg i f).shelf = s.shelf := rfl
@[simp] theorem State.updMsg_inputs (s : State) (i : Nat) (f : Msg → Msg) : (s.updMsg i f).inputs = s.inputs := rfl
@[simp] theorem State.updMsg_nextId (s : State) (i : Nat) (f : Msg → Msg) : (s.updMsg i f).nextId = s.nextId := rfl

/-! ### `State.dropMsg` -/

@[simp] theorem State.dropMsg_now (s : State) (i : Nat) : (s.dropMsg i).now = s.now := rfl
@[simp] theorem State.dropMsg_mem (s : State) (i : Nat) : (s.dropMsg i).mem = s.mem := rfl
@[simp] theorem State.dropMsg_tags (s : State) (i : Nat) : (s.dropMsg i).tags = s.tags := rfl
@[simp] theorem State.dropMsg_cmds (s : State) (i : Nat) : (s.dropMsg i).cmds = s.cmds := rfl
@[simp] theorem State.dropMsg_ctxs (s : State) (i : Nat) : (s.dropMsg i).ctxs = s.ctxs := rfl
@[simp] theorem State.dropMsg_cores (s : State) (i : Nat) : (s.dropMsg i).cores = s.cores := rfl
@[simp] theorem State.dropMsg_dies (s : State) (i : Nat) : (s.dropMsg i).dies = s.dies := rfl
@[simp] theorem State.dropMsg_links (s : State) (i : Nat) : (s.dropMsg i).links = s.links := rfl
@[simp] theorem State.dropMsg_lines (s : State) (i : Nat) : (s.dropMsg i).lines = s.lines := rfl
@[simp] theorem State.dropMsg_parts (s : State) (i : Nat) : (s.dropMsg i).parts = s.parts := rfl
@[simp] theorem State.dropMsg_owners (s : State) (i : Nat) : (s.dropMsg i).owners = s.owners := rfl
@[simp] theorem State.dropMsg_slots (s : State) (i : Nat) : (s.dropMsg i).slots = s.slots := rfl
@[simp] theorem State.dropMsg_levels (s : State) (i : Nat) : (s.dropMsg i).levels = s.levels := rfl
@[simp] theorem State.dropMsg_units (s : State) (i : Nat) : (s.dropMsg i).units = s.units := rfl
@[simp] theorem State.dropMsg_pipes (s : State) (i : Nat) : (s.dropMsg i).pipes = s.pipes := rfl
@[simp] theorem State.dropMsg_mon (s : State) (i : Nat) : (s.dropMsg i).mon = s.mon := rfl
@[simp] theorem State.dropMsg_iss (s : State) (i : Nat) : (s.dropMsg i).iss = s.iss := rfl
@[simp] theorem State.dropMsg_agenda (s : State) (i : Nat) : (s.dropMsg i).agenda = s.agenda := rfl
@[simp] theorem State.dropMsg_turn (s : State) (i : Nat) : (s.dropMsg i).turn = s.turn := rfl
@[simp] theorem State.dropMsg_free (s : State) (i : Nat) : (s.dropMsg i).free = s.free := rfl
@[simp] theorem State.dropMsg_flying (s : State) (i : Nat) : (s.dropMsg i).flying = s.flying := rfl
@[simp] theorem State.dropMsg_xfers (s : State) (i : Nat) : (s.dropMsg i).xfers = s.xfers := rfl
@[simp] theorem State.dropMsg_images (s : State) (i : Nat) : (s.dropMsg i).images = s.images := rfl
@[simp] theorem State.dropMsg_cancels (s : State) (i : Nat) : (s.dropMsg i).cancels = s.cancels := rfl
@[simp] theorem State.dropMsg_mbs (s : State) (i : Nat) : (s.dropMsg i).mbs = s.mbs := rfl
@[simp] theorem State.dropMsg_hostRegs (s : State) (i : Nat) : (s.dropMsg i).hostRegs = s.hostRegs := rfl
@[simp] theorem State.dropMsg_cwEvq (s : State) (i : Nat) : (s.dropMsg i).cwEvq = s.cwEvq := rfl
@[simp] theorem State.dropMsg_cwEvwait (s : State) (i : Nat) : (s.dropMsg i).cwEvwait = s.cwEvwait := rfl
@[simp] theorem State.dropMsg_power (s : State) (i : Nat) : (s.dropMsg i).power = s.power := rfl
@[simp] theorem State.dropMsg_waking (s : State) (i : Nat) : (s.dropMsg i).waking = s.waking := rfl
@[simp] theorem State.dropMsg_selfRef (s : State) (i : Nat) : (s.dropMsg i).selfRef = s.selfRef := rfl
@[simp] theorem State.dropMsg_saved (s : State) (i : Nat) : (s.dropMsg i).saved = s.saved := rfl
@[simp] theorem State.dropMsg_shelf (s : State) (i : Nat) : (s.dropMsg i).shelf = s.shelf := rfl
@[simp] theorem State.dropMsg_inputs (s : State) (i : Nat) : (s.dropMsg i).inputs = s.inputs := rfl
@[simp] theorem State.dropMsg_nextId (s : State) (i : Nat) : (s.dropMsg i).nextId = s.nextId := rfl

/-! ### `State.updCur` -/

@[simp] theorem State.updCur_now (s : State) (f : Ctx → Ctx) : (s.updCur f).now = s.now := rfl
@[simp] theorem State.updCur_mem (s : State) (f : Ctx → Ctx) : (s.updCur f).mem = s.mem := rfl
@[simp] theorem State.updCur_tags (s : State) (f : Ctx → Ctx) : (s.updCur f).tags = s.tags := rfl
@[simp] theorem State.updCur_msgs (s : State) (f : Ctx → Ctx) : (s.updCur f).msgs = s.msgs := rfl
@[simp] theorem State.updCur_cmds (s : State) (f : Ctx → Ctx) : (s.updCur f).cmds = s.cmds := rfl
@[simp] theorem State.updCur_cores (s : State) (f : Ctx → Ctx) : (s.updCur f).cores = s.cores := rfl
@[simp] theorem State.updCur_dies (s : State) (f : Ctx → Ctx) : (s.updCur f).dies = s.dies := rfl
@[simp] theorem State.updCur_links (s : State) (f : Ctx → Ctx) : (s.updCur f).links = s.links := rfl
@[simp] theorem State.updCur_lines (s : State) (f : Ctx → Ctx) : (s.updCur f).lines = s.lines := rfl
@[simp] theorem State.updCur_parts (s : State) (f : Ctx → Ctx) : (s.updCur f).parts = s.parts := rfl
@[simp] theorem State.updCur_owners (s : State) (f : Ctx → Ctx) : (s.updCur f).owners = s.owners := rfl
@[simp] theorem State.updCur_slots (s : State) (f : Ctx → Ctx) : (s.updCur f).slots = s.slots := rfl
@[simp] theorem State.updCur_levels (s : State) (f : Ctx → Ctx) : (s.updCur f).levels = s.levels := rfl
@[simp] theorem State.updCur_units (s : State) (f : Ctx → Ctx) : (s.updCur f).units = s.units := rfl
@[simp] theorem State.updCur_pipes (s : State) (f : Ctx → Ctx) : (s.updCur f).pipes = s.pipes := rfl
@[simp] theorem State.updCur_mon (s : State) (f : Ctx → Ctx) : (s.updCur f).mon = s.mon := rfl
@[simp] theorem State.updCur_iss (s : State) (f : Ctx → Ctx) : (s.updCur f).iss = s.iss := rfl
@[simp] theorem State.updCur_agenda (s : State) (f : Ctx → Ctx) : (s.updCur f).agenda = s.agenda := rfl
@[simp] theorem State.updCur_turn (s : State) (f : Ctx → Ctx) : (s.updCur f).turn = s.turn := rfl
@[simp] theorem State.updCur_free (s : State) (f : Ctx → Ctx) : (s.updCur f).free = s.free := rfl
@[simp] theorem State.updCur_flying (s : State) (f : Ctx → Ctx) : (s.updCur f).flying = s.flying := rfl
@[simp] theorem State.updCur_xfers (s : State) (f : Ctx → Ctx) : (s.updCur f).xfers = s.xfers := rfl
@[simp] theorem State.updCur_images (s : State) (f : Ctx → Ctx) : (s.updCur f).images = s.images := rfl
@[simp] theorem State.updCur_cancels (s : State) (f : Ctx → Ctx) : (s.updCur f).cancels = s.cancels := rfl
@[simp] theorem State.updCur_mbs (s : State) (f : Ctx → Ctx) : (s.updCur f).mbs = s.mbs := rfl
@[simp] theorem State.updCur_hostRegs (s : State) (f : Ctx → Ctx) : (s.updCur f).hostRegs = s.hostRegs := rfl
@[simp] theorem State.updCur_cwEvq (s : State) (f : Ctx → Ctx) : (s.updCur f).cwEvq = s.cwEvq := rfl
@[simp] theorem State.updCur_cwEvwait (s : State) (f : Ctx → Ctx) : (s.updCur f).cwEvwait = s.cwEvwait := rfl
@[simp] theorem State.updCur_power (s : State) (f : Ctx → Ctx) : (s.updCur f).power = s.power := rfl
@[simp] theorem State.updCur_waking (s : State) (f : Ctx → Ctx) : (s.updCur f).waking = s.waking := rfl
@[simp] theorem State.updCur_selfRef (s : State) (f : Ctx → Ctx) : (s.updCur f).selfRef = s.selfRef := rfl
@[simp] theorem State.updCur_saved (s : State) (f : Ctx → Ctx) : (s.updCur f).saved = s.saved := rfl
@[simp] theorem State.updCur_shelf (s : State) (f : Ctx → Ctx) : (s.updCur f).shelf = s.shelf := rfl
@[simp] theorem State.updCur_inputs (s : State) (f : Ctx → Ctx) : (s.updCur f).inputs = s.inputs := rfl
@[simp] theorem State.updCur_nextId (s : State) (f : Ctx → Ctx) : (s.updCur f).nextId = s.nextId := rfl

/-! ### `State.updLive` -/

@[simp] theorem State.updLive_now (s : State) (f : Arch → Arch) : (s.updLive f).now = s.now := rfl
@[simp] theorem State.updLive_mem (s : State) (f : Arch → Arch) : (s.updLive f).mem = s.mem := rfl
@[simp] theorem State.updLive_tags (s : State) (f : Arch → Arch) : (s.updLive f).tags = s.tags := rfl
@[simp] theorem State.updLive_msgs (s : State) (f : Arch → Arch) : (s.updLive f).msgs = s.msgs := rfl
@[simp] theorem State.updLive_cmds (s : State) (f : Arch → Arch) : (s.updLive f).cmds = s.cmds := rfl
@[simp] theorem State.updLive_cores (s : State) (f : Arch → Arch) : (s.updLive f).cores = s.cores := rfl
@[simp] theorem State.updLive_dies (s : State) (f : Arch → Arch) : (s.updLive f).dies = s.dies := rfl
@[simp] theorem State.updLive_links (s : State) (f : Arch → Arch) : (s.updLive f).links = s.links := rfl
@[simp] theorem State.updLive_lines (s : State) (f : Arch → Arch) : (s.updLive f).lines = s.lines := rfl
@[simp] theorem State.updLive_parts (s : State) (f : Arch → Arch) : (s.updLive f).parts = s.parts := rfl
@[simp] theorem State.updLive_owners (s : State) (f : Arch → Arch) : (s.updLive f).owners = s.owners := rfl
@[simp] theorem State.updLive_slots (s : State) (f : Arch → Arch) : (s.updLive f).slots = s.slots := rfl
@[simp] theorem State.updLive_levels (s : State) (f : Arch → Arch) : (s.updLive f).levels = s.levels := rfl
@[simp] theorem State.updLive_units (s : State) (f : Arch → Arch) : (s.updLive f).units = s.units := rfl
@[simp] theorem State.updLive_pipes (s : State) (f : Arch → Arch) : (s.updLive f).pipes = s.pipes := rfl
@[simp] theorem State.updLive_mon (s : State) (f : Arch → Arch) : (s.updLive f).mon = s.mon := rfl
@[simp] theorem State.updLive_iss (s : State) (f : Arch → Arch) : (s.updLive f).iss = s.iss := rfl
@[simp] theorem State.updLive_agenda (s : State) (f : Arch → Arch) : (s.updLive f).agenda = s.agenda := rfl
@[simp] theorem State.updLive_turn (s : State) (f : Arch → Arch) : (s.updLive f).turn = s.turn := rfl
@[simp] theorem State.updLive_free (s : State) (f : Arch → Arch) : (s.updLive f).free = s.free := rfl
@[simp] theorem State.updLive_flying (s : State) (f : Arch → Arch) : (s.updLive f).flying = s.flying := rfl
@[simp] theorem State.updLive_xfers (s : State) (f : Arch → Arch) : (s.updLive f).xfers = s.xfers := rfl
@[simp] theorem State.updLive_images (s : State) (f : Arch → Arch) : (s.updLive f).images = s.images := rfl
@[simp] theorem State.updLive_cancels (s : State) (f : Arch → Arch) : (s.updLive f).cancels = s.cancels := rfl
@[simp] theorem State.updLive_mbs (s : State) (f : Arch → Arch) : (s.updLive f).mbs = s.mbs := rfl
@[simp] theorem State.updLive_hostRegs (s : State) (f : Arch → Arch) : (s.updLive f).hostRegs = s.hostRegs := rfl
@[simp] theorem State.updLive_cwEvq (s : State) (f : Arch → Arch) : (s.updLive f).cwEvq = s.cwEvq := rfl
@[simp] theorem State.updLive_cwEvwait (s : State) (f : Arch → Arch) : (s.updLive f).cwEvwait = s.cwEvwait := rfl
@[simp] theorem State.updLive_power (s : State) (f : Arch → Arch) : (s.updLive f).power = s.power := rfl
@[simp] theorem State.updLive_waking (s : State) (f : Arch → Arch) : (s.updLive f).waking = s.waking := rfl
@[simp] theorem State.updLive_selfRef (s : State) (f : Arch → Arch) : (s.updLive f).selfRef = s.selfRef := rfl
@[simp] theorem State.updLive_saved (s : State) (f : Arch → Arch) : (s.updLive f).saved = s.saved := rfl
@[simp] theorem State.updLive_shelf (s : State) (f : Arch → Arch) : (s.updLive f).shelf = s.shelf := rfl
@[simp] theorem State.updLive_inputs (s : State) (f : Arch → Arch) : (s.updLive f).inputs = s.inputs := rfl
@[simp] theorem State.updLive_nextId (s : State) (f : Arch → Arch) : (s.updLive f).nextId = s.nextId := rfl

/-! ### `State.pushFlight` -/

@[simp] theorem State.pushFlight_now (s : State) (d : Dest) (l : Nat) (b : Option Nat) (v : W64) (p : Nat) : (s.pushFlight d l b v p).now = s.now := rfl
@[simp] theorem State.pushFlight_mem (s : State) (d : Dest) (l : Nat) (b : Option Nat) (v : W64) (p : Nat) : (s.pushFlight d l b v p).mem = s.mem := rfl
@[simp] theorem State.pushFlight_tags (s : State) (d : Dest) (l : Nat) (b : Option Nat) (v : W64) (p : Nat) : (s.pushFlight d l b v p).tags = s.tags := rfl
@[simp] theorem State.pushFlight_msgs (s : State) (d : Dest) (l : Nat) (b : Option Nat) (v : W64) (p : Nat) : (s.pushFlight d l b v p).msgs = s.msgs := rfl
@[simp] theorem State.pushFlight_cmds (s : State) (d : Dest) (l : Nat) (b : Option Nat) (v : W64) (p : Nat) : (s.pushFlight d l b v p).cmds = s.cmds := rfl
@[simp] theorem State.pushFlight_cores (s : State) (d : Dest) (l : Nat) (b : Option Nat) (v : W64) (p : Nat) : (s.pushFlight d l b v p).cores = s.cores := rfl
@[simp] theorem State.pushFlight_dies (s : State) (d : Dest) (l : Nat) (b : Option Nat) (v : W64) (p : Nat) : (s.pushFlight d l b v p).dies = s.dies := rfl
@[simp] theorem State.pushFlight_links (s : State) (d : Dest) (l : Nat) (b : Option Nat) (v : W64) (p : Nat) : (s.pushFlight d l b v p).links = s.links := rfl
@[simp] theorem State.pushFlight_lines (s : State) (d : Dest) (l : Nat) (b : Option Nat) (v : W64) (p : Nat) : (s.pushFlight d l b v p).lines = s.lines := rfl
@[simp] theorem State.pushFlight_parts (s : State) (d : Dest) (l : Nat) (b : Option Nat) (v : W64) (p : Nat) : (s.pushFlight d l b v p).parts = s.parts := rfl
@[simp] theorem State.pushFlight_owners (s : State) (d : Dest) (l : Nat) (b : Option Nat) (v : W64) (p : Nat) : (s.pushFlight d l b v p).owners = s.owners := rfl
@[simp] theorem State.pushFlight_slots (s : State) (d : Dest) (l : Nat) (b : Option Nat) (v : W64) (p : Nat) : (s.pushFlight d l b v p).slots = s.slots := rfl
@[simp] theorem State.pushFlight_levels (s : State) (d : Dest) (l : Nat) (b : Option Nat) (v : W64) (p : Nat) : (s.pushFlight d l b v p).levels = s.levels := rfl
@[simp] theorem State.pushFlight_units (s : State) (d : Dest) (l : Nat) (b : Option Nat) (v : W64) (p : Nat) : (s.pushFlight d l b v p).units = s.units := rfl
@[simp] theorem State.pushFlight_pipes (s : State) (d : Dest) (l : Nat) (b : Option Nat) (v : W64) (p : Nat) : (s.pushFlight d l b v p).pipes = s.pipes := rfl
@[simp] theorem State.pushFlight_mon (s : State) (d : Dest) (l : Nat) (b : Option Nat) (v : W64) (p : Nat) : (s.pushFlight d l b v p).mon = s.mon := rfl
@[simp] theorem State.pushFlight_iss (s : State) (d : Dest) (l : Nat) (b : Option Nat) (v : W64) (p : Nat) : (s.pushFlight d l b v p).iss = s.iss := rfl
@[simp] theorem State.pushFlight_agenda (s : State) (d : Dest) (l : Nat) (b : Option Nat) (v : W64) (p : Nat) : (s.pushFlight d l b v p).agenda = s.agenda := rfl
@[simp] theorem State.pushFlight_turn (s : State) (d : Dest) (l : Nat) (b : Option Nat) (v : W64) (p : Nat) : (s.pushFlight d l b v p).turn = s.turn := rfl
@[simp] theorem State.pushFlight_free (s : State) (d : Dest) (l : Nat) (b : Option Nat) (v : W64) (p : Nat) : (s.pushFlight d l b v p).free = s.free := rfl
@[simp] theorem State.pushFlight_flying (s : State) (d : Dest) (l : Nat) (b : Option Nat) (v : W64) (p : Nat) : (s.pushFlight d l b v p).flying = s.flying := rfl
@[simp] theorem State.pushFlight_xfers (s : State) (d : Dest) (l : Nat) (b : Option Nat) (v : W64) (p : Nat) : (s.pushFlight d l b v p).xfers = s.xfers := rfl
@[simp] theorem State.pushFlight_images (s : State) (d : Dest) (l : Nat) (b : Option Nat) (v : W64) (p : Nat) : (s.pushFlight d l b v p).images = s.images := rfl
@[simp] theorem State.pushFlight_cancels (s : State) (d : Dest) (l : Nat) (b : Option Nat) (v : W64) (p : Nat) : (s.pushFlight d l b v p).cancels = s.cancels := rfl
@[simp] theorem State.pushFlight_mbs (s : State) (d : Dest) (l : Nat) (b : Option Nat) (v : W64) (p : Nat) : (s.pushFlight d l b v p).mbs = s.mbs := rfl
@[simp] theorem State.pushFlight_hostRegs (s : State) (d : Dest) (l : Nat) (b : Option Nat) (v : W64) (p : Nat) : (s.pushFlight d l b v p).hostRegs = s.hostRegs := rfl
@[simp] theorem State.pushFlight_cwEvq (s : State) (d : Dest) (l : Nat) (b : Option Nat) (v : W64) (p : Nat) : (s.pushFlight d l b v p).cwEvq = s.cwEvq := rfl
@[simp] theorem State.pushFlight_cwEvwait (s : State) (d : Dest) (l : Nat) (b : Option Nat) (v : W64) (p : Nat) : (s.pushFlight d l b v p).cwEvwait = s.cwEvwait := rfl
@[simp] theorem State.pushFlight_power (s : State) (d : Dest) (l : Nat) (b : Option Nat) (v : W64) (p : Nat) : (s.pushFlight d l b v p).power = s.power := rfl
@[simp] theorem State.pushFlight_waking (s : State) (d : Dest) (l : Nat) (b : Option Nat) (v : W64) (p : Nat) : (s.pushFlight d l b v p).waking = s.waking := rfl
@[simp] theorem State.pushFlight_selfRef (s : State) (d : Dest) (l : Nat) (b : Option Nat) (v : W64) (p : Nat) : (s.pushFlight d l b v p).selfRef = s.selfRef := rfl
@[simp] theorem State.pushFlight_saved (s : State) (d : Dest) (l : Nat) (b : Option Nat) (v : W64) (p : Nat) : (s.pushFlight d l b v p).saved = s.saved := rfl
@[simp] theorem State.pushFlight_shelf (s : State) (d : Dest) (l : Nat) (b : Option Nat) (v : W64) (p : Nat) : (s.pushFlight d l b v p).shelf = s.shelf := rfl
@[simp] theorem State.pushFlight_inputs (s : State) (d : Dest) (l : Nat) (b : Option Nat) (v : W64) (p : Nat) : (s.pushFlight d l b v p).inputs = s.inputs := rfl
@[simp] theorem State.pushFlight_nextId (s : State) (d : Dest) (l : Nat) (b : Option Nat) (v : W64) (p : Nat) : (s.pushFlight d l b v p).nextId = s.nextId := rfl

/-! ### `State.status` -/

@[simp] theorem State.status_now (s : State) (p : Nat) (v : W64) : (s.status p v).now = s.now := rfl
@[simp] theorem State.status_mem (s : State) (p : Nat) (v : W64) : (s.status p v).mem = s.mem := rfl
@[simp] theorem State.status_tags (s : State) (p : Nat) (v : W64) : (s.status p v).tags = s.tags := rfl
@[simp] theorem State.status_msgs (s : State) (p : Nat) (v : W64) : (s.status p v).msgs = s.msgs := rfl
@[simp] theorem State.status_cmds (s : State) (p : Nat) (v : W64) : (s.status p v).cmds = s.cmds := rfl
@[simp] theorem State.status_cores (s : State) (p : Nat) (v : W64) : (s.status p v).cores = s.cores := rfl
@[simp] theorem State.status_dies (s : State) (p : Nat) (v : W64) : (s.status p v).dies = s.dies := rfl
@[simp] theorem State.status_links (s : State) (p : Nat) (v : W64) : (s.status p v).links = s.links := rfl
@[simp] theorem State.status_lines (s : State) (p : Nat) (v : W64) : (s.status p v).lines = s.lines := rfl
@[simp] theorem State.status_parts (s : State) (p : Nat) (v : W64) : (s.status p v).parts = s.parts := rfl
@[simp] theorem State.status_owners (s : State) (p : Nat) (v : W64) : (s.status p v).owners = s.owners := rfl
@[simp] theorem State.status_slots (s : State) (p : Nat) (v : W64) : (s.status p v).slots = s.slots := rfl
@[simp] theorem State.status_levels (s : State) (p : Nat) (v : W64) : (s.status p v).levels = s.levels := rfl
@[simp] theorem State.status_units (s : State) (p : Nat) (v : W64) : (s.status p v).units = s.units := rfl
@[simp] theorem State.status_pipes (s : State) (p : Nat) (v : W64) : (s.status p v).pipes = s.pipes := rfl
@[simp] theorem State.status_mon (s : State) (p : Nat) (v : W64) : (s.status p v).mon = s.mon := rfl
@[simp] theorem State.status_iss (s : State) (p : Nat) (v : W64) : (s.status p v).iss = s.iss := rfl
@[simp] theorem State.status_agenda (s : State) (p : Nat) (v : W64) : (s.status p v).agenda = s.agenda := rfl
@[simp] theorem State.status_turn (s : State) (p : Nat) (v : W64) : (s.status p v).turn = s.turn := rfl
@[simp] theorem State.status_free (s : State) (p : Nat) (v : W64) : (s.status p v).free = s.free := rfl
@[simp] theorem State.status_flying (s : State) (p : Nat) (v : W64) : (s.status p v).flying = s.flying := rfl
@[simp] theorem State.status_xfers (s : State) (p : Nat) (v : W64) : (s.status p v).xfers = s.xfers := rfl
@[simp] theorem State.status_images (s : State) (p : Nat) (v : W64) : (s.status p v).images = s.images := rfl
@[simp] theorem State.status_cancels (s : State) (p : Nat) (v : W64) : (s.status p v).cancels = s.cancels := rfl
@[simp] theorem State.status_mbs (s : State) (p : Nat) (v : W64) : (s.status p v).mbs = s.mbs := rfl
@[simp] theorem State.status_hostRegs (s : State) (p : Nat) (v : W64) : (s.status p v).hostRegs = s.hostRegs := rfl
@[simp] theorem State.status_cwEvq (s : State) (p : Nat) (v : W64) : (s.status p v).cwEvq = s.cwEvq := rfl
@[simp] theorem State.status_cwEvwait (s : State) (p : Nat) (v : W64) : (s.status p v).cwEvwait = s.cwEvwait := rfl
@[simp] theorem State.status_power (s : State) (p : Nat) (v : W64) : (s.status p v).power = s.power := rfl
@[simp] theorem State.status_waking (s : State) (p : Nat) (v : W64) : (s.status p v).waking = s.waking := rfl
@[simp] theorem State.status_selfRef (s : State) (p : Nat) (v : W64) : (s.status p v).selfRef = s.selfRef := rfl
@[simp] theorem State.status_saved (s : State) (p : Nat) (v : W64) : (s.status p v).saved = s.saved := rfl
@[simp] theorem State.status_shelf (s : State) (p : Nat) (v : W64) : (s.status p v).shelf = s.shelf := rfl
@[simp] theorem State.status_inputs (s : State) (p : Nat) (v : W64) : (s.status p v).inputs = s.inputs := rfl
@[simp] theorem State.status_nextId (s : State) (p : Nat) (v : W64) : (s.status p v).nextId = s.nextId := rfl

/-! ### Reading back -/

@[simp] theorem State.ctx_setCtx_same (s : State) (k : Nat) (c : Ctx) : (s.setCtx k c).ctx k = c := by simp [State.ctx, State.setCtx]
@[simp] theorem State.ctx_updCtx_same (s : State) (k : Nat) (f : Ctx → Ctx) : (s.updCtx k f).ctx k = f (s.ctx k) := by
  simp [State.updCtx]
theorem State.ctx_setCtx_other (s : State) {k j : Nat} (c : Ctx) (h : j ≠ k) : (s.setCtx k c).ctx j = s.ctx j := by
  simp [State.ctx, State.setCtx, look_put_other _ _ _ h]
theorem State.ctx_updCtx_other (s : State) {k j : Nat} (f : Ctx → Ctx) (h : j ≠ k) : (s.updCtx k f).ctx j = s.ctx j :=
  s.ctx_setCtx_other _ h
@[simp] theorem State.core_updCore_same (s : State) (c : Nat) (f : Core → Core) : (s.updCore c f).core c = f (s.core c) := by
  simp [State.core, State.updCore, State.setCore]
theorem State.core_updCore_other (s : State) {c d : Nat} (f : Core → Core) (h : d ≠ c) : (s.updCore c f).core d = s.core d := by
  simp [State.core, State.updCore, State.setCore, look_put_other _ _ _ h]
@[simp] theorem State.key_updCur (s : State) (f : Ctx → Ctx) : (s.updCur f).key = s.key := rfl
@[simp] theorem State.key_updLive (s : State) (f : Arch → Arch) : (s.updLive f).key = s.key := rfl
@[simp] theorem State.cur_updCur (s : State) (f : Ctx → Ctx) : (s.updCur f).cur = f s.cur := by
  simp [State.cur, State.updCur, State.key]
@[simp] theorem State.cur_updLive (s : State) (f : Arch → Arch) : (s.updLive f).cur = { s.cur with live := f s.cur.live } := by
  simp [State.updLive]
@[simp] theorem State.ctx_updCore (s : State) (c : Nat) (f : Core → Core) (k : Nat) : (s.updCore c f).ctx k = s.ctx k := rfl
@[simp] theorem State.core_updCtx (s : State) (k : Nat) (f : Ctx → Ctx) (c : Nat) : (s.updCtx k f).core c = s.core c := rfl

/-! ### Registers -/

@[simp] theorem Arch.readG_zero (a : Arch) : a.readG 0 = 0 := rfl
@[simp] theorem Arch.writeG_zero (a : Arch) (v : W64) : a.writeG 0 v = a := rfl
theorem Arch.readG_writeG_same (a : Arch) {n : Nat} (v : W64) (h : n ≠ 0) : (a.writeG n v).readG n = v := by
  simp [Arch.readG, Arch.writeG, h]
theorem Arch.readG_writeG_other (a : Arch) {n m : Nat} (v : W64) (h : m ≠ n) : (a.writeG n v).readG m = a.readG m := by
  unfold Arch.readG Arch.writeG
  by_cases hm : m = 0
  · simp [hm]
  · by_cases hn : n = 0
    · simp [hn]
    · simp [hm, hn, look_put_other _ _ _ h]
@[simp] theorem Arch.readP_zero (a : Arch) : a.readP 0 = true := rfl
@[simp] theorem Arch.writeP_zero (a : Arch) (v : Bool) : a.writeP 0 v = a := rfl

end Sys2Proof.Machine
end

