-- ==== Sys2Proof/Laws/Words.lean ====
section
/-! SUPPORT. What the shared frames of the words answer: legal and annulled words, results in flight, records, held words. -/

namespace Sys2Proof.Machine

/-- A word that executes runs its body. -/
theorem State.word_executes {s : State} {i : Instr} {g : Bool} (h : Executes i g s) (body : State → Out) : s.word i.wf g body = body s := by
  simp [State.word, h.1, h.2]

/-- An illegal word raises the illegal-instruction trap. -/
theorem State.word_illegal (s : State) (g : Bool) (body : State → Out) : s.word false g body = s.illegal := by simp [State.word]

/-- An annulled word does nothing. -/
theorem State.word_annulled {s : State} {g : Bool} (h : s.annulled g = true) (body : State → Out) : s.word true g body = .next s := by
  simp [State.word, h]

/-- A result that collides with none goes into flight. -/
theorem State.result_free {s : State} {dst : Dest} {lat : Nat} {latch : Option Nat} {prio : Nat} (v : W64)
    (h : s.cur.live.collides dst lat = false) (hb : latch = some 4 → s.iss.sec = true ∨ s.b4Busy lat = false) :
    s.result dst lat latch v prio = .next (s.pushFlight dst lat latch v prio) := by
  unfold State.result
  rw [if_neg]
  simp only [h, Bool.false_or, Bool.and_eq_true, beq_iff_eq, Bool.not_eq_true', not_and, Bool.not_eq_true]
  rintro ⟨hl, hs⟩
  rcases hb hl with h1 | h1
  · rw [h1] at hs; cases hs
  · exact h1

/-- A result that collides raises the illegal-schedule trap. -/
theorem State.result_clash {s : State} {dst : Dest} {lat : Nat} {latch : Option Nat} {prio : Nat} (v : W64)
    (h : s.cur.live.collides dst lat = true) : s.result dst lat latch v prio = s.raise 5 causeSchedule (BitVec.ofNat 64 s.iss.widx) := by
  simp [State.result, h]

/-- An S word's result goes into flight. -/
theorem State.sResult_free {s : State} {dst : BitVec 5} {nw : Bool} {lat : Nat} (v : W64) (hs : s.iss.slot ≤ 1)
    (h : s.cur.live.collides (if nw then .none else .g dst.toNat) lat = false) :
    s.sResult dst nw lat v = .next (s.pushFlight (if nw then .none else .g dst.toNat) lat (some s.iss.slot) v) := by
  unfold State.sResult State.sLatch
  refine State.result_free v h ?_
  intro h4
  simp only [Option.some.injEq] at h4
  omega

/-- An S word's predicate goes into flight. -/
theorem State.pResult_free {s : State} {pd : BitVec 3} (t : Bool) (hs : s.iss.slot ≤ 1) (h : s.cur.live.collides (.p pd.toNat) 1 = false) :
    s.pResult pd t = .next (s.pushFlight (.p pd.toNat) 1 (some s.iss.slot) (boolWord t)) := by
  unfold State.pResult State.sLatch
  refine State.result_free _ h ?_
  intro h4
  simp only [Option.some.injEq] at h4
  omega

end Sys2Proof.Machine
end

