-- ==== Sys2Proof/Laws/Traps.lean ====
section
/-! SUPPORT. What taking a trap leaves alone, and what it leaves behind (R112, R118, R380, R383, R402). -/

set_option Elab.async false

namespace Sys2Proof

open Machine

theorem SameRegs.refl (a : Arch) : SameRegs a a := ⟨rfl, rfl, rfl, rfl, rfl, rfl, rfl⟩

theorem SameRegs.trans {a b c : Arch} (h : SameRegs a b) (h' : SameRegs b c) : SameRegs a c := by
  obtain ⟨h1, h2, h3, h4, h5, h6, h7⟩ := h
  obtain ⟨i1, i2, i3, i4, i5, i6, i7⟩ := h'
  exact ⟨i1.trans h1, i2.trans h2, i3.trans h3, i4.trans h4, i5.trans h5, i6.trans h6, i7.trans h7⟩

/-- Registers that stay do so without the latches too. -/
theorem SameRegs.dropLatches {a b : Arch} (h : SameRegs a b) : SameRegs { a with b := [] } { b with b := [] } := by
  obtain ⟨h1, h2, _, h4, h5, h6, h7⟩ := h
  exact ⟨h1, h2, rfl, h4, h5, h6, h7⟩

theorem KeepsRegisters.of_same {s t : State} (h : SameRegisters s t) : KeepsRegisters s t := fun k => .inl (h k)

theorem SameArrays.refl (s : State) : SameArrays s s := fun _ => ⟨rfl, rfl, rfl, rfl⟩
theorem SameShared.refl (s : State) : SameShared s s := ⟨rfl, rfl, rfl, rfl, rfl, rfl, rfl, rfl, rfl⟩
end Sys2Proof

namespace Sys2Proof.Machine

/-- A list of commands, but for how long each has still to run. -/
def untimed (cs : List Cmd) : List Cmd := cs.map (fun c => { c with rem := 0 })

/-- Everything but the control of contexts stays: stores, registers (the latches of a context that freezes as no primary apart), arrays, commands (but
for the time that one stood still, R383), accesses, the primaries, the shared parts. -/
structure Kept (s t : State) : Prop where
  mem : t.mem = s.mem
  tags : t.tags = s.tags
  cmds : untimed t.cmds = untimed s.cmds
  msgs : t.msgs = s.msgs
  regs : KeepsRegisters s t
  frozen : ∀ k, (s.ctx k).frozen.isSome = true → (t.ctx k).frozen.isSome = true
  primary : ∀ c, (t.core c).primary = (s.core c).primary
  arrays : SameArrays s t
  shared : SameShared s t

theorem Kept.refl (s : State) : Kept s s :=
  ⟨rfl, rfl, rfl, rfl, .of_same (fun _ => .refl _), fun _ h => h, fun _ => rfl, .refl s, .refl s⟩

theorem Kept.trans {s t u : State} (h : Kept s t) (h' : Kept t u) : Kept s u where
  mem := h'.mem.trans h.mem
  tags := h'.tags.trans h.tags
  cmds := h'.cmds.trans h.cmds
  msgs := h'.msgs.trans h.msgs
  regs := fun k => by
    obtain a | ⟨a1, a2, a3⟩ := h.regs k <;> obtain b | ⟨b1, b2, b3⟩ := h'.regs k
    · exact .inl (a.trans b)
    · exact .inr ⟨b1, by rw [← h.primary]; exact b2, (SameRegs.dropLatches a).trans b3⟩
    · exact .inr ⟨h'.frozen k a1, a2, a3.trans b⟩
    · exact .inr ⟨b1, a2, (SameRegs.dropLatches a3).trans b3⟩
  frozen := fun k x => h'.frozen k (h.frozen k x)
  primary := fun c => (h'.primary c).trans (h.primary c)
  arrays := fun c => by
    obtain ⟨a1, a2, a3, a4⟩ := h.arrays c
    obtain ⟨b1, b2, b3, b4⟩ := h'.arrays c
    exact ⟨b1.trans a1, b2.trans a2, b3.trans a3, b4.trans a4⟩
  shared := by
    obtain ⟨a1, a2, a3, a4, a5, a6, a7, a8, a9⟩ := h.shared
    obtain ⟨b1, b2, b3, b4, b5, b6, b7, b8, b9⟩ := h'.shared
    exact ⟨b1.trans a1, b2.trans a2, b3.trans a3, b4.trans a4, b5.trans a5, b6.trans a6, b7.trans a7, b8.trans a8, b9.trans a9⟩

/-- What keeps the tables keeps everything of them. -/
theorem Kept.tables {s t : State} (hm : t.mem = s.mem) (ht : t.tags = s.tags) (hc : t.cmds = s.cmds) (ha : t.msgs = s.msgs)
    (hx : t.ctxs = s.ctxs) (hk : t.cores = s.cores) (hs : SameShared s t) : Kept s t :=
  ⟨hm, ht, by rw [hc], ha, .of_same (fun k => by unfold State.ctx; rw [hx]; exact .refl _), fun k => by unfold State.ctx; rw [hx]; exact id,
    fun c => by unfold State.core; rw [hk], fun c => by unfold State.core; rw [hk]; exact ⟨rfl, rfl, rfl, rfl⟩, hs⟩

theorem Kept.memory {s t : State} (h : Kept s t) : SameMemory s t := fun a => by rw [h.mem]

/-- Every state of a fold is related to the first when every step is. -/
theorem foldl_related {α : Type} (R : State → State → Prop) (hr : ∀ s, R s s) (ht : ∀ {s t u}, R s t → R t u → R s u)
    (f : State → α → State) (hf : ∀ s x, R s (f s x)) : ∀ (l : List α) (s : State), R s (l.foldl f s)
  | [], s => hr s
  | x :: l, s => ht (hf s x) (foldl_related R hr ht f hf l (f s x))

/-- A change of a context that keeps its registers keeps everything else. -/
theorem Kept.updCtx (s : State) (k : Nat) (f : Ctx → Ctx) (h : SameRegs (s.ctx k).live (f (s.ctx k)).live)
    (hf : (s.ctx k).frozen.isSome = true → (f (s.ctx k)).frozen.isSome = true) : Kept s (s.updCtx k f) :=
  ⟨rfl, rfl, rfl, rfl, .of_same (fun j => by
    by_cases hj : j = k
    · subst hj; rw [State.ctx_updCtx_same]; exact h
    · rw [State.ctx_updCtx_other _ _ hj]; exact .refl _), fun j => by
    by_cases hj : j = k
    · subst hj; rw [State.ctx_updCtx_same]; exact hf
    · rw [State.ctx_updCtx_other _ _ hj]; exact id, fun _ => rfl, .refl s, .refl s⟩

/-- A change of a core that keeps its arrays keeps everything else. -/
theorem Kept.updCore (s : State) (c : Nat) (f : Core → Core)
    (h : (f (s.core c)).pairs = (s.core c).pairs ∧ (f (s.core c)).adc = (s.core c).adc ∧ (f (s.core c)).fmt = (s.core c).fmt ∧
      (f (s.core c)).obSeq = (s.core c).obSeq) (hp : (f (s.core c)).primary = (s.core c).primary) : Kept s (s.updCore c f) :=
  ⟨rfl, rfl, rfl, rfl, .of_same (fun _ => .refl _), fun _ x => x, fun d => by
    by_cases hd : d = c
    · subst hd; rw [State.core_updCore_same]; exact hp
    · rw [State.core_updCore_other _ _ hd], fun d => by
    by_cases hd : d = c
    · subst hd; rw [State.core_updCore_same]; exact h
    · rw [State.core_updCore_other _ _ hd]; exact ⟨rfl, rfl, rfl, rfl⟩, .refl s⟩

@[simp] theorem State.ctx_giveBack (s : State) (k n j : Nat) : (s.giveBack k n).ctx j = s.ctx j := by
  unfold State.giveBack; split <;> rfl

/-- Commands that are given time back stay as they are. -/
theorem State.giveBack_kept (s : State) (k n : Nat) : Kept s (s.giveBack k n) := by
  unfold State.giveBack
  split
  · exact .refl s
  · refine ⟨rfl, rfl, ?_, rfl, .of_same (fun _ => .refl _), fun _ x => x, fun _ => rfl, .refl s, .refl s⟩
    simp only [untimed, List.map_map]
    refine List.map_congr_left fun c _ => ?_
    simp only [Function.comp]
    split
    · split
      · split <;> rfl
      · rfl
    · rfl

/-- A context freezes: its latches stay, or another context is the primary. -/
theorem State.freezes_kept (s : State) (k cause : Nat) (f : Ctx → Ctx) (hl : SameRegs { (s.ctx k).live with b := s.keptLatches k } (f (s.ctx k)).live)
    (hf : (f (s.ctx k)).frozen = some cause) : Kept s (s.updCtx k f) := by
  refine ⟨rfl, rfl, rfl, rfl, fun j => ?_, fun j => ?_, fun _ => rfl, .refl s, .refl s⟩ <;> by_cases hj : j = k
  · subst hj
    rw [State.ctx_updCtx_same]
    by_cases hp : (s.core (keyCore j)).primary = keyCtx j || (s.ctx j).keepLatch
    · left
      rw [State.keptLatches, if_pos hp] at hl
      exact hl
    · right
      rw [State.keptLatches, if_neg hp] at hl
      simp only [Bool.or_eq_true, decide_eq_true_eq, not_or] at hp
      exact ⟨by rw [hf]; rfl, hp.1, hl⟩
  · rw [State.ctx_updCtx_other _ _ hj]; exact .inl (.refl _)
  · subst hj; rw [State.ctx_updCtx_same, hf]; exact fun _ => rfl
  · rw [State.ctx_updCtx_other _ _ hj]; exact id

/-- Freezing keeps everything but the control of the context, and its latches only with the primary (R20, R383). -/
theorem State.freeze_kept (s : State) (k cause : Nat) : Kept s (s.freeze k cause) := by
  unfold State.freeze
  refine (s.giveBack_kept k _).trans (Kept.trans (State.freezes_kept _ k cause _ ⟨rfl, rfl, rfl, rfl, rfl, rfl, rfl⟩ rfl) (Kept.updCore _ _ _ ?_ ?_))
  · split <;> exact ⟨rfl, rfl, rfl, rfl⟩
  · split <;> rfl

theorem State.haltFor_kept (s : State) (k r d : Nat) : Kept s (s.haltFor k r d) := by
  unfold State.haltFor
  simp only
  split
  · exact Kept.updCtx s k _ (.refl _) id
  · exact Kept.trans (Kept.updCtx s k _ (.refl _) id) (Kept.updCtx _ k _ (.refl _) id)

theorem State.supervisorFault_kept (s : State) (k : Nat) : Kept s (s.supervisorFault k) := by
  unfold State.supervisorFault
  split
  · exact s.freeze_kept k 15
  · exact Kept.trans (foldl_related Kept Kept.refl Kept.trans _ (fun s x => s.haltFor_kept x 3 _) _ s)
      (Kept.tables rfl rfl rfl rfl rfl rfl (.refl _))

/-- A call of the monitor holds its caller and keeps everything else (R401). -/
theorem State.callMonitor_kept (s : State) (k n : Nat) : Kept s (s.callMonitor k n) := by
  unfold State.callMonitor
  simp only
  refine Kept.trans ((s.giveBack_kept k _).trans (Kept.updCtx _ k (fun c => { c with frozen := some 8, heldFor := 0 }) (.refl _) (fun _ => rfl)))
    (Kept.trans (Kept.updCore _ (keyCore k) (fun x => if x.primary = keyCtx k then { x with choosing := true } else x) ?_ ?_)
      (Kept.tables rfl rfl rfl rfl rfl rfl (.refl _)))
  · split <;> exact ⟨rfl, rfl, rfl, rfl⟩
  · split <;> rfl

theorem State.deliverTrap_kept (s : State) (k : Nat) (t : Trap) : Kept s (s.deliverTrap k t) := by
  unfold State.deliverTrap
  split
  · split
    · exact s.callMonitor_kept k _
    · exact s.supervisorFault_kept k
  · exact Kept.trans (s.freeze_kept k t.cause) (Kept.updCtx _ k _ (.refl _) id)

/-- Taking a trap performs nothing: every store, register, array, command and access stays. -/
theorem State.takeTrap_kept (s : State) (t : Trap) : Kept s (s.takeTrap t) := by
  unfold State.takeTrap
  simp only
  have h1 : Kept s { s with iss := { s.iss with trap := some t } } :=
    Kept.tables rfl rfl rfl rfl rfl rfl (.refl _)
  have h2 : Kept s (State.updLive { s with iss := { s.iss with trap := some t } } (fun a => { a with pc := s.iss.pc })) :=
    h1.trans (Kept.updCtx _ _ (fun c => { c with live := { c.live with pc := s.iss.pc } }) ⟨rfl, rfl, rfl, rfl, rfl, rfl, rfl⟩ id)
  split
  · exact h2.trans (Kept.updCtx _ _ _ (.refl _) id)
  · exact h2.trans (State.deliverTrap_kept _ _ _)

/-- A word that traps answers a next state in which nothing was performed. -/
theorem State.raise_kept {s t : State} {ord cause : Nat} {v : W64} (h : s.raise ord cause v = .next t) : Kept s t := by
  unfold State.raise at h
  cases h
  exact s.takeTrap_kept _

theorem State.illegal_kept {s t : State} (h : s.illegal = .next t) : Kept s t := State.raise_kept h

/-- A change of the registers in hand that only touches what is in flight, the loops or the program counter. -/
theorem Kept.updLive (s : State) (f : Arch → Arch) (h : SameRegs s.cur.live (f s.cur.live)) : Kept s (s.updLive f) :=
  Kept.updCtx s s.key (fun c => { c with live := f c.live }) h id

/-- A result in flight changes no register yet. -/
theorem State.pushFlight_kept (s : State) (d : Dest) (l : Nat) (b : Option Nat) (v : W64) (p : Nat) : Kept s (s.pushFlight d l b v p) :=
  Kept.updLive s _ ⟨rfl, rfl, rfl, rfl, rfl, rfl, rfl⟩

theorem State.status_kept (s : State) (p : Nat) (v : W64) : Kept s (s.status p v) := s.pushFlight_kept _ _ _ _ _

theorem State.result_kept {s t : State} {d : Dest} {l : Nat} {b : Option Nat} {v : W64} {p : Nat}
    (h : s.result d l b v p = .next t) : Kept s t := by
  unfold State.result at h
  split at h
  · exact State.raise_kept h
  · cases h; exact s.pushFlight_kept _ _ _ _ _

theorem State.sResult_kept {s t : State} {d : BitVec 5} {nw : Bool} {l : Nat} {v : W64} (h : s.sResult d nw l v = .next t) : Kept s t :=
  State.result_kept h

theorem State.pResult_kept {s t : State} {d : BitVec 3} {b : Bool} (h : s.pResult d b = .next t) : Kept s t := State.result_kept h

/-- A word whose body keeps everything keeps everything. -/
theorem State.word_kept {s t : State} {legal g : Bool} {body : State → Out} (hb : ∀ t, body s = .next t → Kept s t)
    (h : s.word legal g body = .next t) : Kept s t := by
  unfold State.word at h
  split at h
  · exact State.illegal_kept h
  · split at h
    · cases h; exact .refl s
    · exact hb t h

/-- R380, R383: a trap of a user context that is not speculative freezes it with its cause at its bundle, and its event waits. -/
theorem State.deliverTrap_user {s : State} {k : Nat} {t : Trap} (hu : s.isSuper k = false) :
    s.deliverTrap k t = (s.freeze k t.cause).updCtx k (fun c => { c with
      pend := some (s.trapEvent k t), syncTo := if t.cause = 11 then none else c.syncTo }) := by
  simp [State.deliverTrap, hu]

/-- Taking a trap in a user context that is not speculative: it is frozen at its bundle with the trap's cause, its event waits for a
supervisor, and no other context changes. -/
theorem State.takeTrap_user {s : State} {t : Trap} (hs : Settled s) (hu : s.isSuper s.key = false) :
    ((s.takeTrap t).ctx s.key).frozen = some t.cause ∧ ((s.takeTrap t).ctx s.key).live.pc = s.iss.pc ∧
    ((s.takeTrap t).ctx s.key).pend = some {
      time := s.now, cls := 2, core := keyCore s.key, h := keyCtx s.key, cause := t.cause,
      widx := t.widx, src := 0, tval := t.tval, part := (s.partOf (keyCore s.key)).getD 0 } ∧
    SameOthers s.key s (s.takeTrap t) := by
  unfold State.takeTrap
  simp only
  have hk : ({ s with iss := { s.iss with trap := some t } } : State).key = s.key := rfl
  generalize hs1 : State.updLive { s with iss := { s.iss with trap := some t } } (fun a => { a with pc := s.iss.pc }) = s1
  have hc : s1.ctx s.key = { s.cur with live := { s.cur.live with pc := s.iss.pc } } := by
    rw [← hs1]
    show State.ctx (State.updCtx _ _ _) _ = _
    rw [hk, State.ctx_updCtx_same]; rfl
  have ho : ∀ j, j ≠ s.key → s1.ctx j = s.ctx j := by
    intro j hj
    rw [← hs1]
    show State.ctx (State.updCtx _ _ _) _ = _
    rw [State.ctx_updCtx_other _ _ (by rw [hk]; exact hj)]; rfl
  have hsp : (s1.ctx s.key).speculative = false := by rw [hc]; exact hs
  have hu1 : s1.isSuper s.key = false := by
    unfold State.isSuper at hu ⊢
    rw [hc]; exact hu
  rw [if_neg (by simp [hsp]), State.deliverTrap_user hu1]
  have hp : s1.partOf (keyCore s.key) = s.partOf (keyCore s.key) := by rw [← hs1]; rfl
  have hn : s1.now = s.now := by rw [← hs1]; rfl
  have hf : (s1.freeze s.key t.cause).ctx s.key = { s1.ctx s.key with
      frozen := some t.cause, heldFor := 0, freezeReq := none, dbgStep := false, lcsv0 := (s1.ctx s.key).live.lc0, lcsv1 := (s1.ctx s.key).live.lc1,
      live := { (s1.ctx s.key).live with b := (s1.giveBack s.key (s1.ctx s.key).heldFor).keptLatches s.key,
                                         lc0 := { (s1.ctx s.key).live.lc0 with armed := false },
                                         lc1 := { (s1.ctx s.key).live.lc1 with armed := false } } } := by
    unfold State.freeze
    simp [State.ctx_giveBack]
  refine ⟨?_, ?_, ?_, ?_⟩
  · simp [hf]
  · simp [hf, hc]
  · simp [State.trapEvent, hp, hn]
  · intro j hj
    rw [State.ctx_updCtx_other _ _ hj]
    unfold State.freeze
    simp only [State.ctx_updCore]
    rw [State.ctx_updCtx_other _ _ hj, State.ctx_giveBack, ho j hj]

end Sys2Proof.Machine
end

