-- ==== Sys2Proof/Laws/Access.lean ====
section
/-! SUPPORT. What accesses to the stores and the shared operations of engine words do: where nothing is being written they find the
store as it stands, every other byte stays, and the store stays in canonical form (R85, R91, R118, R179, R184, R215). -/

set_option Elab.async false

namespace Sys2Proof.Machine

/-! ### Pending element writes -/

/-- Performing some of a command's element writes keeps the canonical form. -/
theorem applyPrefix_wf (hit : ElemW → Bool) : ∀ (ws : List ElemW) (p : Nat) {m : Memory}, m.wf = true → (applyPrefix hit ws p m).2.1.wf = true
  | [], _, _, h => h
  | w :: ws, p, m, h => by
    unfold applyPrefix
    split
    · split
      · exact h
      · exact applyPrefix_wf hit ws _ (Memory.wf_writeN _ _ h)
    · exact applyPrefix_wf hit ws p h

/-- A byte that no element write covers stays. -/
theorem applyPrefix_read (hit : ElemW → Bool) (x : Nat) : ∀ (ws : List ElemW) (p : Nat) (m : Memory),
    (∀ w ∈ ws, x < w.addr ∨ w.addr + w.bytes.length ≤ x) → (applyPrefix hit ws p m).2.1.read x = m.read x
  | [], _, _, _ => rfl
  | w :: ws, p, m, h => by
    unfold applyPrefix
    split
    · split
      · rfl
      · exact (applyPrefix_read hit x ws _ _ (fun v hv => h v (List.mem_cons_of_mem _ hv))).trans
          (Memory.read_writeN_other m w.bytes (h w (List.mem_cons_self ..)))
    · exact applyPrefix_read hit x ws p m (fun v hv => h v (List.mem_cons_of_mem _ hv))

/-- What a fold over the commands carries. -/
abbrev Touched := List Cmd × Memory × Nat × List (Nat × Flags)

theorem touchCmd_wf (s : State) (a n : Nat) {acc : Touched} (c : Cmd) (h : acc.2.1.wf = true) : (s.touchCmd a n acc c).2.1.wf = true := by
  obtain ⟨cs, m, fr, fls⟩ := acc
  unfold State.touchCmd
  dsimp only
  split
  · exact h
  · exact applyPrefix_wf _ c.out _ h

theorem touchCmd_read (s : State) (a n x : Nat) (acc : Touched) (c : Cmd)
    (h : ∀ w ∈ c.out, x < w.addr ∨ w.addr + w.bytes.length ≤ x) : (s.touchCmd a n acc c).2.1.read x = acc.2.1.read x := by
  obtain ⟨cs, m, fr, fls⟩ := acc
  unfold State.touchCmd
  dsimp only
  split
  · rfl
  · exact applyPrefix_read _ x c.out _ _ h

theorem foldl_touch_wf (s : State) (a n : Nat) : ∀ (l : List Cmd) {acc : Touched}, acc.2.1.wf = true → (l.foldl (s.touchCmd a n) acc).2.1.wf = true
  | [], _, h => h
  | c :: l, _, h => foldl_touch_wf s a n l (touchCmd_wf s a n c h)

theorem foldl_touch_read (s : State) (a n x : Nat) : ∀ (l : List Cmd) (acc : Touched),
    (∀ c ∈ l, ∀ w ∈ c.out, x < w.addr ∨ w.addr + w.bytes.length ≤ x) → (l.foldl (s.touchCmd a n) acc).2.1.read x = acc.2.1.read x
  | [], _, _ => rfl
  | c :: l, acc, h => by
    rw [List.foldl_cons, foldl_touch_read s a n x l _ (fun d hd => h d (List.mem_cons_of_mem _ hd)),
      touchCmd_read s a n x acc c (h c (List.mem_cons_self ..))]

/-! ### Source elements read before a write (R216) -/

/-- A unit that is about to be written changes what its command has read, and the count of free values. -/
theorem State.takeUnit_rest (c : Cmd) (s : State) (u : Nat × Nat) : ∃ cs fr, State.takeUnit c s u = { s with cmds := cs, free := fr } := by
  unfold State.takeUnit State.freeBit
  simp only
  split
  · exact ⟨_, _, rfl⟩
  · exact ⟨s.cmds, _, rfl⟩

/-- What only changes commands and the count of free values does so again and again. -/
theorem foldl_cmds {α : Type} (f : State → α → State) (hf : ∀ s x, ∃ cs fr, f s x = { s with cmds := cs, free := fr }) :
    ∀ (l : List α) (s : State), ∃ cs fr, l.foldl f s = { s with cmds := cs, free := fr }
  | [], s => ⟨s.cmds, s.free, rfl⟩
  | x :: l, s => by
    obtain ⟨c1, f1, h1⟩ := hf s x
    obtain ⟨c2, f2, h2⟩ := foldl_cmds f hf l (f s x)
    exact ⟨c2, f2, by rw [List.foldl_cons, h2, h1]⟩

/-- R216: before a write, commands read or do not read the elements it covers, and nothing else changes. -/
theorem State.beforeWrite_rest (s : State) (a n : Nat) : ∃ cs fr, s.beforeWrite a n = { s with cmds := cs, free := fr } := by
  unfold State.beforeWrite
  split
  · exact foldl_cmds _ (fun s c => foldl_cmds _ (State.takeUnit_rest c) _ s) _ s
  · exact ⟨s.cmds, s.free, rfl⟩

@[simp] theorem State.beforeWrite_mem (s : State) (a n : Nat) : (s.beforeWrite a n).mem = s.mem := by
  obtain ⟨_, _, h⟩ := s.beforeWrite_rest a n; rw [h]
@[simp] theorem State.beforeWrite_tags (s : State) (a n : Nat) : (s.beforeWrite a n).tags = s.tags := by
  obtain ⟨_, _, h⟩ := s.beforeWrite_rest a n; rw [h]
@[simp] theorem State.beforeWrite_ctxs (s : State) (a n : Nat) : (s.beforeWrite a n).ctxs = s.ctxs := by
  obtain ⟨_, _, h⟩ := s.beforeWrite_rest a n; rw [h]
@[simp] theorem State.beforeWrite_cores (s : State) (a n : Nat) : (s.beforeWrite a n).cores = s.cores := by
  obtain ⟨_, _, h⟩ := s.beforeWrite_rest a n; rw [h]
@[simp] theorem State.beforeWrite_msgs (s : State) (a n : Nat) : (s.beforeWrite a n).msgs = s.msgs := by
  obtain ⟨_, _, h⟩ := s.beforeWrite_rest a n; rw [h]
@[simp] theorem State.beforeWrite_iss (s : State) (a n : Nat) : (s.beforeWrite a n).iss = s.iss := by
  obtain ⟨_, _, h⟩ := s.beforeWrite_rest a n; rw [h]

/-! ### Flags raised early (R65) -/

/-- Flags only change contexts. -/
theorem State.raiseFlags_rest (s : State) (fls : List (Nat × Flags)) : ∃ xs, s.raiseFlags fls = { s with ctxs := xs } := by
  unfold State.raiseFlags
  induction fls generalizing s with
  | nil => exact ⟨s.ctxs, rfl⟩
  | cons x l ih =>
    rw [List.foldl_cons]
    split
    · exact ih s
    · obtain ⟨xs, h⟩ := ih (s.updCtx x.1 (fun c => c.setFlags x.2))
      exact ⟨xs, by rw [h]; rfl⟩

theorem Ctx.setFlags_zero (c : Ctx) : c.setFlags 0 = c := by simp [Ctx.setFlags, Ctx.mapArch]

theorem Ctx.setFlags_setFlags (c : Ctx) (a b : Flags) : (c.setFlags a).setFlags b = c.setFlags (a ||| b) := by
  simp [Ctx.setFlags, Ctx.mapArch, BitVec.or_assoc]

/-- R65: a context whose flags are raised is as before but for some flags. -/
theorem State.raiseFlags_ctx (s : State) (fls : List (Nat × Flags)) (k : Nat) : ∃ fl, (s.raiseFlags fls).ctx k = (s.ctx k).setFlags fl := by
  unfold State.raiseFlags
  induction fls generalizing s with
  | nil => exact ⟨0, (Ctx.setFlags_zero _).symm⟩
  | cons x l ih =>
    rw [List.foldl_cons]
    split
    · exact ih s
    · obtain ⟨fl, h⟩ := ih (s.updCtx x.1 (fun c => c.setFlags x.2))
      by_cases hk : k = x.1
      · subst hk
        exact ⟨x.2 ||| fl, by rw [h, State.ctx_updCtx_same, Ctx.setFlags_setFlags]⟩
      · exact ⟨fl, by rw [h, State.ctx_updCtx_other _ _ hk]⟩

/-! ### `State.touch` -/

/-- R91, R215: where no command has element writes to perform, an access changes nothing. -/
theorem State.touch_quiet {s : State} (h : Quiet s) (a n : Nat) : s.touch a n = s := by
  have hx : (s.cmds.any (fun c => !(c.meets a n).isEmpty)) = false := by
    rw [List.any_eq_false]
    intro c hc
    have hc' := List.all_eq_true.mp h c hc
    rw [List.isEmpty_iff] at hc'
    simp [Cmd.meets, hc']
  unfold State.touch
  rw [hx]
  rfl

/-- An access changes the store, the commands' pending writes and reads, contexts' flags and the count of free values, and nothing else; the store is
that of the commands' writes folded. -/
theorem State.touch_rest (s : State) (a n : Nat) :
    ∃ m cs fr xs, s.touch a n = { s with mem := m, cmds := cs, free := fr, ctxs := xs } ∧ (s.mem.wf = true → m.wf = true) ∧
      (∀ k, ∃ fl, (s.touch a n).ctx k = (s.ctx k).setFlags fl) := by
  unfold State.touch
  split
  · obtain ⟨c1, f1, h1⟩ := foldl_cmds (fun (s : State) (w : ElemW) => s.beforeWrite w.addr w.bytes.length) (fun s w => s.beforeWrite_rest _ _)
      ((s.cmds.filter (fun c => !s.standing c)).flatMap (fun c => c.meets a n)) s
    have hw := foldl_touch_wf ({ s with cmds := c1, free := f1 } : State) a n c1 (acc := ([], s.mem, f1, []))
    dsimp only
    rw [h1]
    obtain ⟨xs, h2⟩ := State.raiseFlags_rest ({ s with
      cmds := (c1.foldl (State.touchCmd { s with cmds := c1, free := f1 } a n) ([], s.mem, f1, [])).1,
      mem := (c1.foldl (State.touchCmd { s with cmds := c1, free := f1 } a n) ([], s.mem, f1, [])).2.1,
      free := (c1.foldl (State.touchCmd { s with cmds := c1, free := f1 } a n) ([], s.mem, f1, [])).2.2.1 } : State)
      (c1.foldl (State.touchCmd { s with cmds := c1, free := f1 } a n) ([], s.mem, f1, [])).2.2.2
    refine ⟨_, _, _, xs, h2, hw, fun k => ?_⟩
    exact State.raiseFlags_ctx _ _ k
  · exact ⟨s.mem, s.cmds, s.free, s.ctxs, rfl, id, fun k => ⟨0, (Ctx.setFlags_zero _).symm⟩⟩

/-- An access keeps the store in canonical form. -/
theorem State.touch_sound {s : State} (a n : Nat) (h : Sound s) : Sound (s.touch a n) := by
  obtain ⟨_, _, _, _, hx, hw, _⟩ := s.touch_rest a n; rw [hx]; exact hw h

/-- R65: an access leaves every context as it was but for flags. -/
theorem State.touch_ctx (s : State) (a n k : Nat) : ∃ fl, (s.touch a n).ctx k = (s.ctx k).setFlags fl := by
  obtain ⟨_, _, _, _, _, _, h⟩ := s.touch_rest a n; exact h k

@[simp] theorem State.touch_now (s : State) (a n : Nat) : (s.touch a n).now = s.now := by
  obtain ⟨_, _, _, _, h, _⟩ := s.touch_rest a n; rw [h]
@[simp] theorem State.touch_cores (s : State) (a n : Nat) : (s.touch a n).cores = s.cores := by
  obtain ⟨_, _, _, _, h, _⟩ := s.touch_rest a n; rw [h]
@[simp] theorem State.touch_msgs (s : State) (a n : Nat) : (s.touch a n).msgs = s.msgs := by
  obtain ⟨_, _, _, _, h, _⟩ := s.touch_rest a n; rw [h]
@[simp] theorem State.touch_tags (s : State) (a n : Nat) : (s.touch a n).tags = s.tags := by
  obtain ⟨_, _, _, _, h, _⟩ := s.touch_rest a n; rw [h]
@[simp] theorem State.touch_iss (s : State) (a n : Nat) : (s.touch a n).iss = s.iss := by
  obtain ⟨_, _, _, _, h, _⟩ := s.touch_rest a n; rw [h]
@[simp] theorem State.touch_core (s : State) (a n c : Nat) : (s.touch a n).core c = s.core c := by unfold State.core; rw [State.touch_cores]

/-! ### What a read leaves with its reader, and a write with its bytes -/

@[simp] theorem State.observe_mem (s : State) (k t : Nat) (ids : List Nat) : (s.observe k t ids).mem = s.mem := by unfold State.observe; split <;> rfl
@[simp] theorem State.observe_cmds (s : State) (k t : Nat) (ids : List Nat) : (s.observe k t ids).cmds = s.cmds := by
  unfold State.observe; split <;> rfl
@[simp] theorem State.tagBytes_mem (s : State) (a n : Nat) (cov : List (Nat × Nat)) : (s.tagBytes a n cov).mem = s.mem := by
  unfold State.tagBytes; split <;> rfl
@[simp] theorem State.tagBytes_cmds (s : State) (a n : Nat) (cov : List (Nat × Nat)) : (s.tagBytes a n cov).cmds = s.cmds := by
  unfold State.tagBytes; split <;> rfl
@[simp] theorem State.tagBytes_ctxs (s : State) (a n : Nat) (cov : List (Nat × Nat)) : (s.tagBytes a n cov).ctxs = s.ctxs := by
  unfold State.tagBytes; split <;> rfl
@[simp] theorem State.tagBytes_cores (s : State) (a n : Nat) (cov : List (Nat × Nat)) : (s.tagBytes a n cov).cores = s.cores := by
  unfold State.tagBytes; split <;> rfl
@[simp] theorem State.tagBytes_msgs (s : State) (a n : Nat) (cov : List (Nat × Nat)) : (s.tagBytes a n cov).msgs = s.msgs := by
  unfold State.tagBytes; split <;> rfl

/-- A read remembers whose writes it saw, and the registers of every context stay. -/
theorem State.observe_kept (s : State) (k t : Nat) (ids : List Nat) : Kept s (s.observe k t ids) := by
  unfold State.observe
  split
  · exact .refl s
  · exact Kept.updCtx s k _ (.refl _) id

/-! ### Stores -/

/-- A write keeps the store in canonical form. -/
theorem State.writeAt_sound {s : State} (a : Nat) (bs : List Byte) (cov : List (Nat × Nat)) (h : Sound s) : Sound (s.writeAt a bs cov) := by
  unfold State.writeAt
  simp only [Sound, State.tagBytes_mem, State.beforeWrite_mem]
  exact Memory.wf_writeN _ _ (s.touch_sound _ _ h)

/-- R91: a write over a store no command is writing puts its bytes there and changes no other byte, no context and no core. -/
theorem State.writeAt_quiet {s : State} (hq : Quiet s) (a : Nat) (bs : List Byte) (cov : List (Nat × Nat)) :
    (s.writeAt a bs cov).mem = s.mem.writeN a bs ∧ (s.writeAt a bs cov).ctxs = s.ctxs ∧ (s.writeAt a bs cov).cores = s.cores ∧
      (s.writeAt a bs cov).msgs = s.msgs := by
  simp [State.writeAt, s.touch_quiet hq]

/-- R52, R179: a store to a format register writes that register and no byte. -/
theorem State.performStore_format {s : State} {a n : Nat} (h : 0x700000 ≤ gsaOff a) (v : W64) (cov : List (Nat × Nat)) :
    s.performStore a n v cov =
      s.updCore (gsaCore a) (fun x => { x with fmt := put x.fmt ((gsaOff a - 0x7FD000) / 8) (v.extractLsb' 0 4) }) := by
  unfold State.performStore; rw [if_pos h]

/-- R179: a store writes its bytes, least significant first, over a store no command is writing. -/
theorem State.performStore_mem {s : State} {a n : Nat} (hq : Quiet s) (h : gsaOff a < 0x700000) (v : W64) (cov : List (Nat × Nat)) :
    (s.performStore a n v cov).mem = s.mem.writeN a (bytesOf n v.toNat) := by
  unfold State.performStore
  rw [if_neg (by omega)]
  exact (State.writeAt_quiet hq a _ cov).1

/-- A store keeps the store in canonical form. -/
theorem State.performStore_sound {s : State} (a n : Nat) (v : W64) (cov : List (Nat × Nat)) (h : Sound s) : Sound (s.performStore a n v cov) := by
  unfold State.performStore
  split
  · exact h
  · exact s.writeAt_sound _ _ _ h

/-- R118: holding a word changes no store. -/
@[simp] theorem State.hold_mem (s : State) (h : Held) : (s.hold h).mem = s.mem := rfl
@[simp] theorem State.hold_cmds (s : State) (h : Held) : (s.hold h).cmds = s.cmds := rfl
@[simp] theorem State.hold_msgs (s : State) (h : Held) : (s.hold h).msgs = s.msgs := rfl

/-- Holding a word changes no register. -/
theorem State.hold_kept (s : State) (h : Held) : Kept s (s.hold h) := Kept.updCtx s s.key (fun c => { c with snaps := addHeld h c.snaps }) (.refl _) id

theorem State.localStore_sound {s : State} (a n : Nat) (v : W64) (h : Sound s) : Sound (s.localStore a n v) := by
  unfold State.localStore
  split
  · exact h
  · exact s.performStore_sound a n v _ h

/-! ### Reads -/

/-- R85, R118: a local read where no command is writing gives what its context sees, and only remembers whose writes it saw. -/
theorem State.localRead_quiet {s : State} (hq : Quiet s) (k a n : Nat) :
    s.localRead k a n = (let t := s.observe k s.iss.when_ (s.tagsOf (keyCore k) a n); (t.readAt (t.view k) (t.fmtOf k) a n, t)) := by
  unfold State.localRead
  rw [s.touch_quiet hq]

theorem State.localRead_sound {s : State} (k a n : Nat) (h : Sound s) : Sound (s.localRead k a n).2 := by
  unfold State.localRead
  simp only [Sound, State.observe_mem]
  exact s.touch_sound a n h

/-- R181: an atomic answers the number it found and writes its operation's result there. -/
theorem amoMemory_eq (m : Memory) (addr size af : Nat) (v cmp : W64) :
    amoMemory m addr size af v cmp =
      (BitVec.ofNat 64 (m.num addr size), m.writeN addr (bytesOf size (amoValue af size (BitVec.ofNat 64 (m.num addr size)) v cmp).toNat)) := rfl

/-! ### Remote accesses -/

@[simp] theorem State.enterStage_mem (s : State) (m : Msg) (st : Stage) (t : Nat) : (s.enterStage m st t).mem = s.mem := rfl
@[simp] theorem State.enterStage_ctxs (s : State) (m : Msg) (st : Stage) (t : Nat) : (s.enterStage m st t).ctxs = s.ctxs := rfl
@[simp] theorem State.enterStage_cmds (s : State) (m : Msg) (st : Stage) (t : Nat) : (s.enterStage m st t).cmds = s.cmds := rfl
@[simp] theorem State.enterStage_cores (s : State) (m : Msg) (st : Stage) (t : Nat) : (s.enterStage m st t).cores = s.cores := rfl

/-- R82: an access is in its stage once, behind everything that was in any. -/
theorem State.enterStage_msgs (s : State) (m : Msg) (st : Stage) (t : Nat) :
    ∃ x, (s.enterStage m st t).msgs = s.msgs.filter (fun y => y.id != m.id) ++ [x] := ⟨_, rfl⟩

theorem State.performLocal_sound {s : State} (m : Msg) (view : Memory) (fmt : Nat → Nat) (h : Sound s) :
    Sound (s.performLocal m view fmt).1 := by
  unfold State.performLocal
  split
  · exact h
  · simp only [Sound, State.tagBytes_mem, amoMemory_eq, State.beforeWrite_mem]
    exact Memory.wf_writeN _ _ (s.touch_sound _ _ h)
  · exact s.performStore_sound _ _ _ _ h

theorem State.send_sound {s : State} (m : Msg) (h : Sound s) : Sound (s.send m) := by
  unfold State.send State.freeNat
  simp only
  split
  · split
    · exact State.performStore_sound _ _ _ _ h
    · exact State.performLocal_sound _ _ _ (State.touch_sound _ _ h)
    · exact State.performLocal_sound _ _ _ h
  · exact h

theorem State.issueAccess_sound {s : State} (kind : MsgKind) (a n : Nat) (v : W64) (sx : Bool) (q : Nat) (h : Sound s) :
    Sound (s.issueAccess kind a n v sx q) := by
  unfold State.issueAccess State.newMsg State.freshId
  simp only
  split
  · split
    · simp only [Sound, State.hold_mem]
      exact State.localRead_sound _ _ _ h
    · exact h
  · exact State.send_sound _ h

/-! ### Engine words -/

/-- R183: a word whose record does not lie where a record may raises the scratchpad address fault. -/
theorem State.withRecord_address {s : State} {f : TQ} {n : Nat} (h : recordAddrOk (s.recordAddr f) = false) (body : List Byte → State → Out) :
    s.withRecord f n body = s.raise 6 causeAddress (s.recordAddr f) := by simp [State.withRecord, h]

/-- R185: a word whose token is full raises the token-error trap, its value the token's bit. -/
theorem State.withRecord_full {s : State} {f : TQ} {n : Nat} (h : recordAddrOk (s.recordAddr f) = true) (ht : s.tokFull f.kw f.k.toNat = true)
    (body : List Byte → State → Out) : s.withRecord f n body = s.raise 6 causeToken (BitVec.ofNat 64 (2 ^ f.k.toNat)) := by
  simp [State.withRecord, h, ht]

/-- R183: a word's record is the bytes at its address as its context sees them. -/
theorem State.withRecord_quiet {s : State} {f : TQ} {n : Nat} (hq : Quiet s) (h : recordAddrOk (s.recordAddr f) = true)
    (ht : s.tokFull f.kw f.k.toNat = false) (body : List Byte → State → Out) :
    s.withRecord f n body =
      body (s.localBytes (s.recordAddr f).toNat n) (s.observe s.key s.iss.when_ (s.tagsOf s.iss.core (gsaOf s.iss.core (s.recordAddr f).toNat) n)) := by
  simp [State.withRecord, h, ht, s.touch_quiet hq]

/-- R118: a word that is not speculative acts at once. -/
theorem State.act_now {s : State} (h : s.cur.speculative = false) (i : Instr) (val : W64) (recs : List (List Byte))
    (perform : W64 → List (List Byte) → State → State) : s.act i val recs perform = .next (perform val recs s) := by simp [State.act, h]

/-- R118: a speculative word waits with what it sampled. -/
theorem State.act_held {s : State} (h : s.cur.speculative = true) (i : Instr) (val : W64) (recs : List (List Byte))
    (perform : W64 → List (List Byte) → State → State) :
    s.act i val recs perform = .next (s.hold (.word i val recs s.iss.sec s.iss.when_)) := by simp [State.act, h]

@[simp] theorem State.armIf_mem (s : State) (k : Nat) (kw : Bool) (t : Nat) : (s.armIf k kw t).mem = s.mem := by unfold State.armIf; split <;> rfl
@[simp] theorem State.armIf_cmds (s : State) (k : Nat) (kw : Bool) (t : Nat) : (s.armIf k kw t).cmds = s.cmds := by
  unfold State.armIf; split <;> rfl
@[simp] theorem State.armIf_cores (s : State) (k : Nat) (kw : Bool) (t : Nat) : (s.armIf k kw t).cores = s.cores := by
  unfold State.armIf; split <;> rfl
@[simp] theorem State.armIf_msgs (s : State) (k : Nat) (kw : Bool) (t : Nat) : (s.armIf k kw t).msgs = s.msgs := by
  unfold State.armIf; split <;> rfl

/-- Arming a token changes no register. -/
theorem State.armTok_kept (s : State) (k t : Nat) : Kept s (s.armTok k t) :=
  Kept.updCtx s k (fun c => { c with tok := put c.tok t { c.token t with cnt := (c.token t).cnt + 1 } }) (.refl _) id
theorem State.endTok_kept (s : State) (k t : Nat) (p n e : Bool) : Kept s (s.endTok k t p n e) :=
  Kept.updCtx s k (fun c => let x := c.token t
    { c with tok := put c.tok t { cnt := x.cnt - 1, part := x.part || p, nres := x.nres || n, err := x.err || e } }) (.refl _) id
theorem State.armIf_kept (s : State) (k : Nat) (kw : Bool) (t : Nat) : Kept s (s.armIf k kw t) := by
  unfold State.armIf; split
  · exact s.armTok_kept k t
  · exact .refl s
theorem State.rejectTok_kept (s : State) (k : Nat) (kw : Bool) (t : Nat) : Kept s (s.rejectTok k kw t) := by
  unfold State.rejectTok; split
  · exact (s.armTok_kept k t).trans (State.endTok_kept _ _ _ _ _ _)
  · exact .refl s
theorem State.endCmdTok_kept (s : State) (c : Cmd) (n e : Bool) : Kept s (s.endCmdTok c n e) := by
  unfold State.endCmdTok; split
  · exact s.endTok_kept _ _ _ _ _
  · exact .refl s

/-- R184: a rejected word performs nothing: every store, register, array, command and access stays. -/
theorem State.reject_kept (s : State) (f : TQ) (prio status : Nat) : Kept s (s.reject f prio status) :=
  (s.rejectTok_kept _ _ _).trans (State.status_kept _ _ _)

/-- R264: an accepted word adds one command, queued in this cycle, and leaves the store and every access alone. -/
theorem State.accept_cmds (s : State) (f : TQ) (prio : Nat) (kind : CmdKind) (bar : Option Nat) (reads : Bool) (raw : List Byte) :
    ∃ c, (s.accept f prio kind bar reads raw).cmds = s.cmds ++ [c] ∧ c.id = s.nextId ∧ c.core = s.iss.core ∧ c.h = s.iss.h ∧ c.kind = kind ∧
      c.tok = (if f.kw then some f.k.toNat else none) ∧ c.bar = bar ∧ c.born = s.now ∧ c.raw = raw := by
  have h : ∃ af, (s.accept f prio kind bar reads raw).cmds = s.cmds ++
      [{ id := s.nextId, core := s.iss.core, h := s.iss.h, kind := kind, tok := if f.kw then some f.k.toNat else none, bar := bar,
         born := s.now, after := af, raw := raw }] := by
    unfold State.accept State.freshId State.armIf
    simp only [State.status_cmds]
    split <;> exact ⟨_, rfl⟩
  obtain ⟨af, h⟩ := h
  exact ⟨_, h, rfl, rfl, rfl, rfl, rfl, rfl, rfl, rfl⟩

@[simp] theorem State.accept_mem (s : State) (f : TQ) (prio : Nat) (kind : CmdKind) (bar : Option Nat) (reads : Bool) (raw : List Byte) :
    (s.accept f prio kind bar reads raw).mem = s.mem := by
  unfold State.accept State.freshId
  simp only [State.status_mem, State.armIf_mem]

@[simp] theorem State.accept_msgs (s : State) (f : TQ) (prio : Nat) (kind : CmdKind) (bar : Option Nat) (reads : Bool) (raw : List Byte) :
    (s.accept f prio kind bar reads raw).msgs = s.msgs := by
  unfold State.accept State.freshId
  simp only [State.status_msgs, State.armIf_msgs]

/-! ### Results that wait in a command, and completion -/

@[simp] theorem State.publish_mem (s : State) (id : Nat) (ws : List ElemW) : (s.publish id ws).mem = s.mem := rfl

theorem State.engineRead_sound {s : State} (core off n : Nat) (h : Sound s) : Sound (s.engineRead core off n).2 := s.touch_sound _ _ h

/-- Performing a list of element writes keeps the canonical form. -/
theorem foldl_element_sound (k : Nat) : ∀ (ws : List ElemW) {s : State}, Sound s →
    Sound (ws.foldl (fun s w => s.writeAt w.addr w.bytes (s.ctx k).released) s)
  | [], _, h => h
  | _ :: ws, s, h => foldl_element_sound k ws (s.writeAt_sound _ _ _ h)

theorem State.flush_sound {s : State} (id : Nat) (h : Sound s) : Sound (s.flush id) := by
  unfold State.flush
  split
  · rename_i c _
    have hx := foldl_element_sound (ctxKey c.core c.h) c.out (s := s.updCmd id (fun c => { c with out := [], flags := 0 })) h
    dsimp only
    split
    · exact hx
    · exact hx
  · exact h

/-- R185: a completion keeps the store in canonical form. -/
theorem State.complete_sound {s : State} (id : Nat) (h : Sound s) : Sound (s.complete id) := by
  unfold State.complete
  simp only
  split
  · simp only [Sound, State.dropCmd_mem, (State.endCmdTok_kept _ _ _ _).mem]
    exact s.flush_sound id h
  · exact s.flush_sound id h

end Sys2Proof.Machine
end

