-- ==== Sys2Proof/Laws/Formats.lean ====
section
/-! SUPPORT. Each format of R102, R105 and R109: the word made of its fields gives the fields back. -/

namespace Sys2Proof

@[simp] theorem decodeHDR_encodeHDR (f : HDR) : decodeHDR (encodeHDR f) = f := by
  obtain ⟨x0, x1, x2, x3, x4, x5, x6, x7, x8⟩ := f
  simp only [decodeHDR, encodeHDR, chainBit, HDR.mk.injEq]
  refine ⟨?_, ?_, ?_, ?_, ?_, ?_, ?_, ?_, ?_⟩ <;>
  first
  | (simp only [BitVec.getLsbD_append]; simp)
  | (apply BitVec.eq_of_getLsbD_eq; intro i hi
     simp (disch := omega) only [BitVec.getLsbD_extractLsb', BitVec.getLsbD_append, if_pos, if_neg, hi, decide_true, Bool.true_and]
     first | done | (congr 1; omega))

@[simp] theorem decodeEXT_encodeEXT (f : EXT) : decodeEXT (encodeEXT f) = f := by
  obtain ⟨x0, x1⟩ := f
  simp only [decodeEXT, encodeEXT, chainBit, EXT.mk.injEq]
  refine ⟨?_, ?_⟩ <;>
  first
  | (simp only [BitVec.getLsbD_append]; simp)
  | (apply BitVec.eq_of_getLsbD_eq; intro i hi
     simp (disch := omega) only [BitVec.getLsbD_extractLsb', BitVec.getLsbD_append, if_pos, if_neg, hi, decide_true, Bool.true_and]
     first | done | (congr 1; omega))

@[simp] theorem decodeRR_encodeRR (cls op : Nat) (f : RR) : decodeRR (encodeRR cls op f) = f := by
  obtain ⟨x0, x1, x2, x3, x4, x5, x6⟩ := f
  simp only [decodeRR, encodeRR, packWord, guardBit, chainBit, RR.mk.injEq]
  refine ⟨?_, ?_, ?_, ?_, ?_, ?_, ?_⟩ <;>
  first
  | (simp only [BitVec.getLsbD_append]; simp)
  | (apply BitVec.eq_of_getLsbD_eq; intro i hi
     simp (disch := omega) only [BitVec.getLsbD_extractLsb', BitVec.getLsbD_append, if_pos, if_neg, hi, decide_true, Bool.true_and]
     first | done | (congr 1; omega))

@[simp] theorem decodeRI_encodeRI (cls op : Nat) (f : RI) : decodeRI (encodeRI cls op f) = f := by
  obtain ⟨x0, x1, x2, x3, x4, x5⟩ := f
  simp only [decodeRI, encodeRI, packWord, guardBit, chainBit, RI.mk.injEq]
  refine ⟨?_, ?_, ?_, ?_, ?_, ?_⟩ <;>
  first
  | (simp only [BitVec.getLsbD_append]; simp)
  | (apply BitVec.eq_of_getLsbD_eq; intro i hi
     simp (disch := omega) only [BitVec.getLsbD_extractLsb', BitVec.getLsbD_append, if_pos, if_neg, hi, decide_true, Bool.true_and]
     first | done | (congr 1; omega))

@[simp] theorem decodeCP_encodeCP (cls op : Nat) (f : CP) : decodeCP (encodeCP cls op f) = f := by
  obtain ⟨x0, x1, x2, x3, x4, x5, x6⟩ := f
  simp only [decodeCP, encodeCP, packWord, guardBit, chainBit, CP.mk.injEq]
  refine ⟨?_, ?_, ?_, ?_, ?_, ?_, ?_⟩ <;>
  first
  | (simp only [BitVec.getLsbD_append]; simp)
  | (apply BitVec.eq_of_getLsbD_eq; intro i hi
     simp (disch := omega) only [BitVec.getLsbD_extractLsb', BitVec.getLsbD_append, if_pos, if_neg, hi, decide_true, Bool.true_and]
     first | done | (congr 1; omega))

@[simp] theorem decodeBR_encodeBR (cls op : Nat) (f : BR) : decodeBR (encodeBR cls op f) = f := by
  obtain ⟨x0, x1, x2, x3, x4, x5⟩ := f
  simp only [decodeBR, encodeBR, packWord, guardBit, chainBit, BR.mk.injEq]
  refine ⟨?_, ?_, ?_, ?_, ?_, ?_⟩ <;>
  first
  | (simp only [BitVec.getLsbD_append]; simp)
  | (apply BitVec.eq_of_getLsbD_eq; intro i hi
     simp (disch := omega) only [BitVec.getLsbD_extractLsb', BitVec.getLsbD_append, if_pos, if_neg, hi, decide_true, Bool.true_and]
     first | done | (congr 1; omega))

@[simp] theorem decodeLP_encodeLP (cls op : Nat) (f : LP) : decodeLP (encodeLP cls op f) = f := by
  obtain ⟨x0, x1, x2, x3, x4⟩ := f
  simp only [decodeLP, encodeLP, packWord, guardBit, chainBit, LP.mk.injEq]
  refine ⟨?_, ?_, ?_, ?_, ?_⟩ <;>
  first
  | (simp only [BitVec.getLsbD_append]; simp)
  | (apply BitVec.eq_of_getLsbD_eq; intro i hi
     simp (disch := omega) only [BitVec.getLsbD_extractLsb', BitVec.getLsbD_append, if_pos, if_neg, hi, decide_true, Bool.true_and]
     first | done | (congr 1; omega))

@[simp] theorem decodeMM_encodeMM (cls op : Nat) (f : MM) : decodeMM (encodeMM cls op f) = f := by
  obtain ⟨x0, x1, x2, x3, x4, x5, x6, x7⟩ := f
  simp only [decodeMM, encodeMM, packWord, guardBit, chainBit, MM.mk.injEq]
  refine ⟨?_, ?_, ?_, ?_, ?_, ?_, ?_, ?_⟩ <;>
  first
  | (simp only [BitVec.getLsbD_append]; simp)
  | (apply BitVec.eq_of_getLsbD_eq; intro i hi
     simp (disch := omega) only [BitVec.getLsbD_extractLsb', BitVec.getLsbD_append, if_pos, if_neg, hi, decide_true, Bool.true_and]
     first | done | (congr 1; omega))

@[simp] theorem decodeVR_encodeVR (cls op : Nat) (f : VR) : decodeVR (encodeVR cls op f) = f := by
  obtain ⟨x0, x1, x2, x3, x4, x5, x6⟩ := f
  simp only [decodeVR, encodeVR, packWord, guardBit, chainBit, VR.mk.injEq]
  refine ⟨?_, ?_, ?_, ?_, ?_, ?_, ?_⟩ <;>
  first
  | (simp only [BitVec.getLsbD_append]; simp)
  | (apply BitVec.eq_of_getLsbD_eq; intro i hi
     simp (disch := omega) only [BitVec.getLsbD_extractLsb', BitVec.getLsbD_append, if_pos, if_neg, hi, decide_true, Bool.true_and]
     first | done | (congr 1; omega))

@[simp] theorem decodeVS_encodeVS (cls op : Nat) (f : VS) : decodeVS (encodeVS cls op f) = f := by
  obtain ⟨x0, x1, x2, x3, x4, x5⟩ := f
  simp only [decodeVS, encodeVS, packWord, guardBit, chainBit, VS.mk.injEq]
  refine ⟨?_, ?_, ?_, ?_, ?_, ?_⟩ <;>
  first
  | (simp only [BitVec.getLsbD_append]; simp)
  | (apply BitVec.eq_of_getLsbD_eq; intro i hi
     simp (disch := omega) only [BitVec.getLsbD_extractLsb', BitVec.getLsbD_append, if_pos, if_neg, hi, decide_true, Bool.true_and]
     first | done | (congr 1; omega))

@[simp] theorem decodeTQ_encodeTQ (cls op : Nat) (f : TQ) : decodeTQ (encodeTQ cls op f) = f := by
  obtain ⟨x0, x1, x2, x3, x4, x5⟩ := f
  simp only [decodeTQ, encodeTQ, packWord, guardBit, chainBit, TQ.mk.injEq]
  refine ⟨?_, ?_, ?_, ?_, ?_, ?_⟩ <;>
  first
  | (simp only [BitVec.getLsbD_append]; simp)
  | (apply BitVec.eq_of_getLsbD_eq; intro i hi
     simp (disch := omega) only [BitVec.getLsbD_extractLsb', BitVec.getLsbD_append, if_pos, if_neg, hi, decide_true, Bool.true_and]
     first | done | (congr 1; omega))

@[simp] theorem decodePV_encodePV (cls op : Nat) (f : PV) : decodePV (encodePV cls op f) = f := by
  obtain ⟨x0, x1, x2, x3, x4⟩ := f
  simp only [decodePV, encodePV, packWord, guardBit, chainBit, PV.mk.injEq]
  refine ⟨?_, ?_, ?_, ?_, ?_⟩ <;>
  first
  | (simp only [BitVec.getLsbD_append]; simp)
  | (apply BitVec.eq_of_getLsbD_eq; intro i hi
     simp (disch := omega) only [BitVec.getLsbD_extractLsb', BitVec.getLsbD_append, if_pos, if_neg, hi, decide_true, Bool.true_and]
     first | done | (congr 1; omega))

/-- The class code of a packed word. -/
theorem classOf_packWord (c : Bool) (cls op : Nat) (g : Bool) (r : BitVec 20) : classOf (packWord c cls op g r) = BitVec.ofNat 4 cls := by
  unfold classOf packWord
  apply BitVec.eq_of_getLsbD_eq; intro i hi
  simp (disch := omega) only [BitVec.getLsbD_extractLsb', BitVec.getLsbD_append, if_pos, if_neg, hi, decide_true, Bool.true_and]
  congr 1; omega

/-- The opcode of a packed word. -/
theorem opOf_packWord (c : Bool) (cls op : Nat) (g : Bool) (r : BitVec 20) : opOf (packWord c cls op g r) = BitVec.ofNat 6 op := by
  unfold opOf packWord
  apply BitVec.eq_of_getLsbD_eq; intro i hi
  simp (disch := omega) only [BitVec.getLsbD_extractLsb', BitVec.getLsbD_append, if_pos, if_neg, hi, decide_true, Bool.true_and]
  congr 1; omega

theorem classOf_encodeHDR (f : HDR) : classOf (encodeHDR f) = 0 := by
  unfold classOf encodeHDR
  apply BitVec.eq_of_getLsbD_eq; intro i hi
  simp (disch := omega) only [BitVec.getLsbD_extractLsb', BitVec.getLsbD_append, if_pos, if_neg, hi, decide_true, Bool.true_and]
  simp

theorem classOf_encodeEXT (f : EXT) : classOf (encodeEXT f) = 10 := by
  unfold classOf encodeEXT
  apply BitVec.eq_of_getLsbD_eq; intro i hi
  simp (disch := omega) only [BitVec.getLsbD_extractLsb', BitVec.getLsbD_append, if_pos, if_neg, hi, decide_true, Bool.true_and]
  congr 1; omega

@[simp] theorem classOf_encodeRR (cls op : Nat) (f : RR) : classOf (encodeRR cls op f) = BitVec.ofNat 4 cls := classOf_packWord _ _ _ _ _
@[simp] theorem opOf_encodeRR (cls op : Nat) (f : RR) : opOf (encodeRR cls op f) = BitVec.ofNat 6 op := opOf_packWord _ _ _ _ _
@[simp] theorem classOf_encodeRI (cls op : Nat) (f : RI) : classOf (encodeRI cls op f) = BitVec.ofNat 4 cls := classOf_packWord _ _ _ _ _
@[simp] theorem opOf_encodeRI (cls op : Nat) (f : RI) : opOf (encodeRI cls op f) = BitVec.ofNat 6 op := opOf_packWord _ _ _ _ _
@[simp] theorem classOf_encodeCP (cls op : Nat) (f : CP) : classOf (encodeCP cls op f) = BitVec.ofNat 4 cls := classOf_packWord _ _ _ _ _
@[simp] theorem opOf_encodeCP (cls op : Nat) (f : CP) : opOf (encodeCP cls op f) = BitVec.ofNat 6 op := opOf_packWord _ _ _ _ _
@[simp] theorem classOf_encodeBR (cls op : Nat) (f : BR) : classOf (encodeBR cls op f) = BitVec.ofNat 4 cls := classOf_packWord _ _ _ _ _
@[simp] theorem opOf_encodeBR (cls op : Nat) (f : BR) : opOf (encodeBR cls op f) = BitVec.ofNat 6 op := opOf_packWord _ _ _ _ _
@[simp] theorem classOf_encodeLP (cls op : Nat) (f : LP) : classOf (encodeLP cls op f) = BitVec.ofNat 4 cls := classOf_packWord _ _ _ _ _
@[simp] theorem opOf_encodeLP (cls op : Nat) (f : LP) : opOf (encodeLP cls op f) = BitVec.ofNat 6 op := opOf_packWord _ _ _ _ _
@[simp] theorem classOf_encodeMM (cls op : Nat) (f : MM) : classOf (encodeMM cls op f) = BitVec.ofNat 4 cls := classOf_packWord _ _ _ _ _
@[simp] theorem opOf_encodeMM (cls op : Nat) (f : MM) : opOf (encodeMM cls op f) = BitVec.ofNat 6 op := opOf_packWord _ _ _ _ _
@[simp] theorem classOf_encodeVR (cls op : Nat) (f : VR) : classOf (encodeVR cls op f) = BitVec.ofNat 4 cls := classOf_packWord _ _ _ _ _
@[simp] theorem opOf_encodeVR (cls op : Nat) (f : VR) : opOf (encodeVR cls op f) = BitVec.ofNat 6 op := opOf_packWord _ _ _ _ _
@[simp] theorem classOf_encodeVS (cls op : Nat) (f : VS) : classOf (encodeVS cls op f) = BitVec.ofNat 4 cls := classOf_packWord _ _ _ _ _
@[simp] theorem opOf_encodeVS (cls op : Nat) (f : VS) : opOf (encodeVS cls op f) = BitVec.ofNat 6 op := opOf_packWord _ _ _ _ _
@[simp] theorem classOf_encodeTQ (cls op : Nat) (f : TQ) : classOf (encodeTQ cls op f) = BitVec.ofNat 4 cls := classOf_packWord _ _ _ _ _
@[simp] theorem opOf_encodeTQ (cls op : Nat) (f : TQ) : opOf (encodeTQ cls op f) = BitVec.ofNat 6 op := opOf_packWord _ _ _ _ _
@[simp] theorem classOf_encodePV (cls op : Nat) (f : PV) : classOf (encodePV cls op f) = BitVec.ofNat 4 cls := classOf_packWord _ _ _ _ _
@[simp] theorem opOf_encodePV (cls op : Nat) (f : PV) : opOf (encodePV cls op f) = BitVec.ofNat 6 op := opOf_packWord _ _ _ _ _

end Sys2Proof
end

