-- ==== Sys2Proof/Laws/PerInstr.lean ====
section
/-! SUPPORT. Facts about every instruction as syntax, one lemma per constructor. -/

set_option Elab.async false

namespace Sys2Proof.Laws.Codec

/-- An instruction with a word is what the decoder reads from that word; one without is an event of the table. -/
def Statement (i : Instr) : Prop := match encode i with
  | some w => decodeWord w = .ok i
  | none => i.cls = 16

theorem hdr (f : HDR) : Statement (.hdr f) := by simp [Statement, encode, decodeWord, classOf_encodeHDR]
theorem ext (f : EXT) : Statement (.ext f) := by simp [Statement, encode, decodeWord, classOf_encodeEXT]
theorem sNop (f : RR) : Statement (.sNop f) := by simp [Statement, encode, decodeWord, decodeWord.op?, decodeClassS]
theorem sAdd (f : RR) : Statement (.sAdd f) := by simp [Statement, encode, decodeWord, decodeWord.op?, decodeClassS]
theorem sSub (f : RR) : Statement (.sSub f) := by simp [Statement, encode, decodeWord, decodeWord.op?, decodeClassS]
theorem sMul (f : RR) : Statement (.sMul f) := by simp [Statement, encode, decodeWord, decodeWord.op?, decodeClassS]
theorem sMulh (f : RR) : Statement (.sMulh f) := by simp [Statement, encode, decodeWord, decodeWord.op?, decodeClassS]
theorem sMulhu (f : RR) : Statement (.sMulhu f) := by simp [Statement, encode, decodeWord, decodeWord.op?, decodeClassS]
theorem sDiv (f : RR) : Statement (.sDiv f) := by simp [Statement, encode, decodeWord, decodeWord.op?, decodeClassS]
theorem sDivu (f : RR) : Statement (.sDivu f) := by simp [Statement, encode, decodeWord, decodeWord.op?, decodeClassS]
theorem sRem (f : RR) : Statement (.sRem f) := by simp [Statement, encode, decodeWord, decodeWord.op?, decodeClassS]
theorem sRemu (f : RR) : Statement (.sRemu f) := by simp [Statement, encode, decodeWord, decodeWord.op?, decodeClassS]
theorem sAnd (f : RR) : Statement (.sAnd f) := by simp [Statement, encode, decodeWord, decodeWord.op?, decodeClassS]
theorem sOr (f : RR) : Statement (.sOr f) := by simp [Statement, encode, decodeWord, decodeWord.op?, decodeClassS]
theorem sXor (f : RR) : Statement (.sXor f) := by simp [Statement, encode, decodeWord, decodeWord.op?, decodeClassS]
theorem sAndn (f : RR) : Statement (.sAndn f) := by simp [Statement, encode, decodeWord, decodeWord.op?, decodeClassS]
theorem sShl (f : RR) : Statement (.sShl f) := by simp [Statement, encode, decodeWord, decodeWord.op?, decodeClassS]
theorem sShr (f : RR) : Statement (.sShr f) := by simp [Statement, encode, decodeWord, decodeWord.op?, decodeClassS]
theorem sSra (f : RR) : Statement (.sSra f) := by simp [Statement, encode, decodeWord, decodeWord.op?, decodeClassS]
theorem sMin (f : RR) : Statement (.sMin f) := by simp [Statement, encode, decodeWord, decodeWord.op?, decodeClassS]
theorem sMax (f : RR) : Statement (.sMax f) := by simp [Statement, encode, decodeWord, decodeWord.op?, decodeClassS]
theorem sMinu (f : RR) : Statement (.sMinu f) := by simp [Statement, encode, decodeWord, decodeWord.op?, decodeClassS]
theorem sMaxu (f : RR) : Statement (.sMaxu f) := by simp [Statement, encode, decodeWord, decodeWord.op?, decodeClassS]
theorem sAddi (f : RI) : Statement (.sAddi f) := by simp [Statement, encode, decodeWord, decodeWord.op?, decodeClassS]
theorem sAndi (f : RI) : Statement (.sAndi f) := by simp [Statement, encode, decodeWord, decodeWord.op?, decodeClassS]
theorem sOri (f : RI) : Statement (.sOri f) := by simp [Statement, encode, decodeWord, decodeWord.op?, decodeClassS]
theorem sXori (f : RI) : Statement (.sXori f) := by simp [Statement, encode, decodeWord, decodeWord.op?, decodeClassS]
theorem sShli (f : RI) : Statement (.sShli f) := by simp [Statement, encode, decodeWord, decodeWord.op?, decodeClassS]
theorem sShri (f : RI) : Statement (.sShri f) := by simp [Statement, encode, decodeWord, decodeWord.op?, decodeClassS]
theorem sSrai (f : RI) : Statement (.sSrai f) := by simp [Statement, encode, decodeWord, decodeWord.op?, decodeClassS]
theorem sLi (f : RI) : Statement (.sLi f) := by simp [Statement, encode, decodeWord, decodeWord.op?, decodeClassS]
theorem sMov (f : RR) : Statement (.sMov f) := by simp [Statement, encode, decodeWord, decodeWord.op?, decodeClassS]
theorem sSel (f : RR) : Statement (.sSel f) := by simp [Statement, encode, decodeWord, decodeWord.op?, decodeClassS]
theorem sCmp (f : CP) : Statement (.sCmp f) := by simp [Statement, encode, decodeWord, decodeWord.op?, decodeClassS]
theorem sCmpi (f : CP) : Statement (.sCmpi f) := by simp [Statement, encode, decodeWord, decodeWord.op?, decodeClassS]
theorem sPlog (f : CP) : Statement (.sPlog f) := by simp [Statement, encode, decodeWord, decodeWord.op?, decodeClassS]
theorem sClz (f : RR) : Statement (.sClz f) := by simp [Statement, encode, decodeWord, decodeWord.op?, decodeClassS]
theorem sPopc (f : RR) : Statement (.sPopc f) := by simp [Statement, encode, decodeWord, decodeWord.op?, decodeClassS]
theorem sBfx (f : RR) : Statement (.sBfx f) := by simp [Statement, encode, decodeWord, decodeWord.op?, decodeClassS]
theorem sBfi (f : RR) : Statement (.sBfi f) := by simp [Statement, encode, decodeWord, decodeWord.op?, decodeClassS]
theorem sSext (f : RR) : Statement (.sSext f) := by simp [Statement, encode, decodeWord, decodeWord.op?, decodeClassS]
theorem sBr (f : BR) : Statement (.sBr f) := by simp [Statement, encode, decodeWord, decodeWord.op?, decodeClassS]
theorem sJmp (f : RR) : Statement (.sJmp f) := by simp [Statement, encode, decodeWord, decodeWord.op?, decodeClassS]
theorem sCall (f : BR) : Statement (.sCall f) := by simp [Statement, encode, decodeWord, decodeWord.op?, decodeClassS]
theorem sRet (f : RR) : Statement (.sRet f) := by simp [Statement, encode, decodeWord, decodeWord.op?, decodeClassS]
theorem sLoop (f : LP) : Statement (.sLoop f) := by simp [Statement, encode, decodeWord, decodeWord.op?, decodeClassS]
theorem sLbrk (f : LP) : Statement (.sLbrk f) := by simp [Statement, encode, decodeWord, decodeWord.op?, decodeClassS]
theorem sRdlc (f : RR) : Statement (.sRdlc f) := by simp [Statement, encode, decodeWord, decodeWord.op?, decodeClassS]
theorem sRdid (f : RR) : Statement (.sRdid f) := by simp [Statement, encode, decodeWord, decodeWord.op?, decodeClassS]
theorem sRdtime (f : RR) : Statement (.sRdtime f) := by simp [Statement, encode, decodeWord, decodeWord.op?, decodeClassS]
theorem sRdcoin (f : RR) : Statement (.sRdcoin f) := by simp [Statement, encode, decodeWord, decodeWord.op?, decodeClassS]
theorem sMfp (f : RR) : Statement (.sMfp f) := by simp [Statement, encode, decodeWord, decodeWord.op?, decodeClassS]
theorem sMtp (f : RR) : Statement (.sMtp f) := by simp [Statement, encode, decodeWord, decodeWord.op?, decodeClassS]
theorem mLd (f : MM) : Statement (.mLd f) := by simp [Statement, encode, decodeWord, decodeWord.op?, decodeClassM]
theorem mSt (f : MM) : Statement (.mSt f) := by simp [Statement, encode, decodeWord, decodeWord.op?, decodeClassM]
theorem mLdg (f : MM) : Statement (.mLdg f) := by simp [Statement, encode, decodeWord, decodeWord.op?, decodeClassM]
theorem mStg (f : MM) : Statement (.mStg f) := by simp [Statement, encode, decodeWord, decodeWord.op?, decodeClassM]
theorem mSth (f : MM) : Statement (.mSth f) := by simp [Statement, encode, decodeWord, decodeWord.op?, decodeClassM]
theorem mAmo (f : MM) : Statement (.mAmo f) := by simp [Statement, encode, decodeWord, decodeWord.op?, decodeClassM]
theorem mLda (f : MM) : Statement (.mLda f) := by simp [Statement, encode, decodeWord, decodeWord.op?, decodeClassM]
theorem vDset (f : VS) : Statement (.vDset f) := by simp [Statement, encode, decodeWord, decodeWord.op?, decodeClassV]
theorem vDget (f : VS) : Statement (.vDget f) := by simp [Statement, encode, decodeWord, decodeWord.op?, decodeClassV]
theorem vAdd (f : VR) : Statement (.vAdd f) := by simp [Statement, encode, decodeWord, decodeWord.op?, decodeClassV]
theorem vSub (f : VR) : Statement (.vSub f) := by simp [Statement, encode, decodeWord, decodeWord.op?, decodeClassV]
theorem vMul (f : VR) : Statement (.vMul f) := by simp [Statement, encode, decodeWord, decodeWord.op?, decodeClassV]
theorem vFma (f : VR) : Statement (.vFma f) := by simp [Statement, encode, decodeWord, decodeWord.op?, decodeClassV]
theorem vMax (f : VR) : Statement (.vMax f) := by simp [Statement, encode, decodeWord, decodeWord.op?, decodeClassV]
theorem vMin (f : VR) : Statement (.vMin f) := by simp [Statement, encode, decodeWord, decodeWord.op?, decodeClassV]
theorem vAbs (f : VR) : Statement (.vAbs f) := by simp [Statement, encode, decodeWord, decodeWord.op?, decodeClassV]
theorem vNeg (f : VR) : Statement (.vNeg f) := by simp [Statement, encode, decodeWord, decodeWord.op?, decodeClassV]
theorem vScal (f : VS) : Statement (.vScal f) := by simp [Statement, encode, decodeWord, decodeWord.op?, decodeClassV]
theorem vAxpy (f : VS) : Statement (.vAxpy f) := by simp [Statement, encode, decodeWord, decodeWord.op?, decodeClassV]
theorem vFill (f : VS) : Statement (.vFill f) := by simp [Statement, encode, decodeWord, decodeWord.op?, decodeClassV]
theorem vCpy (f : VR) : Statement (.vCpy f) := by simp [Statement, encode, decodeWord, decodeWord.op?, decodeClassV]
theorem vCvt (f : VR) : Statement (.vCvt f) := by simp [Statement, encode, decodeWord, decodeWord.op?, decodeClassV]
theorem vCmp (f : VR) : Statement (.vCmp f) := by simp [Statement, encode, decodeWord, decodeWord.op?, decodeClassV]
theorem vSel (f : VR) : Statement (.vSel f) := by simp [Statement, encode, decodeWord, decodeWord.op?, decodeClassV]
theorem vAnd (f : VR) : Statement (.vAnd f) := by simp [Statement, encode, decodeWord, decodeWord.op?, decodeClassV]
theorem vOr (f : VR) : Statement (.vOr f) := by simp [Statement, encode, decodeWord, decodeWord.op?, decodeClassV]
theorem vXor (f : VR) : Statement (.vXor f) := by simp [Statement, encode, decodeWord, decodeWord.op?, decodeClassV]
theorem vShl (f : VS) : Statement (.vShl f) := by simp [Statement, encode, decodeWord, decodeWord.op?, decodeClassV]
theorem vShr (f : VS) : Statement (.vShr f) := by simp [Statement, encode, decodeWord, decodeWord.op?, decodeClassV]
theorem vClip (f : VR) : Statement (.vClip f) := by simp [Statement, encode, decodeWord, decodeWord.op?, decodeClassV]
theorem vIota (f : VS) : Statement (.vIota f) := by simp [Statement, encode, decodeWord, decodeWord.op?, decodeClassV]
theorem vGath (f : VR) : Statement (.vGath f) := by simp [Statement, encode, decodeWord, decodeWord.op?, decodeClassV]
theorem vScat (f : VR) : Statement (.vScat f) := by simp [Statement, encode, decodeWord, decodeWord.op?, decodeClassV]
theorem vPerm (f : VR) : Statement (.vPerm f) := by simp [Statement, encode, decodeWord, decodeWord.op?, decodeClassV]
theorem vRsum (f : VR) : Statement (.vRsum f) := by simp [Statement, encode, decodeWord, decodeWord.op?, decodeClassV]
theorem vRmax (f : VR) : Statement (.vRmax f) := by simp [Statement, encode, decodeWord, decodeWord.op?, decodeClassV]
theorem vRmin (f : VR) : Statement (.vRmin f) := by simp [Statement, encode, decodeWord, decodeWord.op?, decodeClassV]
theorem vRdot (f : VR) : Statement (.vRdot f) := by simp [Statement, encode, decodeWord, decodeWord.op?, decodeClassV]
theorem vRstat (f : VS) : Statement (.vRstat f) := by simp [Statement, encode, decodeWord, decodeWord.op?, decodeClassV]
theorem vNfck (f : VR) : Statement (.vNfck f) := by simp [Statement, encode, decodeWord, decodeWord.op?, decodeClassV]
theorem vPgen (f : VR) : Statement (.vPgen f) := by simp [Statement, encode, decodeWord, decodeWord.op?, decodeClassV]
theorem vRscale (f : VS) : Statement (.vRscale f) := by simp [Statement, encode, decodeWord, decodeWord.op?, decodeClassV]
theorem vSkinit (f : VS) : Statement (.vSkinit f) := by simp [Statement, encode, decodeWord, decodeWord.op?, decodeClassV]
theorem vSkq (f : VR) : Statement (.vSkq f) := by simp [Statement, encode, decodeWord, decodeWord.op?, decodeClassV]
theorem vSkh (f : VR) : Statement (.vSkh f) := by simp [Statement, encode, decodeWord, decodeWord.op?, decodeClassV]
theorem vSkd (f : VR) : Statement (.vSkd f) := by simp [Statement, encode, decodeWord, decodeWord.op?, decodeClassV]
theorem vSkm (f : VR) : Statement (.vSkm f) := by simp [Statement, encode, decodeWord, decodeWord.op?, decodeClassV]
theorem vSkqq (f : VS) : Statement (.vSkqq f) := by simp [Statement, encode, decodeWord, decodeWord.op?, decodeClassV]
theorem vSkest (f : VR) : Statement (.vSkest f) := by simp [Statement, encode, decodeWord, decodeWord.op?, decodeClassV]
theorem vSktop (f : VR) : Statement (.vSktop f) := by simp [Statement, encode, decodeWord, decodeWord.op?, decodeClassV]
theorem fExp (f : VS) : Statement (.fExp f) := by simp [Statement, encode, decodeWord, decodeWord.op?, decodeClassF]
theorem fLog (f : VS) : Statement (.fLog f) := by simp [Statement, encode, decodeWord, decodeWord.op?, decodeClassF]
theorem fExp2 (f : VS) : Statement (.fExp2 f) := by simp [Statement, encode, decodeWord, decodeWord.op?, decodeClassF]
theorem fLog2 (f : VS) : Statement (.fLog2 f) := by simp [Statement, encode, decodeWord, decodeWord.op?, decodeClassF]
theorem fRcp (f : VS) : Statement (.fRcp f) := by simp [Statement, encode, decodeWord, decodeWord.op?, decodeClassF]
theorem fRsqrt (f : VS) : Statement (.fRsqrt f) := by simp [Statement, encode, decodeWord, decodeWord.op?, decodeClassF]
theorem fSqrt (f : VS) : Statement (.fSqrt f) := by simp [Statement, encode, decodeWord, decodeWord.op?, decodeClassF]
theorem fTanh (f : VS) : Statement (.fTanh f) := by simp [Statement, encode, decodeWord, decodeWord.op?, decodeClassF]
theorem fSigm (f : VS) : Statement (.fSigm f) := by simp [Statement, encode, decodeWord, decodeWord.op?, decodeClassF]
theorem fGelu (f : VS) : Statement (.fGelu f) := by simp [Statement, encode, decodeWord, decodeWord.op?, decodeClassF]
theorem fSilu (f : VS) : Statement (.fSilu f) := by simp [Statement, encode, decodeWord, decodeWord.op?, decodeClassF]
theorem fSin (f : VS) : Statement (.fSin f) := by simp [Statement, encode, decodeWord, decodeWord.op?, decodeClassF]
theorem fCos (f : VS) : Statement (.fCos f) := by simp [Statement, encode, decodeWord, decodeWord.op?, decodeClassF]
theorem fErf (f : VS) : Statement (.fErf f) := by simp [Statement, encode, decodeWord, decodeWord.op?, decodeClassF]
theorem xLd (f : VR) : Statement (.xLd f) := by simp [Statement, encode, decodeWord, decodeWord.op?, decodeClassX]
theorem xApp (f : VR) : Statement (.xApp f) := by simp [Statement, encode, decodeWord, decodeWord.op?, decodeClassX]
theorem xRot (f : VR) : Statement (.xRot f) := by simp [Statement, encode, decodeWord, decodeWord.op?, decodeClassX]
theorem xBc (f : VR) : Statement (.xBc f) := by simp [Statement, encode, decodeWord, decodeWord.op?, decodeClassX]
theorem xTr (f : VR) : Statement (.xTr f) := by simp [Statement, encode, decodeWord, decodeWord.op?, decodeClassX]
theorem xRev (f : VR) : Statement (.xRev f) := by simp [Statement, encode, decodeWord, decodeWord.op?, decodeClassX]
theorem tMm (f : TQ) : Statement (.tMm f) := by simp [Statement, encode, decodeWord, decodeWord.op?, decodeClassT]
theorem tMmg (f : TQ) : Statement (.tMmg f) := by simp [Statement, encode, decodeWord, decodeWord.op?, decodeClassT]
theorem tLdb (f : TQ) : Statement (.tLdb f) := by simp [Statement, encode, decodeWord, decodeWord.op?, decodeClassT]
theorem tZclr (f : TQ) : Statement (.tZclr f) := by simp [Statement, encode, decodeWord, decodeWord.op?, decodeClassT]
theorem tZld (f : TQ) : Statement (.tZld f) := by simp [Statement, encode, decodeWord, decodeWord.op?, decodeClassT]
theorem tZst (f : TQ) : Statement (.tZst f) := by simp [Statement, encode, decodeWord, decodeWord.op?, decodeClassT]
theorem tCop (f : TQ) : Statement (.tCop f) := by simp [Statement, encode, decodeWord, decodeWord.op?, decodeClassT]
theorem tZadd (f : TQ) : Statement (.tZadd f) := by simp [Statement, encode, decodeWord, decodeWord.op?, decodeClassT]
theorem aFwd (f : TQ) : Statement (.aFwd f) := by simp [Statement, encode, decodeWord, decodeWord.op?, decodeClassA]
theorem aBwd (f : TQ) : Statement (.aBwd f) := by simp [Statement, encode, decodeWord, decodeWord.op?, decodeClassA]
theorem aUpd (f : TQ) : Statement (.aUpd f) := by simp [Statement, encode, decodeWord, decodeWord.op?, decodeClassA]
theorem aXfer (f : TQ) : Statement (.aXfer f) := by simp [Statement, encode, decodeWord, decodeWord.op?, decodeClassA]
theorem aSymw (f : TQ) : Statement (.aSymw f) := by simp [Statement, encode, decodeWord, decodeWord.op?, decodeClassA]
theorem aSymr (f : TQ) : Statement (.aSymr f) := by simp [Statement, encode, decodeWord, decodeWord.op?, decodeClassA]
theorem aProg (f : TQ) : Statement (.aProg f) := by simp [Statement, encode, decodeWord, decodeWord.op?, decodeClassA]
theorem aCkpt (f : TQ) : Statement (.aCkpt f) := by simp [Statement, encode, decodeWord, decodeWord.op?, decodeClassA]
theorem aGfwd (f : TQ) : Statement (.aGfwd f) := by simp [Statement, encode, decodeWord, decodeWord.op?, decodeClassA]
theorem aGbwd (f : TQ) : Statement (.aGbwd f) := by simp [Statement, encode, decodeWord, decodeWord.op?, decodeClassA]
theorem aGupd (f : TQ) : Statement (.aGupd f) := by simp [Statement, encode, decodeWord, decodeWord.op?, decodeClassA]
theorem aSeed (f : TQ) : Statement (.aSeed f) := by simp [Statement, encode, decodeWord, decodeWord.op?, decodeClassA]
theorem aScl (f : TQ) : Statement (.aScl f) := by simp [Statement, encode, decodeWord, decodeWord.op?, decodeClassA]
theorem aStat (f : TQ) : Statement (.aStat f) := by simp [Statement, encode, decodeWord, decodeWord.op?, decodeClassA]
theorem qCopy (f : TQ) : Statement (.qCopy f) := by simp [Statement, encode, decodeWord, decodeWord.op?, decodeClassQ]
theorem qTokst (f : TQ) : Statement (.qTokst f) := by simp [Statement, encode, decodeWord, decodeWord.op?, decodeClassQ]
theorem qDrain (f : TQ) : Statement (.qDrain f) := by simp [Statement, encode, decodeWord, decodeWord.op?, decodeClassQ]
theorem qFence (f : TQ) : Statement (.qFence f) := by simp [Statement, encode, decodeWord, decodeWord.op?, decodeClassQ]
theorem qPut (f : TQ) : Statement (.qPut f) := by simp [Statement, encode, decodeWord, decodeWord.op?, decodeClassQ]
theorem qLaunch (f : TQ) : Statement (.qLaunch f) := by simp [Statement, encode, decodeWord, decodeWord.op?, decodeClassQ]
theorem qGlaunch (f : TQ) : Statement (.qGlaunch f) := by simp [Statement, encode, decodeWord, decodeWord.op?, decodeClassQ]
theorem qCancel (f : TQ) : Statement (.qCancel f) := by simp [Statement, encode, decodeWord, decodeWord.op?, decodeClassQ]
theorem qExit (f : TQ) : Statement (.qExit f) := by simp [Statement, encode, decodeWord, decodeWord.op?, decodeClassQ]
theorem qPgreq (f : TQ) : Statement (.qPgreq f) := by simp [Statement, encode, decodeWord, decodeWord.op?, decodeClassQ]
theorem qSortc (f : TQ) : Statement (.qSortc f) := by simp [Statement, encode, decodeWord, decodeWord.op?, decodeClassQ]
theorem qCarm (f : TQ) : Statement (.qCarm f) := by simp [Statement, encode, decodeWord, decodeWord.op?, decodeClassQ]
theorem qCtrig (f : TQ) : Statement (.qCtrig f) := by simp [Statement, encode, decodeWord, decodeWord.op?, decodeClassQ]
theorem qCstat (f : TQ) : Statement (.qCstat f) := by simp [Statement, encode, decodeWord, decodeWord.op?, decodeClassQ]
theorem qHset (f : TQ) : Statement (.qHset f) := by simp [Statement, encode, decodeWord, decodeWord.op?, decodeClassQ]
theorem qOffer (f : TQ) : Statement (.qOffer f) := by simp [Statement, encode, decodeWord, decodeWord.op?, decodeClassQ]
theorem qSrec (f : TQ) : Statement (.qSrec f) := by simp [Statement, encode, decodeWord, decodeWord.op?, decodeClassQ]
theorem qWaitk (f : TQ) : Statement (.qWaitk f) := by simp [Statement, encode, decodeWord, decodeWord.op?, decodeClassQ]
theorem qKclr (f : TQ) : Statement (.qKclr f) := by simp [Statement, encode, decodeWord, decodeWord.op?, decodeClassQ]
theorem pTrap (f : PV) : Statement (.pTrap f) := by simp [Statement, encode, decodeWord, decodeWord.op?, decodeClassP]
theorem pEret (f : PV) : Statement (.pEret f) := by simp [Statement, encode, decodeWord, decodeWord.op?, decodeClassP]
theorem pCsrr (f : PV) : Statement (.pCsrr f) := by simp [Statement, encode, decodeWord, decodeWord.op?, decodeClassP]
theorem pCsrw (f : PV) : Statement (.pCsrw f) := by simp [Statement, encode, decodeWord, decodeWord.op?, decodeClassP]
theorem pCsrs (f : PV) : Statement (.pCsrs f) := by simp [Statement, encode, decodeWord, decodeWord.op?, decodeClassP]
theorem pCsrc (f : PV) : Statement (.pCsrc f) := by simp [Statement, encode, decodeWord, decodeWord.op?, decodeClassP]
theorem pTlbi (f : TQ) : Statement (.pTlbi f) := by simp [Statement, encode, decodeWord, decodeWord.op?, decodeClassP]
theorem pCtxsv (f : TQ) : Statement (.pCtxsv f) := by simp [Statement, encode, decodeWord, decodeWord.op?, decodeClassP]
theorem pCtxld (f : TQ) : Statement (.pCtxld f) := by simp [Statement, encode, decodeWord, decodeWord.op?, decodeClassP]
theorem pHalt (f : TQ) : Statement (.pHalt f) := by simp [Statement, encode, decodeWord, decodeWord.op?, decodeClassP]
theorem pPmt (f : TQ) : Statement (.pPmt f) := by simp [Statement, encode, decodeWord, decodeWord.op?, decodeClassP]
theorem monitorPowerCall (k : Nat) : Statement (.monitorPowerCall k) := rfl
theorem monitorPageTableRootCall (k : Nat) : Statement (.monitorPageTableRootCall k) := rfl
theorem nextPrimaryChoice (core : Nat) : Statement (.nextPrimaryChoice core) := rfl
theorem syncEpisodeResume (line : Nat) : Statement (.syncEpisodeResume line) := rfl
theorem syncTimeout (line : Nat) : Statement (.syncTimeout line) := rfl
theorem watchdogExpiry (k : Nat) : Statement (.watchdogExpiry k) := rfl
theorem streamingCommandCompletion (id : Nat) : Statement (.streamingCommandCompletion id) := rfl
theorem logMatrixCommandStart (core : Nat) : Statement (.logMatrixCommandStart core) := rfl
theorem operandFetchDone (id : Nat) : Statement (.operandFetchDone id) := rfl
theorem logMatrixCommandCompletion (id : Nat) : Statement (.logMatrixCommandCompletion id) := rfl
theorem adcGroupCommandStart (core grp : Nat) : Statement (.adcGroupCommandStart core grp) := rfl
theorem readLatencyExpiry (id entry : Nat) : Statement (.readLatencyExpiry id entry) := rfl
theorem arrayCommandCompletion (id entry : Nat) : Statement (.arrayCommandCompletion id entry) := rfl
theorem operandBufferFillStart (id : Nat) : Statement (.operandBufferFillStart id) := rfl
theorem copyCompletion (id : Nat) : Statement (.copyCompletion id) := rfl
theorem engineTranslationFault (id : Nat) : Statement (.engineTranslationFault id) := rfl
theorem engineEventPost (die : Nat) : Statement (.engineEventPost die) := rfl
theorem sortCompletion (id : Nat) : Statement (.sortCompletion id) := rfl
theorem drainCompletion (k : Nat) : Statement (.drainCompletion k) := rfl
theorem fenceCompletion (k : Nat) : Statement (.fenceCompletion k) := rfl
theorem tokenWaitCompletion (k : Nat) : Statement (.tokenWaitCompletion k) := rfl
theorem tlbInvalidationCompletion (id : Nat) : Statement (.tlbInvalidationCompletion id) := rfl
theorem remoteAccessAtTarget (id : Nat) : Statement (.remoteAccessAtTarget id) := rfl
theorem stageAcknowledgement (id : Nat) : Statement (.stageAcknowledgement id) := rfl
theorem remoteResponseArrival (id : Nat) : Statement (.remoteResponseArrival id) := rfl
theorem handlerArrival (id : Nat) : Statement (.handlerArrival id) := rfl
theorem handlerQueueStart (core : Nat) : Statement (.handlerQueueStart core) := rfl
theorem pipeSpaceFreed (k : Nat) : Statement (.pipeSpaceFreed k) := rfl
theorem unitCompletion (uid : Nat) : Statement (.unitCompletion uid) := rfl
theorem unitTransfer (uid : Nat) : Statement (.unitTransfer uid) := rfl
theorem completionCountArrival (uid : Nat) : Statement (.completionCountArrival uid) := rfl
theorem imageDataLoad (core : Nat) : Statement (.imageDataLoad core) := rfl
theorem dispatchDecision (core : Nat) : Statement (.dispatchDecision core) := rfl
theorem syncLaunchDispatch (handle : Nat) : Statement (.syncLaunchDispatch handle) := rfl
theorem stealClaim (core : Nat) : Statement (.stealClaim core) := rfl
theorem cancelArrival (die handle : Nat) : Statement (.cancelArrival die handle) := rfl
theorem jobStart (part : Nat) (addr : BitVec 64) : Statement (.jobStart part addr) := rfl
theorem microBatchTokenArrival (die : Nat) (tok : BitVec 64) : Statement (.microBatchTokenArrival die tok) := rfl
theorem phaseStart (die : Nat) : Statement (.phaseStart die) := rfl
theorem phaseCompletion (handle : Nat) : Statement (.phaseCompletion handle) := rfl
theorem collectiveFiringStart (slot : Nat) : Statement (.collectiveFiringStart slot) := rfl
theorem collectiveFiringCompletion (slot : Nat) : Statement (.collectiveFiringCompletion slot) := rfl
theorem collectiveTransferArrival (t : CollTransfer) : Statement (.collectiveTransferArrival t) := rfl
theorem flitReception (die link : Nat) (f : Flit) (good : Bool) : Statement (.flitReception die link f good) := rfl
theorem refusalReceipt (die link vc seq : Nat) : Statement (.refusalReceipt die link vc seq) := rfl
theorem acknowledgementTimer (die link vc : Nat) : Statement (.acknowledgementTimer die link vc) := rfl
theorem replayTimeout (die link vc : Nat) : Statement (.replayTimeout die link vc) := rfl
theorem automaticBackOff (die link : Nat) : Statement (.automaticBackOff die link) := rfl
theorem laneRetirement (die link mod lane : Nat) : Statement (.laneRetirement die link mod lane) := rfl
theorem linkRateWrite (die link rate : Nat) : Statement (.linkRateWrite die link rate) := rfl
theorem mailboxPop (part : Nat) : Statement (.mailboxPop part) := rfl
theorem jobAddressWrite (part : Nat) (addr : BitVec 64) : Statement (.jobAddressWrite part addr) := rfl
theorem contextFreeze (k cause : Nat) : Statement (.contextFreeze k cause) := rfl
theorem eventTake (k : Nat) : Statement (.eventTake k) := rfl
theorem contextQuiescence (k : Nat) : Statement (.contextQuiescence k) := rfl
theorem replayInjection (k : Nat) : Statement (.replayInjection k) := rfl
theorem uncorrectableError (die : Nat) : Statement (.uncorrectableError die) := rfl
theorem correctedError (die : Nat) : Statement (.correctedError die) := rfl
theorem branchResolution (k : Nat) : Statement (.branchResolution k) := rfl
theorem linkRetrainCompletion (die link mod : Nat) : Statement (.linkRetrainCompletion die link mod) := rfl
theorem flitTransmission (die link mod : Nat) : Statement (.flitTransmission die link mod) := rfl
theorem returnToP0 (die cluster : Nat) : Statement (.returnToP0 die cluster) := rfl
theorem hostCxlMemAccess (isWrite : Bool) (part addr len : Nat) (data : List (BitVec 8)) : Statement (.hostCxlMemAccess isWrite part addr len data) := rfl
theorem powerOn : Statement .powerOn := rfl
theorem pcieFundamentalReset : Statement .pcieFundamentalReset := rfl
theorem readIdentity : Statement .readIdentity := rfl
theorem attest : Statement .attest := rfl
theorem challenge : Statement .challenge := rfl
theorem unlock : Statement .unlock := rfl
theorem relock : Statement .relock := rfl
theorem enterRma : Statement .enterRma := rfl
theorem provision : Statement .provision := rfl
theorem createPartition : Statement .createPartition := rfl
theorem destroyPartition : Statement .destroyPartition := rfl
theorem reassignCluster : Statement .reassignCluster := rfl
theorem setPairOwner : Statement .setPairOwner := rfl
theorem powerRequest : Statement .powerRequest := rfl
theorem dieReset : Statement .dieReset := rfl
theorem warmStart : Statement .warmStart := rfl
theorem recoveryImage : Statement .recoveryImage := rfl
theorem debugHalt : Statement .debugHalt := rfl
theorem debugStep : Statement .debugStep := rfl
theorem debugResume : Statement .debugResume := rfl
theorem traceOn : Statement .traceOn := rfl
theorem traceOff : Statement .traceOff := rfl
theorem debugFreeze : Statement .debugFreeze := rfl

end Sys2Proof.Laws.Codec
end

