-- ==== Sys2Proof/Laws/Store.lean ====
section
/-! SUPPORT. Every operation that writes bytes keeps the store in canonical form: translations, copies, tiles, streaming commands,
save blocks, images, starts, services, traces (log 3). -/

set_option Elab.async false

namespace Sys2Proof.Machine

/-- A fold over states keeps what each of its steps keeps. -/
theorem foldl_sound {α : Type} (f : State → α → State) (hf : ∀ {s : State} (x : α), Sound s → Sound (f s x)) :
    ∀ (l : List α) {s : State}, Sound s → Sound (l.foldl f s)
  | [], _, h => h
  | x :: l, _, h => foldl_sound f hf l (hf x h)

/-- A fold over stores keeps what each of its steps keeps. -/
theorem foldl_wf {α : Type} (f : Memory → α → Memory) (hf : ∀ {m : Memory} (x : α), m.wf = true → (f m x).wf = true) :
    ∀ (l : List α) {m : Memory}, m.wf = true → (l.foldl f m).wf = true
  | [], _, h => h
  | x :: l, _, h => foldl_wf f hf l (hf x h)

/-- What keeps everything but the control of contexts keeps the canonical form. -/
theorem Kept.sound {s t : State} (k : Kept s t) (h : Sound s) : Sound t := by simp only [Sound, k.mem]; exact h

/-! ### Virtual memory -/

/-- R376: forgetting translations changes no byte. -/
@[simp] theorem State.invalidateAll_mem (s : State) (p : Nat) (va : Option Nat) : (s.invalidateAll p va).mem = s.mem := rfl

/-- R375, R376: a translation changes no byte. -/
@[simp] theorem State.translate_mem (s : State) (part die va : Nat) (rd wr : Bool) : (s.translate part die va rd wr).2.mem = s.mem := by
  unfold State.translate State.freeBit
  dsimp only
  repeat' split
  all_goals rfl

@[simp] theorem State.locate_mem (s : State) (part die va n : Nat) (rd wr : Bool) : (s.locate part die va n rd wr).2.mem = s.mem := by
  have hx : (if (va / 65536 + 1) * 65536 < va + n then (s.translate part die va rd wr).2.translate part die ((va / 65536 + 1) * 65536) rd wr
      else ((s.translate part die va rd wr).1, (s.translate part die va rd wr).2)).2.mem = s.mem := by
    split <;> simp only [State.translate_mem]
  unfold State.locate
  dsimp only
  split
  · rfl
  · split <;> exact hx

/-- R77: a byte written through a translation, its block expanded first. -/
theorem State.writePhys_sound {s : State} (host : Bool) (pa : Nat) (cz : Bool) (b : Byte) (h : Sound s) : Sound (s.writePhys host pa cz b) := by
  unfold State.writePhys
  refine Memory.wf_write _ _ ?_
  split
  · exact Memory.wf_write _ _ (Memory.wf_clear _ _ h)
  · exact h

theorem State.writeLocs_sound {s : State} (ls : List (Bool × Nat × Bool)) (bs : List Byte) (h : Sound s) : Sound (s.writeLocs ls bs) :=
  foldl_sound _ (fun _ hs => State.writePhys_sound _ _ _ _ hs) _ h

/-! ### Copies -/

/-- R375, R394: finding a side's place changes no byte. -/
@[simp] theorem State.spot_mem (s : State) (core space a n : Nat) (rd wr : Bool) : (s.spot core space a n rd wr).2.mem = s.mem := by
  unfold State.spot
  split
  · have hl := s.locate_mem ((s.partOf core).getD 16) (dieOf core) a n rd wr
    split <;> (rename_i _ heq; rw [heq] at hl; exact hl)
  · rfl

@[simp] theorem State.spots_mem (core space n : Nat) (rd wr : Bool) : ∀ (k : Nat) (s : State) (a : Nat),
    (s.spots core space n rd wr k a).2.mem = s.mem
  | 0, _, _ => rfl
  | k + 1, s, a => by
    unfold State.spots
    exact (State.spots_mem core space n rd wr k _ _).trans (s.spot_mem core space a n rd wr)

theorem State.getSpot_sound {s : State} (p : Spot) (n : Nat) (h : Sound s) : Sound (s.getSpot p n).2 := by
  unfold State.getSpot
  split
  · exact s.touch_sound _ _ h
  · exact h
  · exact h

theorem State.getSpots_sound (n : Nat) : ∀ (ps : List Spot) {s : State}, Sound s → Sound (s.getSpots n ps).2
  | [], _, h => h
  | p :: ps, _, h => State.getSpots_sound n ps (State.getSpot_sound p n h)

theorem State.putSpot_sound {s : State} (cov : List (Nat × Nat)) (p : Spot) (bs : List Byte) (h : Sound s) : Sound (s.putSpot cov p bs) := by
  unfold State.putSpot
  split
  · exact s.writeAt_sound _ _ _ h
  · exact State.writeLocs_sound _ _ h
  · exact h

/-- R75: the mask bits of elements that were not resident. -/
theorem State.markElems_sound {s : State} (c : Cmd) (r : CopyRec) (js : List Nat) (h : Sound s) : Sound (s.markElems c r js) := by
  unfold State.markElems
  split
  · exact h
  · dsimp only
    split
    · exact foldl_sound _ (fun _ hs => State.writeAt_sound _ _ _ (State.touch_sound _ _ hs)) _ h
    · exact h

/-! ### Tiles and streaming commands -/

theorem State.setTileRow_sound {s : State} (core z r : Nat) (vs : List W32) (h : Sound s) : Sound (s.setTileRow core z r vs) :=
  Memory.wf_writeN _ _ h

theorem State.performElem_sound {s : State} (cov : List (Nat × Nat)) (w : ElemW) (h : Sound s) : Sound (s.performElem cov w) :=
  s.writeAt_sound _ _ _ h

theorem State.performElems_sound {s : State} (cov : List (Nat × Nat)) (ws : List ElemW) (h : Sound s) : Sound (s.performElems cov ws) :=
  foldl_sound _ (fun w hs => State.performElem_sound cov w hs) ws h

/-- R215: a completion's writes. -/
theorem State.completeStream_sound {s : State} (c : Cmd) (h : Sound s) : Sound (s.completeStream c) := by
  unfold State.completeStream
  split
  · exact State.performElems_sound (s := s.dropCmd c.id) _ _ h
  · exact h

/-! ### Collectives -/

theorem State.placeBytes_sound {s : State} (t : CollTransfer) (h : Sound s) : Sound (s.placeBytes t).2 := by
  unfold State.placeBytes
  split
  · generalize (List.range t.data.length).zip t.data = l
    suffices hx : ∀ (acc : Bool × State), Sound acc.2 → Sound (l.foldl (fun (acc : Bool × State) x =>
      match acc.2.translate t.part 4 (t.addr + x.1) false true with
      | (.ok h pa cz, s) => (acc.1, s.writePhys h pa cz x.2)
      | (_, s) => (false, s)) acc).2 from hx (true, s) h
    induction l with
    | nil => exact fun _ ha => ha
    | cons x l ih =>
      intro acc ha
      refine ih _ ?_
      have hl := acc.2.translate_mem t.part 4 (t.addr + x.1) false true
      dsimp only
      split <;> rename_i heq <;> rw [heq] at hl
      · exact State.writePhys_sound _ _ _ _ ((congrArg Memory.wf hl).trans ha)
      · exact (congrArg Memory.wf hl).trans ha
  · split
    · exact h
    · exact s.writeAt_sound _ _ _ h

/-! ### Images, records of units, services, traces -/

theorem State.installImage_sound {s : State} (im : Image) (code : List (Nat × List Byte)) (h : Sound s) : Sound (s.installImage im code).2 :=
  foldl_wf _ (fun _ hm => Memory.wf_writeN _ _ hm) _ h

theorem State.writeImageData_sound {s : State} (core img : Nat) (h : Sound s) : Sound (s.writeImageData core img) :=
  foldl_wf _ (fun _ hm => Memory.wf_writeN _ _ hm) _ (foldl_wf _ (fun _ hm => Memory.wf_clear _ _ hm) _ h)

theorem State.writeUnitRecord_sound {s : State} (u : Unit) (h : Sound s) : Sound (s.writeUnitRecord u) := by
  unfold State.writeUnitRecord
  split
  · exact Memory.wf_writeN _ _ h
  · exact h

theorem State.finishService_sound {s : State} (st : Nat) (resp : List Byte) (h : Sound s) : Sound (s.finishService st resp) :=
  Memory.wf_writeN _ _ h

theorem State.traceBundle_sound {s : State} (b : Bundle) (h : Sound s) : Sound (s.traceBundle b) := by
  unfold State.traceBundle
  split
  · split
    · exact Memory.wf_writeN _ _ h
    · exact h
  · exact h

/-- Placing a word keeps the canonical form. -/
theorem placeWord_sound {s : State} (w : Nat) (h : Sound s) : Sound (placeWord s w) := Memory.wf_writeN _ _ (Memory.wf_clear _ _ h)

/-! ### Save blocks, starts, power -/

/-- R392: the bytes of a core's stores put in place; a context's block and the converter state write no byte. -/
theorem State.partIn_sound {s : State} (part core hc : Nat) (run : Bool) (b : List Byte) (h : Sound s)
    (hl : Sound (s.loadContext (ctxKey core hc) b run)) : Sound (s.partIn part core hc run b) := by
  unfold State.partIn
  split
  · exact hl
  · exact Memory.wf_writeN _ _ (Memory.wf_clear _ _ h)
  · exact Memory.wf_writeN _ _ (Memory.wf_clear _ _ h)
  · exact Memory.wf_writeN _ _ (Memory.wf_clear _ _ h)
  · exact h

theorem State.zeroStores_sound {s : State} (core : Nat) (h : Sound s) : Sound (s.zeroStores core) := Memory.wf_clear _ _ (Memory.wf_clear _ _ h)

/-- R346, R416: the stores of a core read zero after they are cleared, and every byte elsewhere stays. -/
theorem State.zeroStores_read (s : State) (core x : Nat) :
    (s.zeroStores core).mem.read x =
      if gsaOf core 0 ≤ x ∧ x < gsaOf core 0 + 0x700000 ∨ obKey core 0 0 ≤ x ∧ x < obKey core 0 0 + 0x40000 then blankByte else s.mem.read x := by
  unfold State.zeroStores
  dsimp only
  rw [Memory.read_clear, Memory.read_clear]
  by_cases h1 : obKey core 0 0 ≤ x ∧ x < obKey core 0 0 + 0x40000
  · simp [h1]
  · by_cases h2 : gsaOf core 0 ≤ x ∧ x < gsaOf core 0 + 0x700000
    · simp [h1, h2]
    · rw [if_neg h1, if_neg h2, if_neg (by tauto)]

theorem State.cleared_sound {s : State} (h : Sound s) : Sound s.cleared := Memory.wf_filter _ h

theorem State.saveTiles_sound {s : State} (core : Nat) (h : Sound s) : Sound (s.saveTiles core) := by
  unfold State.saveTiles
  generalize s.mem.readN (gsaOf core 0x400000) 0x300000 = bs
  generalize 0x300000 = n
  exact Memory.wf_writeN (reservedKey core) bs (Memory.wf_clear (reservedKey core) n h)

theorem State.restoreTiles_sound {s : State} (core : Nat) (h : Sound s) : Sound (s.restoreTiles core) := by
  unfold State.restoreTiles
  generalize s.mem.readN (reservedKey core) 0x300000 = bs
  generalize 0x300000 = n
  exact Memory.wf_writeN _ bs (Memory.wf_clear _ n h)

end Sys2Proof.Machine
end

