-- ==== Sys2Proof/Tests/Slice0.lean ====
section
/-! SUPPORT. Tests: ill-formed terms are refused, words written out from the encodings of the spec decode, single steps give what the
spec's rules give by hand, and every hypothesis of a statement can be met. -/

set_option Elab.async false

namespace Sys2Proof.Tests

open Sys2Proof.Machine Sys2Proof.Cert

/-! ### Operands that are all zero -/

/-- An RR word of zeros. -/
def rr : RR := { c := false, g := false, dst := 0, nw := false, sa := 0, sb := 0, fn := 0 }
/-- An RI word of zeros. -/
def ri : RI := { c := false, g := false, dst := 0, nw := false, sa := 0, imm := 0 }
/-- A CP word of zeros. -/
def cp : CP := { c := false, g := false, pd := 0, cond := 0, sa := 0, sb := 0, w := 0 }
/-- A BR word of zeros. -/
def br : BR := { c := false, g := false, pd := 0, pn := false, hint := false, disp := 0 }
/-- An LP word of zeros. -/
def lp : LP := { c := false, g := false, l := false, sn := 0, len := 0 }
/-- An MM word of zeros. -/
def mm : MM := { c := false, g := false, reg := 0, nw := false, sa := 0, sz := 0, sx := false, off := 0 }
/-- A VR word of zeros. -/
def vr : VR := { c := false, g := false, dd := 0, da := 0, db := 0, dc := 0, md := 0 }
/-- A VS word of zeros. -/
def vs : VS := { c := false, g := false, dd := 0, da := 0, ss := 0, md := 0 }
/-- A TQ word of zeros. -/
def tq : TQ := { c := false, g := false, sp := 0, k := 0, kw := false, sub := 0 }
/-- A PV word of zeros. -/
def pv : PV := { c := false, g := false, csr := 0, sa := 0, md := 0 }
/-- An HDR word of zeros. -/
def hd : HDR := { c := false, pop := 0, wait := 0, y := false, s := false, v := false, line := 0, gp := 0, gn := false }

/-! ### Ill-formed terms (R106, R107) -/

/-- R107: six-bit sources that name nothing. -/
theorem test_wf_sources : ([38, 39, 56, 63] : List (BitVec 6)).all (fun x => !srcOk x) = true := by decide +kernel

/-- R106, R152: fields a scalar word does not use, functions it does not have. -/
theorem test_wf_scalar : ([.sNop { rr with dst := 1 }, .sAdd { rr with fn := 2 }, .sSub { rr with sa := 38 }, .sMul { rr with sb := 39 },
    .sMulh { rr with fn := 1 }, .sMulhu { rr with fn := 1 }, .sDiv { rr with fn := 3 }, .sDivu { rr with fn := 2 }, .sRem { rr with sb := 56 },
    .sRemu { rr with fn := 2 }, .sAnd { rr with fn := 1 }, .sOr { rr with fn := 1 }, .sXor { rr with fn := 1 }, .sAndn { rr with fn := 1 },
    .sShl { rr with fn := 2 }, .sShr { rr with fn := 2 }, .sSra { rr with fn := 2 }, .sMin { rr with fn := 2 }, .sMax { rr with fn := 2 },
    .sMinu { rr with fn := 2 }, .sMaxu { rr with fn := 2 }, .sAddi { ri with sa := 63 }, .sAndi { ri with sa := 63 }, .sOri { ri with sa := 63 },
    .sXori { ri with sa := 63 }, .sShli { ri with imm := 64 }, .sShri { ri with imm := 64 }, .sSrai { ri with imm := 255 }, .sLi { ri with sa := 1 },
    .sMov { rr with sb := 1 }, .sSel { rr with sb := 38 }, .sCmp { cp with sb := 38 }, .sCmpi { cp with sa := 38 }, .sPlog { cp with sa := 8 },
    .sClz { rr with sb := 1 }, .sPopc { rr with fn := 2 }, .sBfx { rr with fn := 2 }, .sBfi { rr with fn := 1 }, .sSext { rr with sb := 1 },
    .sJmp { rr with fn := 2 }, .sRet { rr with dst := 1 }, .sLoop { lp with sn := 38 }, .sLbrk { lp with len := 1 }, .sRdlc { rr with sb := 2 },
    .sRdid { rr with sa := 1 }, .sRdtime { rr with fn := 1 }, .sRdcoin { rr with fn := 1 }, .sMfp { rr with sb := 1 },
    .sMtp { rr with nw := true }] : List Instr).all (fun i => !i.wf) = true := by decide +kernel

/-- R106, R178, R218, R232, R236: the same of M, V, F and X words. -/
theorem test_wf_streams : ([.mLd { mm with sa := 38 }, .mSt { mm with sx := true }, .mLdg { mm with reg := 1 }, .mStg { mm with nw := true },
    .mSth { mm with sx := true }, .mAmo { mm with sz := 1 }, .mLda { mm with sa := 38 }, .vDset { vs with da := 1 }, .vDget { vs with dd := 1 },
    .vAdd { vr with dc := 1 }, .vSub { vr with md := 1 }, .vMul { vr with dc := 1 }, .vFma { vr with md := 1 }, .vMax { vr with md := 1 },
    .vMin { vr with md := 1 }, .vAbs { vr with db := 1 }, .vNeg { vr with dc := 1 }, .vScal { vs with md := 2 }, .vAxpy { vs with ss := 38 },
    .vFill { vs with da := 1 }, .vCpy { vr with db := 1 }, .vCvt { vr with md := 4 }, .vCmp { vr with md := 8 }, .vSel { vr with md := 1 },
    .vAnd { vr with dc := 1 }, .vOr { vr with dc := 1 }, .vXor { vr with dc := 1 }, .vShl { vs with md := 1 }, .vShr { vs with md := 2 },
    .vClip { vr with md := 1 }, .vIota { vs with da := 1 }, .vGath { vr with dc := 1 }, .vScat { vr with md := 1 }, .vPerm { vr with md := 1 },
    .vRsum { vr with dd := 1 }, .vRmax { vr with md := 2 }, .vRmin { vr with dd := 1 }, .vRdot { vr with dc := 1 }, .vRstat { vs with dd := 1 },
    .vNfck { vr with dd := 1 }, .vPgen { vr with dc := 1 }, .vRscale { vs with md := 1 }, .vSkinit { vs with md := 3 }, .vSkq { vr with db := 1 },
    .vSkh { vr with db := 1 }, .vSkd { vr with dc := 1 }, .vSkm { vr with db := 1 }, .vSkqq { vs with dd := 1 }, .vSkest { vr with dd := 1 },
    .vSktop { vr with db := 1 }, .fExp { vs with ss := 1 }, .fLog { vs with md := 2 }, .fExp2 { vs with md := 1, dd := 1 }, .fLog2 { vs with ss := 1 },
    .fRcp { vs with ss := 1 }, .fRsqrt { vs with ss := 1 }, .fSqrt { vs with ss := 1 }, .fTanh { vs with ss := 1 }, .fSigm { vs with ss := 1 },
    .fGelu { vs with ss := 1 }, .fSilu { vs with ss := 1 }, .fSin { vs with ss := 1 }, .fCos { vs with ss := 1 }, .fErf { vs with ss := 1 },
    .xLd { vr with dd := 1 }, .xApp { vr with md := 2 }, .xRot { vr with dc := 4 }, .xBc { vr with db := 1 }, .xTr { vr with md := 1 },
    .xRev { vr with md := 6 }] : List Instr).all (fun i => !i.wf) = true := by decide +kernel

/-- R106, R184, R272, R285, R325, R389, R390: the same of T, A, Q and P words. -/
theorem test_wf_commands : ([.tMm { tq with sub := 768 }, .tMmg { tq with sp := 38 }, .tLdb { tq with sub := 1 }, .tZclr { tq with sp := 1 },
    .tZld { tq with sub := 2 }, .tZst { tq with sub := 1 }, .tCop { tq with kw := true }, .tZadd { tq with sub := 1 }, .aFwd { tq with sub := 3 },
    .aBwd { tq with sub := 8 }, .aUpd { tq with sub := 2 }, .aXfer { tq with sub := 2 }, .aSymw { tq with sub := 1 }, .aSymr { tq with sub := 1 },
    .aProg { tq with sub := 0 }, .aCkpt { tq with sub := 2 }, .aGfwd { tq with sub := 32 }, .aGbwd { tq with sub := 32 }, .aGupd { tq with sub := 2 },
    .aSeed { tq with kw := true }, .aScl { tq with sub := 1 }, .aStat { tq with sub := 4 }, .qCopy { tq with sub := 1 }, .qTokst { tq with kw := true },
    .qDrain { tq with sub := 5 }, .qFence { tq with k := 1 }, .qPut { tq with sub := 16 }, .qLaunch { tq with sub := 1 }, .qGlaunch { tq with sub := 1 },
    .qCancel { tq with kw := true }, .qExit { tq with sub := 1 }, .qPgreq { tq with kw := false }, .qSortc { tq with sub := 1 },
    .qCarm { tq with sub := 512 }, .qCtrig { tq with sub := 128 }, .qCstat { tq with sub := 768 }, .qHset { tq with sub := 8 },
    .qOffer { tq with sub := 3 }, .qSrec { tq with sub := 3 }, .qWaitk { tq with sp := 1 }, .qKclr { tq with sub := 256 }, .pTrap { pv with sa := 1 },
    .pEret { pv with md := 4 }, .pCsrr { pv with sa := 32 }, .pCsrw { pv with sa := 38 }, .pCsrs { pv with sa := 38 }, .pCsrc { pv with sa := 38 },
    .pTlbi { tq with sub := 2 }, .pCtxsv { tq with sub := 5 }, .pCtxld { tq with sub := 16 }, .pHalt { tq with sub := 1 },
    .pPmt { tq with sub := 512 }] : List Instr).all (fun i => !i.wf) = true := by decide +kernel

/-- R109: more or wider EXT payloads than a word takes. -/
theorem test_wf_ext : (Instr.sAddi ri).extLimit = 2 ∧ (Instr.sCmpi cp).extLimit = 1 ∧ (Instr.sAdd rr).extLimit = 0 ∧
    (Instr.sShli ri).extOk [1] = false ∧ (Instr.tMm tq).extOk [BitVec.ofNat 27 (2 ^ 23)] = false ∧ (Instr.qPut tq).extLimit = 0 := by decide +kernel

/-! ### Words, bit by bit from R97, R105 and the tables of the classes -/

/-- S words: `s.addi g7, g1, -2`; `s.cmp.i32 p3` with condition 2 of `g4` and `g5`; `s.br` on not `p2`, hinted, 3 packets back; a loop `lc1` of 6 words
counted by `g9`; `s.sel` of `p5`; and the bundle of R110's example. -/
theorem test_decode_scalar :
    decodeWord 0b0_0001_010101_0_00111_0_000001_11111110#32 = .ok (.sAddi { ri with dst := 7, sa := 1, imm := 254 }) ∧
    decodeWord 0b0_0001_011111_0_011_010_000100_000101_10#32 = .ok (.sCmp { cp with pd := 3, cond := 2, sa := 4, sb := 5, w := 2 }) ∧
    decodeWord 0b0_0001_100111_0_010_1_1_111111111111101#32 = .ok (.sBr { br with pd := 2, pn := true, hint := true, disp := 0x7FFD }) ∧
    decodeWord 0b0_0001_101011_0_1_001001_0000000000110#32 = .ok (.sLoop { lp with l := true, sn := 9, len := 6 }) ∧
    decodeWord 0b1_0001_011110_1_00010_1_000011_000100_01#32 =
      .ok (.sSel { rr with c := true, g := true, dst := 2, nw := true, sa := 3, sb := 4, fn := 1 }) ∧
    decodeWord 0x80001400#32 = .ok (.hdr { hd with c := true, wait := 2, y := true }) ∧
    decodeWord 0x88218414#32 = .ok (.sAdd { rr with c := true, dst := 3, sa := 4, sb := 5 }) := by decide +kernel

/-- M words: `m.ldg` of 4 bytes to `q2`; `m.amo` 8 bytes, `af` 6 with operand `g3`, to `q1`; R110's `m.ld`. -/
theorem test_decode_memory :
    decodeWord 0b0_0010_000010_0_01000_0_000101_10_1_11111#32 = .ok (.mLdg { mm with reg := 8, sa := 5, sz := 2, sx := true, off := 31 }) ∧
    decodeWord 0b0_0010_000101_0_00100_1_000101_11_1_00011#32 = .ok (.mAmo { mm with reg := 4, nw := true, sa := 5, sz := 3, sx := true, off := 3 }) ∧
    decodeWord 0x90030782#32 = .ok (.mLd { mm with c := true, reg := 6, sa := 7, sz := 2, off := 2 }) := by decide +kernel

/-- V, F, X words: `v.fma d1, d2, d3, d4`; `v.scal` with `g9` and mode 1; `f.gelu d5, d6`; `x.rot d1, d2` by 3; R110's `v.add`. -/
theorem test_decode_streams :
    decodeWord 0b0_0011_000101_0_0001_0010_0011_0100_0000#32 = .ok (.vFma { vr with dd := 1, da := 2, db := 3, dc := 4 }) ∧
    decodeWord 0b0_0011_001010_0_0001_0010_001001_000001#32 = .ok (.vScal { vs with dd := 1, da := 2, ss := 9, md := 1 }) ∧
    decodeWord 0b0_0100_001001_0_0101_0110_000000_000000#32 = .ok (.fGelu { vs with dd := 5, da := 6 }) ∧
    decodeWord 0b0_0101_000010_0_0001_0010_0000_0000_0011#32 = .ok (.xRot { vr with dd := 1, da := 2, md := 3 }) ∧
    decodeWord 0x18420100#32 = .ok (.vAdd { vr with dd := 2, da := 0, db := 1 }) := by decide +kernel

/-- T, A, Q, P words: `t.zadd` of tile 191; `a.fwd` of pair 17, mode 2; `q.copy` at `g4` with token 7; `p.csrw` of register 0x2B from `g10`; `a.stat.age`. -/
theorem test_decode_commands :
    decodeWord 0b0_0110_000111_0_000011_001_1_10111111_00#32 = .ok (.tZadd { tq with sp := 3, k := 1, kw := true, sub := 764 }) ∧
    decodeWord 0b0_0111_000000_1_000011_000_0_10001_00010#32 = .ok (.aFwd { tq with g := true, sp := 3, sub := 546 }) ∧
    decodeWord 0b0_1000_000000_0_000100_111_1_0000000000#32 = .ok (.qCopy { tq with sp := 4, k := 7, kw := true }) ∧
    decodeWord 0b0_1001_000011_0_0000101011_001010_0000#32 = .ok (.pCsrw { pv with csr := 0x2B, sa := 10 }) ∧
    decodeWord 0b0_0111_001101_0_000000_000_0_00011_00011#32 = .ok (.aStat { tq with sub := 99 }) := by decide +kernel

/-- R100, R110: reserved classes, reserved opcodes, bits that must be zero. -/
theorem test_decode_reserved :
    decodeWord 0x58000000#32 = .error .reservedClass ∧ decodeWord 0x78000001#32 = .error .reservedClass ∧
    decodeWord 0x0E600000#32 = .error .reservedOp ∧ decodeWord 0x4F000000#32 = .error .reservedOp := by decide +kernel

/-! ### States of a step -/

/-- A partition that owns everything, with a supervisor in context 7 of each core. -/
def part0 : Part := { live := true, clusters := 2 ^ 48 - 1, svm := 128, lines := 0xFFFF, lnk := true, engines := 2 ^ 24 - 1, slots := 2 ^ 128 - 1, eps := [0] }
/-- A package whose core 0 holds a context 0 and a supervisor, with a word in hand. -/
def base (x : Ctx) (iss : Iss) (mem : Memory) : State :=
  { State.reset with mem := mem, parts := [(0, part0)], ctxs := [(0, x), (7, { role := .supervisor, halted := true })], iss := iss }
/-- A unit with registers. -/
def unit (g : SMap W64) : Ctx := { role := .unit, live := { pc := 16, g := g }, work := some { uid := 1, launch := 2 ^ 28, resv := [3, 4] } }
/-- The word in hand of context 0 of core 0: the bundle at 12 ends at 16. -/
def iss0 : Iss := { word := 0x88218414, pc := 12, next := 16, when_ := 1 }
/-- A user state with registers. -/
def user (g : SMap W64) (mem : Memory := []) : State := base (unit g) iss0 mem
/-- A state in which context 7, the supervisor, holds the word in hand. -/
def super (x : Ctx) (mem : Memory := []) : State :=
  { base (unit []) { iss0 with h := 7 } mem with ctxs := [(0, unit []), (7, { x with role := .supervisor })] }

/-- The state a step answers; reset where it answers none. -/
def after (o : Out) : State := match o with
  | .next t => t
  | _ => State.reset
/-- The youngest result in flight of context 0. -/
def newest (s : State) : W64 := ((s.ctx 0).live.flights.getLast?.map (fun x => x.val)).getD 0xDEAD
/-- What a word of context 0 with `g1` and `g2` delivers. -/
def give (a b : W64) (i : Instr) : W64 := newest (after (exec i (user [(1, a), (2, b)])))
/-- `g1` and `g2` as sources. -/
def r12 : RR := { rr with dst := 3, sa := 1, sb := 2 }

/-! ### Scalar words (R155 to R168) -/

/-- R155: a sum wraps; with `.i32` it wraps at 32 bits and is sign-extended; a difference below 0. -/
theorem test_add_sub : give (BitVec.allOnes 64) 2 (.sAdd r12) = 1 ∧ give 0x7FFFFFFF 1 (.sAdd { r12 with fn := 1 }) = 0xFFFFFFFF80000000 ∧
    give 1 3 (.sSub r12) = 0xFFFFFFFFFFFFFFFE ∧ give 0 0x80000000 (.sSub { r12 with fn := 1 }) = 0xFFFFFFFF80000000 := by decide +kernel
/-- R156: low and high halves of products, signed and not. -/
theorem test_mul : give 0xFFFFFFFFFFFFFFFF 3 (.sMul r12) = 0xFFFFFFFFFFFFFFFD ∧ give 0x10000 0x10000 (.sMul { r12 with fn := 1 }) = 0 ∧
    give 0xFFFFFFFFFFFFFFFF 3 (.sMulh r12) = 0xFFFFFFFFFFFFFFFF ∧ give 0xFFFFFFFFFFFFFFFF 3 (.sMulhu r12) = 2 := by decide +kernel
/-- R156: division truncates; by zero; the most negative number by −1. -/
theorem test_div : give (-7) 2 (.sDiv r12) = -3 ∧ give (-7) 2 (.sRem r12) = -1 ∧ give 5 0 (.sDiv r12) = -1 ∧ give 5 0 (.sRem r12) = 5 ∧
    give 0x8000000000000000 (-1) (.sDiv r12) = 0x8000000000000000 ∧ give 0x8000000000000000 (-1) (.sRem r12) = 0 := by decide +kernel
/-- R156: without signs. -/
theorem test_divu : give (-1) 2 (.sDivu r12) = 0x7FFFFFFFFFFFFFFF ∧ give 7 0 (.sDivu r12) = -1 ∧ give 7 4 (.sRemu r12) = 3 ∧
    give 0xFFFFFFFF 0 (.sRemu { r12 with fn := 1 }) = -1 := by decide +kernel
/-- R155, R158: bitwise words. -/
theorem test_bits : give 12 10 (.sAnd r12) = 8 ∧ give 12 10 (.sOr r12) = 14 ∧ give 12 10 (.sXor r12) = 6 ∧ give 12 10 (.sAndn r12) = 4 ∧
    give 12 10 (.sMov { r12 with sb := 0 }) = 12 := by decide +kernel
/-- R155: a shift takes its amount modulo the width. -/
theorem test_shift : give 1 65 (.sShl r12) = 2 ∧ give 0x8000000000000000 63 (.sShr r12) = 1 ∧ give 0x8000000000000000 63 (.sSra r12) = -1 ∧
    give 0x80000000 33 (.sSra { r12 with fn := 1 }) = 0xFFFFFFFFC0000000 ∧ give 0x80000000 31 (.sShr { r12 with fn := 1 }) = 1 := by decide +kernel
/-- R155: minima and maxima. -/
theorem test_extremes : give (-1) 1 (.sMin r12) = -1 ∧ give (-1) 1 (.sMax r12) = 1 ∧ give (-1) 1 (.sMinu r12) = 1 ∧ give (-1) 1 (.sMaxu r12) = -1 := by decide +kernel
/-- R157: immediates are signed. -/
theorem test_immediates : give 5 0 (.sAddi { ri with sa := 1, imm := 0xFE }) = 3 ∧ give 0xFF0F 0 (.sAndi { ri with sa := 1, imm := 0xF0 }) = 0xFF00 ∧
    give 1 0 (.sOri { ri with sa := 1, imm := 0x80 }) = 0xFFFFFFFFFFFFFF81 ∧ give 0 0 (.sXori { ri with sa := 1, imm := 0xFF }) = -1 ∧
    give 0 0 (.sLi { ri with imm := 0x80 }) = 0xFFFFFFFFFFFFFF80 ∧ give 1 0 (.sShli { ri with sa := 1, imm := 63 }) = 0x8000000000000000 ∧
    give (-1) 0 (.sShri { ri with sa := 1, imm := 60 }) = 15 ∧ give (-16) 0 (.sSrai { ri with sa := 1, imm := 2 }) = -4 := by decide +kernel
/-- R109: an EXT payload is the upper part of an immediate. -/
theorem test_ext : newest (after (exec (.sLi { ri with imm := 0x34 }) { user [] with iss := { iss0 with ext := [0x12] } })) = 0x1234 ∧
    (after (exec (.ext { c := true, pay := 9 }) (user []))).iss.ext = [9] := by decide +kernel
/-- R159, R160: compares of a width, and logic of predicates. -/
theorem test_compares : give 0x180 0x80 (.sCmp { cp with pd := 1, sa := 1, sb := 2, cond := 0 }) = 1 ∧
    give 0xFF 1 (.sCmp { cp with pd := 1, sa := 1, sb := 2, cond := 2 }) = 1 ∧ give 0xFF 1 (.sCmp { cp with pd := 1, sa := 1, sb := 2, cond := 4 }) = 0 ∧
    give 6 1 (.sCmp { cp with pd := 1, sa := 1, sb := 2, cond := 7, w := 3 }) = 1 ∧
    give 0xFFFFFFFFFFFFFFFF 0 (.sCmpi { cp with pd := 1, sa := 1, sb := 63, cond := 0, w := 3 }) = 1 ∧
    give 0 0 (.sPlog { cp with pd := 1, sa := 0, sb := 1, cond := 3 }) = 1 := by decide +kernel
/-- R162: counts and fields. -/
theorem test_fields : give 1 0 (.sClz { r12 with sb := 0 }) = 63 ∧ give 0 0 (.sClz { r12 with sb := 0, fn := 1 }) = 32 ∧ give 0xF0F 0 (.sPopc { r12 with sb := 0 }) = 8 ∧
    give 0xABCD 0x0804 (.sBfx r12) = 0xBC ∧ give 0xF0 0x0404 (.sBfx { r12 with fn := 1 }) = -1 ∧ give 5 0x0403 (.sBfi r12) = 0x28 ∧
    give 0x80 0 (.sSext { r12 with sb := 0 }) = 0xFFFFFFFFFFFFFF80 := by decide +kernel
/-- R163, R164, R166, R168: words that read state: core 0, context 0; the time; the predicates; a loop's count. -/
theorem test_reads : give 0 0 (.sRdid { rr with dst := 1 }) = 0 ∧
    newest (after (exec (.sRdtime { rr with dst := 1 }) { user [] with now := 77 })) = 77 ∧ give 0 0 (.sMfp { rr with dst := 1 }) = 1 ∧
    give 0 0 (.sRdlc { rr with dst := 1 }) = 0 := by decide +kernel
/-- R165: from a coin of 0 the next is that of 1. -/
theorem test_coin : give 0 0 (.sRdcoin { rr with dst := 1 }) = 0x40822041 := by decide +kernel
/-- R166: the mask picks the predicates written. -/
theorem test_mtp : ((after (exec (.sMtp { rr with sa := 1, sb := 2 }) (user [(1, 0xFF), (2, 0x0A)]))).ctx 0).live.flights.map (fun x => x.dst) =
    [.p 1, .p 3] := by decide +kernel
/-- R158: `s.sel` by `p4`, which is false here; `s.nop` delivers nothing. -/
theorem test_sel_nop : give 1 2 (.sSel r12) = 2 ∧ (after (exec (.sNop rr) (user []))).ctxs = (user []).ctxs := by decide +kernel
/-- R169 to R176: a branch not taken goes on; a call links to the next packet; jumps and returns go where their register says; a count of 0 arms
no loop; a break out of a loop that is not armed was predicted wrongly. -/
theorem test_control : ((after (exec (.sBr { br with pd := 1, disp := 1 }) (user []))).ctx 0).live.pc = 16 ∧
    newest (after (exec (.sCall { br with disp := 1 }) (user []))) = 24 ∧
    ((after (exec (.sJmp { rr with sa := 1 }) (user [(1, 48)]))).ctx 0).live.pc = 48 ∧
    ((after (exec (.sRet { rr with sa := 1 }) (user [(1, 36)]))).ctx 0).live.pc = 36 ∧
    ((after (exec (.sLoop { lp with sn := 0, len := 1 }) (user []))).ctx 0).live.lc0.armed = false ∧
    ((after (exec (.sLoop { lp with sn := 1, len := 2 }) (user [(1, 5)]))).ctx 0).live.lc0.e = 20 ∧
    ((after (exec (.sLbrk lp) (user []))).ctx 0).snaps.map (fun x => (x.mis, x.arch.pc)) = [(true, 16)] := by decide +kernel

/-! ### Words the spec writes out in full -/

/-- S words of chapters 06, 08, 16, 17, 22. -/
theorem test_words_scalar :
    decodeWord 0x0B820005#32 = .ok (.sLi { ri with dst := 4, imm := 5 }) ∧
    decodeWord 0x8AB1A82C#32 = .ok (.sAddi { ri with c := true, g := true, dst := 3, sa := 40, imm := 0x2C }) ∧
    decodeWord 0x0864861C#32 = .ok (.sMul { rr with dst := 9, sa := 6, sb := 7 }) ∧
    decodeWord 0x0BCB0067#32 = .ok (.sSel { rr with dst := 22, sb := 25, fn := 3 }) ∧
    decodeWord 0x0C03A443#32 = .ok (.sCmpi { cp with pd := 1, cond := 6, sa := 36, sb := 16, w := 3 }) ∧
    decodeWord 0x0C0206FE#32 = .ok (.sCmpi { cp with pd := 1, sa := 6, sb := 63, w := 2 }) ∧
    decodeWord 0x0C024110#32 = .ok (.sCmpi { cp with pd := 1, cond := 1, sa := 1, sb := 4, w := 0 }) ∧
    decodeWord 0x0CE20003#32 = .ok (.sBr { br with pd := 1, disp := 3 }) ∧
    decodeWord 0x0CE3FFFF#32 = .ok (.sBr { br with pd := 1, pn := true, hint := true, disp := 0x7FFF }) ∧
    decodeWord 0x0D69400D#32 = .ok (.sLoop { lp with l := true, sn := 10, len := 13 }) := by decide +kernel
/-- Header words of chapters 15, 16, 17; an extension word. -/
theorem test_words_header :
    decodeWord 0x80080400#32 = .ok (.hdr { hd with c := true, pop := 1, y := true }) ∧
    decodeWord 0x80000005#32 = .ok (.hdr { hd with c := true, gp := 2, gn := true }) ∧
    decodeWord 0x80007000#32 = .ok (.hdr { hd with c := true, wait := 0x0E }) ∧
    decodeWord 0x00000310#32 = .ok (.hdr { hd with s := true, v := true, line := 1 }) ∧
    decodeWord 0xD0008C00#32 = .ok (.ext { c := true, pay := 0x8C00 }) := by decide +kernel
/-- M, V, F, X words of chapters 09, 10, 11, 16, 17, 18. -/
theorem test_words_streams :
    decodeWord 0x10420A82#32 = .ok (.mLdg { mm with reg := 4, sa := 10, sz := 2, off := 2 }) ∧
    decodeWord 0x10A40BC6#32 = .ok (.mAmo { mm with reg := 8, sa := 11, sz := 3, off := 6 }) ∧
    decodeWord 0x906305C0#32 = .ok (.mStg { mm with c := true, reg := 6, sa := 5, sz := 3 }) ∧
    decodeWord 0x900305A0#32 = .ok (.mLd { mm with c := true, reg := 6, sa := 5, sz := 2, sx := true }) ∧
    decodeWord 0x98010200#32 = .ok (.vDset { vs with c := true, dd := 1, ss := 8 }) ∧
    decodeWord 0x99721540#32 = .ok (.vAxpy { vs with c := true, g := true, dd := 2, da := 1, ss := 21 }) ∧
    decodeWord 0x9C001000#32 = .ok (.vNfck { vr with c := true, da := 1 }) ∧
    decodeWord 0x9BE00DC0#32 = .ok (.vRstat { vs with c := true, ss := 55 }) ∧
    decodeWord 0x1C220100#32 = .ok (.vPgen { vr with dd := 2, db := 1 }) ∧
    decodeWord 0x1C610004#32 = .ok (.vSkinit { vs with dd := 1, md := 4 }) ∧
    decodeWord 0x1C810000#32 = .ok (.vSkq { vr with dd := 1 }) ∧
    decodeWord 0x1D001240#32 = .ok (.vSkqq { vs with da := 1, ss := 9 }) ∧
    decodeWord 0x1D551000#32 = .ok (.vSktop { vr with g := true, dd := 5, da := 1 }) ∧
    decodeWord 0xA8A40000#32 = .ok (.xRev { vr with c := true, dd := 4 }) ∧
    decodeWord 0xA846003E#32 = .ok (.xRot { vr with c := true, dd := 6, dc := 3, md := 14 }) := by decide +kernel
/-- T, A, Q words of chapters 09, 12, 13, 14, 15, 17. -/
theorem test_words_commands :
    decodeWord 0x30021417#32 = .ok (.tMm { tq with sp := 8, k := 2, kw := true, sub := 23 }) ∧
    decodeWord 0x38024C41#32 = .ok (.aFwd { tq with sp := 9, k := 1, kw := true, sub := 65 }) ∧
    decodeWord 0xB8221400#32 = .ok (.aBwd { tq with c := true, sp := 8, k := 2, kw := true }) ∧
    decodeWord 0xB8420001#32 = .ok (.aUpd { tq with c := true, sp := 8, sub := 1 }) ∧
    decodeWord 0xB9021402#32 = .ok (.aGfwd { tq with c := true, sp := 8, k := 2, kw := true, sub := 2 }) ∧
    decodeWord 0x4015DC00#32 = .ok (.qCopy { tq with g := true, sp := 23, k := 3, kw := true }) ∧
    decodeWord 0xC142CC00#32 = .ok (.qSortc { tq with c := true, sp := 11, k := 1, kw := true }) ∧
    decodeWord 0xC0400003#32 = .ok (.qDrain { tq with c := true, sub := 3 }) ∧
    decodeWord 0x40700001#32 = .ok (.qFence { tq with g := true, sub := 1 }) ∧
    decodeWord 0x41000000#32 = .ok (.qExit tq) ∧
    decodeWord 0x41621405#32 = .ok (.qCarm { tq with sp := 8, k := 2, kw := true, sub := 5 }) ∧
    decodeWord 0x41600105#32 = .ok (.qCarm { tq with sub := 261 }) ∧
    decodeWord 0x41825C05#32 = .ok (.qCtrig { tq with sp := 9, k := 3, kw := true, sub := 5 }) ∧
    decodeWord 0x41A00205#32 = .ok (.qCstat { tq with sub := 517 }) := by decide +kernel
/-- P words of chapters 21, 22, 23. -/
theorem test_words_privileged :
    decodeWord 0x48080400#32 = .ok (.pTrap { pv with csr := 0x201 }) ∧
    decodeWord 0x48200002#32 = .ok (.pEret { pv with md := 2 }) ∧
    decodeWord 0x48409428#32 = .ok (.pCsrr { pv with csr := 0x025, sa := 2, md := 8 }) ∧
    decodeWord 0x48609C31#32 = .ok (.pCsrw { pv with csr := 0x027, sa := 3, md := 1 }) ∧
    decodeWord 0x48809040#32 = .ok (.pCsrs { pv with csr := 0x024, sa := 4 }) ∧
    decodeWord 0x48A09040#32 = .ok (.pCsrc { pv with csr := 0x024, sa := 4 }) ∧
    decodeWord 0x48C1CC00#32 = .ok (.pTlbi { tq with sp := 7, k := 1, kw := true }) ∧
    decodeWord 0x49200000#32 = .ok (.pHalt tq) ∧
    decodeWord 0x49425430#32 = .ok (.pPmt { tq with sp := 9, k := 2, kw := true, sub := 48 }) := by decide +kernel
/-! ### The standards that signatures rest on -/

/-- FIPS 180-4's example "abc". -/
theorem test_sha : sha512 [0x61, 0x62, 0x63] = bigBytes 64 0xDDAF35A193617ABACC417349AE20413112E6FA4E89A97EA20A9EEEE64B55D39A2192992A274FC1A836BA3C23A3FEEBBD454D4423643CE80E2A9AC94FA54CA49F := by
  decide +kernel
/-- Under a key of exponent 1 the encoded message is its own signature (RFC 8017); 7^5 modulo 1000. -/
theorem test_rsa : rsaVerify (bigBytes 512 (2 ^ 4095 + 1)) 1 (bigBytes 64 5) (bigBytes 512 (pkcsEncode (bigBytes 64 5))) = true ∧
    rsaVerify (bigBytes 512 (2 ^ 4095 + 1)) 1 (bigBytes 64 6) (bigBytes 512 (pkcsEncode (bigBytes 64 5))) = false ∧ powMod 7 1000 32 5 = 807 := by decide +kernel

/-! ### Witnesses: concrete states and operands that meet every hypothesis of a statement, clause by clause -/

/-- An image whose first word is `w`; context 0 of core 0 is about to fetch it, and core 0 is about to issue. -/
def coded (w : W32) : State :=
  { base { unit [] with live := {} } {} (Memory.writeN [] (codeKey 0 0) (bytesOf 4 w.toNat)) with images := [(0, { codeLen := 24 })], turn := [0] }
/-- `s.add g3, g1, g2`. -/
def addWord : W32 := 0b0_0001_000001_0_00011_0_000001_000010_00
/-- What it decodes to. -/
def addInstr : Instr := .sAdd r12

theorem witness_encodings : encode addInstr = some addWord ∧ (Instr.qExit tq).cls ≠ 16 ∧ decodeWord 0#32 = .ok (.hdr hd) ∧
    (∀ c ∈ [11, 15], 11 ≤ (classOf (BitVec.ofNat 32 (c * 2 ^ 27))).toNat) ∧
    (∀ x ∈ [(1, 51), (2, 7), (3, 43), (4, 14), (5, 6), (6, 8), (7, 14), (8, 19), (9, 11)], let w := BitVec.ofNat 32 (x.1 * 2 ^ 27 + x.2 * 2 ^ 21)
      classOf w = BitVec.ofNat 4 x.1 ∧ (opOf w).toNat = x.2) := by decide +kernel
theorem witness_FetchReadsTheWord : (coded addWord).codeWord 0 0 = some addWord ∧ addWord ≠ 0 ∧ chainBit addWord = false ∧
    decodeWord addWord = .ok addInstr ∧ addInstr.wf = true ∧ addInstr.extOk [] = true ∧ 1 ≤ addInstr.cls ∧ addInstr.cls ≤ 9 := by decide +kernel
theorem witness_StepRunsDecoded : let s := coded addWord
    let x := s.ctx 0
    let b := oneWord 0 addWord addInstr
    s.agenda.head?.any startsCycle = false ∧ s.turn = [0] ∧ (s.core 0).choosing = false ∧ (s.core 0).primary = 0 ∧ x.live.pc = 0 ∧ x.runs = true ∧
      x.stopped s.now = false ∧ x.syncTo = none ∧ s.codeWord x.img 0 = some addWord ∧ x.breaksAt 0 = false ∧
      ({ s with turn := [] } : State).headerTrap 0 b true = none ∧ ({ s with turn := [] } : State).interlocked 0 noOffset b true = false ∧
      ({ s with turn := [] } : State).candidate 0 0 = none := by decide +kernel
theorem witness_StepRunsEvents : (∃ e ∈ [Instr.handlerQueueStart 0, .nextPrimaryChoice 0], startsCycle e = true) ∧
    ({ coded addWord with turn := [], agenda := [.unitTransfer 1] } : State).turn = [] ∧ (user []).agenda = [] ∧ (user []).turn = [] ∧
    ({ user [] with mon := { (user []).mon with frozen := true } } : State).mon.frozen = true := by decide +kernel

/-- The functions of two sources. -/
def twoSource : List (RR → Instr) := [.sAdd, .sSub, .sMul, .sMulh, .sMulhu, .sAnd, .sOr, .sXor, .sAndn, .sDiv, .sDivu, .sRem, .sRemu, .sShl, .sShr,
  .sSra, .sMin, .sMax, .sMinu, .sMaxu, .sSel, .sBfx, .sBfi]
theorem witness_Arithmetic : (∀ k ∈ twoSource, ∀ lat ∈ [1, 3, 12], Free (k r12) r12.g (destOf r12.dst r12.nw) lat (user [(1, 5)])) ∧
    (∀ k ∈ ([.sAdd, .sSub, .sMul, .sDiv, .sDivu, .sRem, .sRemu, .sShl, .sShr, .sSra, .sMin, .sMax, .sMinu, .sMaxu] : List (RR → Instr)), ∀ lat ∈ [1, 3, 12],
      let f := { r12 with fn := 1, dst := 0 }
      Free (k f) f.g (destOf f.dst f.nw) lat (user [(1, 5)])) ∧
    Free (.sMov { r12 with sb := 0 }) false (.g 3) 1 (user [(1, 5)]) := by decide +kernel
theorem witness_Immediates : (∀ k ∈ plainRI, let f := { ri with dst := 3, imm := 63 }
      Free (k f) f.g (destOf f.dst f.nw) 1 (user []) ∧ (k f).extOk (user []).iss.ext = true) ∧
    (∀ n ≤ 2, (List.replicate n (5 : BitVec 27)).length ≤ 2 ∧ Free (.sAddi { ri with dst := 3, imm := 128 }) false (.g 3) 1
      { user [] with iss := { iss0 with ext := List.replicate n 5 } }) := by decide +kernel
theorem witness_Compares : (∀ w < 4, ∀ c < 8, let f := { cp with pd := 1, cond := BitVec.ofNat 3 c, sa := 1, sb := 2, w := BitVec.ofNat 2 w }
      Free (.sCmp f) f.g (.p 1) 1 (user []) ∧ Free (.sCmpi f) f.g (.p 1) 1 (user []) ∧
        Free (.sPlog { f with w := 0 }) f.g (.p 1) 1 (user [])) ∧ (user []).iss.ext.length ≤ 1 := by decide +kernel
theorem witness_BitFields : (∀ k ∈ ([.sBfx, .sBfi] : List (RR → Instr)), Free (k r12) r12.g (.g 3) 1 (user [(2, 0x4000)])) ∧
    (∀ n < 3, Free (.sSext { r12 with sb := 0, fn := BitVec.ofNat 2 n }) false (.g 3) 1 (user [])) ∧
    Free (.sMfp { rr with dst := 3 }) false (.g 3) 1 (user []) ∧ Free (.sClz { r12 with sb := 0 }) false (.g 3) 1 (user []) ∧
    Free (.sPopc { r12 with sb := 0, fn := 1 }) false (.g 3) 1 (user []) ∧ Executes (.sMtp { rr with sa := 1, sb := 2 }) false (user []) ∧
    (∀ n, 1 ≤ n → n ≤ 7 → (user []).cur.live.collides (.p n) 1 = false) := by
  refine ⟨by decide +kernel, by decide +kernel, by decide +kernel, by decide +kernel, by decide +kernel, by decide +kernel, fun n h l => ?_⟩
  interval_cases n <;> decide +kernel
/-- A unit of a gang on three cores. -/
def ganged : State := base { unit [] with work := some { role := 3, gcores := [1, 2, 511], tx := 65535, gx := 65535, oneCore := true } } iss0 []
theorem witness_StateReads : Executes (.sNop rr) false (user []) ∧ (∀ n < 4, Free (.sRdid { rr with dst := 3, fn := BitVec.ofNat 2 n }) false (.g 3) 1 ganged) ∧
    ganged.iss.core < 512 ∧ ganged.iss.h < 8 ∧ (∃ w, ganged.cur.work = some w ∧ w.tx < 2 ^ 16 ∧ w.gx < 2 ^ 16 ∧ w.role < 4 ∧ w.gcores = [1, 2, 511]) ∧
    Free (.sRdtime { rr with dst := 3 }) false (.g 3) 1 ganged ∧ Free (.sRdcoin { rr with dst := 3 }) false (.g 3) 1 ganged ∧
    (∀ b < 2, ∀ n < 4, Free (.sRdlc { rr with dst := 3, sb := BitVec.ofNat 6 b, fn := BitVec.ofNat 2 n }) false (.g 3) 1 ganged) := by
  refine ⟨by decide +kernel, by decide +kernel, by decide +kernel, by decide +kernel, ⟨_, rfl, by decide +kernel⟩, by decide +kernel, by decide +kernel, by decide +kernel⟩
theorem witness_ResultArrives : ∃ a : Arch, a.flights = [{ rem := 12, dst := .g 31, latch := some 0, val := 7 }] :=
  ⟨{ flights := [{ rem := 12, dst := .g 31, latch := some 0, val := 7 }] }, rfl⟩
theorem witness_ScalarFrame : ∃ t, exec addInstr (user []) = .next t := ⟨_, rfl⟩

theorem witness_Transfers : FirstTransfer (user [(1, 48)]) ∧ Executes (.sBr { br with pd := 1, disp := 1 }) false (user []) ∧
    (packetTarget 12 1).toNat % 12 = 0 ∧ (packetTarget 0x7FFFFFF8 0x3FFF).toNat % 12 = 0 ∧ Executes (.sCall { br with pd := 1, disp := 1 }) false (user []) ∧
    (user []).cur.live.collides (.g 31) 1 = false ∧
    (∀ n < 2, let f := { rr with sa := 1, dst := BitVec.ofNat 5 n, fn := BitVec.ofNat 2 n }
      Executes (.sJmp f) false (user [(1, 48)]) ∧ (jumpTarget (user [(1, 48)]) f).toNat % 12 = 0 ∧ ((user [(1, 48)]).value 1).toNat < 2 ^ 32 ∧
        (user [(1, 48)]).cur.live.collides (destOf f.dst f.nw) 1 = false) ∧
    Executes (.sRet { rr with sa := 1 }) false (user [(1, 48)]) ∧ (((user [(1, 48)]).value 1).setWidth 32 : BitVec 32).toNat % 12 = 0 := by decide +kernel
/-- A context with loop 0 armed. -/
def looping : State := base { unit [] with live := { pc := 16, lc0 := { n := 2, s := 16, e := 12, armed := true } } } iss0 []
theorem witness_Loops : (∀ c ∈ [1, 0x7FFFFFFFFFFFFFFF], let s := user [(1, BitVec.ofNat 64 c)]
      let f := { lp with sn := 1, len := 8191 }
      Executes (.sLoop f) false s ∧ FirstTransfer s ∧ s.badBody (s.afterPads s.cur.img s.iss.next) f.len.toNat = false ∧ 0 < (s.value f.sn).toInt) ∧
    (∀ c ∈ [0, 0x8000000000000000], ((user [(1, BitVec.ofNat 64 c)]).value 1).toInt ≤ 0) ∧
    Executes (.sLbrk lp) false looping ∧ FirstTransfer looping ∧ (looping.cur.live.loop false).armed = true := by decide +kernel
theorem witness_LoopTurnsBack : (looping.cur.live.loop false).endsIn 12 16 = true ∧ (looping.cur.live.loop true).armed = false ∧
    1 < (looping.cur.live.loop false).n.toNat ∧ ({ looping.cur.live.lc0 with n := 1 } : Loop).endsIn 12 16 = true := by decide +kernel
/-- A context with two branches unresolved; the older resolves. -/
def branched (mis : Bool) (held : List Held) : State := base { unit [] with snaps := [{ rem := 0, mis := mis, arch := {}, held := held }, { rem := 2, mis := false, arch := {} }] } iss0 []
theorem witness_BranchResolves : (∀ m, ∃ x rest, ((branched m []).ctx 0).snaps = x :: rest ∧ x.rem = 0 ∧ x.mis = m ∧ x.held = [] ∧ rest ≠ []) ∧
    .stream 3 ∈ ((branched true [.stream 3]).ctx 0).held := by
  refine ⟨fun m => ⟨_, _, rfl, rfl, rfl, rfl, by decide +kernel⟩, by decide +kernel⟩
/-- An MM word at `g1`, its data register 2. -/
def m12 : MM := { mm with reg := 2, sa := 1, sz := 3 }
theorem witness_LocalLoads : (∀ a ∈ [0, 0x6FFFF8], let s := user [(1, BitVec.ofNat 64 a)]
      Quiet s ∧ s.iss.slot ≤ 1 ∧ s.iss.ext.length ≤ 1 ∧ Executes (.mLd m12) false s ∧ LocalOk s (address s m12) 8 ∧ Executes (.mLda m12) false s ∧
        LocalOk s (indexed s m12) 8 ∧ s.cur.live.collides (destOf m12.reg m12.nw) 4 = false ∧ s.cur.live.collides (destOf m12.reg m12.nw) 6 = false) ∧
    (∀ z < 4, let s := user [(1, 1)]
      let f := { m12 with sz := BitVec.ofNat 2 z, off := 31, sx := true }
      LocalOk { s with iss := { iss0 with ext := [1] } } (address { s with iss := { iss0 with ext := [1] } } f) (2 ^ z) ↔ z = 0) := by decide +kernel
/-- A state whose context 0 has an unresolved branch. -/
def guessing (g : SMap W64) : State := base { unit g with snaps := [{ rem := 2, mis := false, arch := {} }] } iss0 []
theorem witness_LocalStores : (∀ a ∈ [0, 0x6FFFF8], ∀ s ∈ [user [(1, BitVec.ofNat 64 a), (2, 9)], guessing [(1, BitVec.ofNat 64 a), (2, 9)]],
      Executes (.mSt m12) false s ∧ Quiet s ∧ s.iss.ext.length ≤ 1 ∧ LocalOk s (address s m12) 8 ∧ s.mem.wf = true ∧ (s.view s.key).wf = true) ∧
    Settled (user [(1, 0)]) ∧ ¬Settled (guessing [(1, 0)]) ∧
    (∀ b ∈ [0, 15], let s := user [(1, BitVec.ofNat 64 (0x7FD000 + 8 * b)), (2, 10)]
      Settled s ∧ coreExists s.iss.core = true ∧ (address s m12).toNat = 0x7FD000 + 8 * b ∧ (s.cur.live.readG 2).toNat % 16 ≤ 10) ∧
    (let s := user [(1, 0x100), (2, 9), (3, 24)]
     let f := { m12 with off := 3 }
     Executes (.mSth f) f.g s ∧ Settled s ∧ Quiet s ∧ s.mem.wf = true ∧ coreExists s.iss.core = true ∧ (s.value f.sa).toNat < 2 ^ 32 ∧
       (s.value f.sa).toNat % 2 ^ f.sz.toNat = 0 ∧ gsaCore (s.value f.sa).toNat = s.iss.core ∧ gsaOff (s.value f.sa).toNat < 0x400000 ∧
       (s.cur.live.readG f.off.toNat).toNat < 2 ^ 32 ∧ (s.cur.live.readG f.off.toNat).toNat % 12 = 0) := by decide +kernel
/-- A unit with a result due for `g3` in a cycle, a region out of its bank, and registers. -/
def trapping : State := base { unit [] with
    live := { pc := 16, g := [(1, 1), (2, 0x4000000), (4, 0x1000000)], flights := [{ rem := 1, dst := .g 3, latch := none, val := 0 }],
              d := [(1, { count := 4, stride := 1, base := 0x3FFFFF })] } } iss0 []
theorem witness_WordTraps : let s := trapping
    Settled s ∧ s.isSuper s.key = false ∧ Executes addInstr false s ∧ s.cur.live.collides (destOf r12.dst r12.nw) 1 = true ∧
    (let s := { s with iss := { iss0 with pc := 0, next := 4 } }
     Settled s ∧ Executes (.sBr { br with disp := 0x7FFF }) false s ∧ FirstTransfer s ∧ (packetTarget s.iss.pc 0x7FFF).toNat % 12 ≠ 0 ∧
       (s.cur.live.readP 0 != false) = true) ∧
    Executes (.mLd m12) false s ∧ s.iss.ext.length ≤ 1 ∧ s.cur.live.collides (destOf m12.reg m12.nw) 4 = false ∧
    (address s m12).toNat % 8 ≠ 0 ∧ 2 ^ 23 ≤ (address s { m12 with sa := 4 }).toNat ∧
    (let x := { s with ctxs := [(0, { unit [] with live := { flights := [{ rem := 4, dst := .g 2, latch := none, val := 0 }] } })] }
     x.cur.live.collides (destOf m12.reg m12.nw) 4 = true ∧ Executes (.mLd m12) false x ∧ Settled x ∧ x.isSuper x.key = false) ∧
    (let s := { s with parts := [(0, { part0 with clusters := 1 }), (1, { part0 with clusters := 2 })] }
     let f := { m12 with sa := 2 }
     Executes (.mStg f) false s ∧ (address s f).toNat % 8 = 0 ∧ (address s f).toNat < 2 ^ 32 ∧ coreExists (gsaCore (address s f).toNat) = true ∧
       gsaOff (address s f).toNat < 0x400000 ∧ s.sameParts s.iss.core (gsaCore (address s f).toNat) = false) ∧
    Executes (.vAdd { vr with dd := 1, da := 1, db := 1 }) false s ∧
    s.meets { d := 1, count := some (s.cur.live.desc 1).count.toNat } = false ∧ (Instr.sAdd { rr with fn := 2 }).wf = false := by decide +kernel
/-- A state whose `g1` names core 1. -/
def remote : State := user [(1, 0x800100), (2, 9), (3, 24)]
theorem witness_RemoteAccesses : let s := remote
    Settled s ∧ s.iss.ext.length ≤ 1 ∧ s.msgs.all (fun m => m.id < s.nextId && m.core != s.iss.core) = true ∧ Executes (.mLdg { m12 with reg := 4 }) false s ∧
    Executes (.mStg m12) false s ∧ RemoteOk s (address s m12) 8 ∧ Executes (.mAmo { m12 with reg := 4, off := 31, nw := true, sx := true }) false s ∧
    Executes (.mSth { m12 with off := 3 }) false s ∧ RemoteOk s (s.value 1) 8 ∧ (s.cur.live.readG 3).toNat < 2 ^ 32 ∧
    (s.cur.live.readG 3).toNat % 12 = 0 := by decide +kernel
theorem witness_Atomics : Memory.wf [(0, 1), (7, 255)] = true ∧ (∀ af ∈ [0, 7], af < 8) ∧ (9 < 10 ∨ 10 + 8 ≤ 9) := by decide +kernel
/-- An access at a stage. -/
def access (k : MsgKind) (st : Stage) (home : Bool := true) (inc : Nat := 0) (a : Nat := 0x800100) : State :=
  { remote with msgs := [{ id := 0, core := 0, h := 0, kind := k, addr := a, size := 8, data := 7, sx := true, queue := 0, inc := inc, stage := st,
                           due := 0, home := home, val := 5 }], nextId := 1 }
theorem witness_AccessesMove : (∀ k ∈ [MsgKind.store, .load], let s := access k .far
      ∃ m, s.msg? 0 = some m ∧ m.id = 0 ∧ m.kind = k ∧ Quiet s ∧ s.atTarget m = true ∧ gsaOff m.addr < 0x400000 ∧ s.mem.wf = true ∧
        gsaCore m.addr ≠ m.core ∧ dieOf (gsaCore m.addr) = dieOf m.core) ∧
    (∀ af ∈ [0, 7], let s := access (.amo af 9) .far
     ∃ m, s.msg? 0 = some m ∧ m.kind = .amo af 9 ∧ Quiet s ∧ s.atTarget m = true ∧ gsaOff m.addr < 0x400000 ∧ dieOf (gsaCore m.addr) = dieOf m.core) ∧
    (∀ k ∈ [MsgKind.store, .load, .amo 0 0], ∀ st ∈ [Stage.table, .cluster], let s := access k st true 0 0x40000100
     ∃ m, s.msg? 0 = some m ∧ m.kind = k ∧ m.stage = st ∧ s.mayLeave m = true ∧ (s.die (dieOf (gsaCore m.addr))).failed = false ∧ ∀ x ∈ s.msgs, x.id = m.id) ∧
    (let s := access .store .done
     ∃ m, s.msg? 0 = some m ∧ m.stage = .done ∧ m.home = true ∧ m.kind = .store ∧ m.due ≤ s.now + 1 ∧ m.noHandler = false ∧ m.inc = (s.die (dieOf m.core)).inc.toNat) ∧
    (∀ k ∈ [MsgKind.load, .amo 6 0], let s := access k .done
     ∃ m, s.msg? 0 = some m ∧ m.stage = .done ∧ m.home = true ∧ m.kind = k ∧ m.due ≤ s.now + 1 ∧ m.inc = (s.die (dieOf m.core)).inc.toNat ∧
       s.nextInQueue m = true ∧ has s.ctxs m.dest = true) ∧
    (∀ k ∈ [MsgKind.load, .amo 6 0], let s := access k .done true 3
     ∃ m, s.msg? 0 = some m ∧ m.stage = .done ∧ m.home = true ∧ m.kind = k ∧ m.due ≤ s.now + 1 ∧ m.inc ≠ (s.die (dieOf m.core)).inc.toNat) := by
  refine ⟨?_, ?_, ?_, ⟨_, rfl, by decide +kernel⟩, ?_, ?_⟩
  · intro k hk
    fin_cases hk <;> exact ⟨_, rfl, by decide +kernel⟩
  · intro k hk
    fin_cases hk <;> exact ⟨_, rfl, by decide +kernel⟩
  · intro k hk st hs
    fin_cases hk <;> fin_cases hs <;> exact ⟨_, rfl, by decide +kernel⟩
  all_goals (intro k hk; fin_cases hk <;> exact ⟨_, rfl, by decide +kernel⟩)
/-- A context of core 1 set aside for handlers. -/
def handling (s : State) (xs : List Arrival) : State :=
  { s with ctxs := [(0, unit []), (7, { role := .supervisor, halted := true }), (8, { unit [] with work := some { hset := some 1 } }),
                    (9, { role := .dormant, asg := some 8 })], cores := [(1, { arrivals := xs })] }
theorem witness_Handlers : (let s := handling (access (.sth 24) .far) []
    ∃ m, s.msg? 0 = some m ∧ Quiet s ∧ m.kind = .sth 24 ∧ s.sthReady m = true ∧ gsaOff m.addr < 0x400000 ∧ gsaCore m.addr ≠ m.core ∧
      dieOf (gsaCore m.addr) = dieOf m.core ∧ s.mem.wf = true ∧
      m.paid = false ∧
      ((s.handlerCtxs (gsaCore m.addr)).filter s.assignerRuns).find? (fun k => (s.ctx k).role == .dormant) = some 9 ∧ (s.core (gsaCore m.addr)).arrivals = []) ∧
    (let a : State := access (.sth 24) .far true 0 0x100
     let s : State := {
       a with
       msgs := a.msgs.map (fun m => { m with paid := true }),
       ctxs := [(0, { unit [] with work := some { hset := some 1 } }), (1, { role := .dormant, asg := some 0 })] }
     ∃ m, s.msg? 0 = some m ∧ m.kind = .sth 24 ∧ m.paid = true ∧ gsaCore m.addr = m.core ∧ s.sthReleased m = true ∧
       ((s.handlerCtxs m.core).filter s.assignerRuns).find? (fun k => (s.ctx k).role == .dormant) = some 1 ∧ (s.core m.core).arrivals = []) ∧
    (∀ n ∈ [0, 1, 15, 16], ∀ gone, let a : Arrival := { pc := 24, off := 0x100, sender := 0 }
     let h := handling (access (.sth 24) .far) (List.replicate n a)
     let s : State := { h with ctxs := if gone then h.ctxs.filter (fun e => e.1 != 9) else put h.ctxs 9 { role := .handler, asg := some 8 } }
     ∃ m, s.msg? 0 = some m ∧ Quiet s ∧ m.kind = .sth 24 ∧ s.sthReady m = true ∧ gsaOff m.addr < 0x400000 ∧ gsaCore m.addr ≠ m.core ∧ m.paid = false ∧
       dieOf (gsaCore m.addr) = dieOf m.core ∧ s.mem.wf = true ∧ (s.core (gsaCore m.addr)).arrivals.length = n ∧
       ((s.handlerCtxs (gsaCore m.addr)).filter s.assignerRuns = [] ↔ gone = true) ∧
       ∀ k ∈ (s.handlerCtxs (gsaCore m.addr)).filter s.assignerRuns, (s.ctx k).role ≠ .dormant) ∧
    (let s := handling (access (.sth 24) .far) [{ pc := 24, off := 0x100, sender := 0 }]
     ∃ m, s.msg? 0 = some m ∧ s.sthReady m = true ∧ (s.handlerCtxs (gsaCore m.addr)).filter s.assignerRuns ≠ [] ∧ (s.core (gsaCore m.addr)).arrivals ≠ []) ∧
    (let s := handling remote [{ pc := 24, off := 0x100, sender := 0 }]
     (∃ x xs, (s.core 1).arrivals = x :: xs) ∧ (s.handlerCtxs 1).find? (fun k => (s.ctx k).role == .dormant) = some 9) := by
  refine ⟨⟨_, rfl, by decide +kernel⟩, ⟨_, rfl, by decide +kernel⟩, ?_, ⟨_, rfl, by decide +kernel⟩, ⟨_, _, rfl⟩, by decide +kernel⟩
  intro n hn gone
  fin_cases hn <;> cases gone <;> exact ⟨_, rfl, by decide +kernel⟩
/-- A unit with region descriptors; bank 1 of its core holds I32, bank 2 N8, bank 3 F4 records, bank 6 raw bytes, the others FP32. -/
def vec (ds : SMap Desc) (pat : SMap Byte := []) : State :=
  { base { unit [] with live := { pc := 16, d := ds }, xpat := pat } iss0 [] with cores := [(0, { fmt := [(1, 3), (2, 6), (3, 7), (6, 10)] })] }
/-- A region of unit stride. -/
def rgn (n : Nat) (base : BitVec 23) : Desc := { count := BitVec.ofNat 16 n, stride := 1, base := base }
/-- Operands `d1`, `d2`, `d3`, `d4`. -/
def v123 : VR := { vr with dd := 1, da := 2, db := 3 }
/-- Operands `d1`, `d2`, and a scalar in `g1`. -/
def s12 : VS := { vs with dd := 1, da := 2, ss := 1 }
/-- Four regions of FP32. -/
def floats (n : Nat) : State := vec [(1, rgn n 0x100), (2, rgn n 0x1000), (3, rgn n 0x2000), (4, rgn n 0x3000)]
/-- Four regions of I32. -/
def ints (n : Nat) : State := vec [(1, rgn n 0x40000), (2, rgn n 0x41000), (3, rgn n 0x42000), (4, rgn n 0x43000)]

theorem ready_vec (ds : SMap Desc) (pat : SMap Byte) : StreamReady (vec ds pat) :=
  ⟨by rfl, by rfl, fun _ => by rfl⟩
theorem witness_VectorWordsStart : (∀ n ∈ [1, 1024], let s := floats n
      region s 1 (some n) ∧ region s 2 (some n) ∧ (s.cur.live.desc 2).count.toNat = n ∧ region s 3 (some n) ∧ region s 4 (some n) ∧
        (∀ k ∈ ([.vAbs, .vNeg, .vCvt] : List (VR → Instr)), Executes (k { v123 with db := 0 }) false s) ∧
        (∀ k ∈ ([.vAdd, .vSub, .vMul, .vMax, .vMin, .vCmp] : List (VR → Instr)), Executes (k v123) false s) ∧ Executes (.vRdot { v123 with dd := 0 }) false s ∧
        (∀ k ∈ ([.vFma, .vClip, .vSel] : List (VR → Instr)), Executes (k { v123 with dc := 4 }) false s) ∧
        region s 2 none ∧ (∀ k ∈ ([.vRsum, .vRmax, .vRmin] : List (VR → Instr)), Executes (k { vr with da := 2 }) false s) ∧
        Executes (.vNfck { vr with da := 2 }) false s ∧ (vr.md.getLsbD 0 = true → False) ∧ Executes (.vNfck { vr with dd := 1, da := 2, md := 1 }) false s ∧
        s.meets (s.copyNeed 1 2 n) = true ∧ s.meets (s.copyNeed 2 1 n) = true ∧ Executes (.vCpy { v123 with db := 0 }) false s ∧
        (∀ k ∈ ([.vScal, .vAxpy] : List (VS → Instr)), Executes (k s12) false s) ∧ region s 1 none ∧
        (∀ k ∈ ([.vFill, .vIota] : List (VS → Instr)), Executes (k { s12 with da := 0 }) false s)) ∧
    (∀ n ∈ [1, 1024], let s := ints n
      let same (x : Nat) : Bool := isIntFmt x && eltSize x == eltSize (s.fmtOfDesc (s.cur.live.desc 2))
      region s 1 (some n) same ∧ region s 2 (some n) same ∧ region s 3 (some n) same ∧
        (∀ k ∈ ([.vAnd, .vOr, .vXor] : List (VR → Instr)), Executes (k v123) false s) ∧
        s.meets (s.copyNeed 1 2 n) = true ∧ s.meets (s.copyNeed 2 1 n) = true ∧ (∀ k ∈ ([.vShl, .vShr] : List (VS → Instr)), Executes (k s12) false s)) ∧
    -- copies of records, raw bytes and unlike formats; indexed words whose counts differ
    (∀ x ∈ ([(0xC0000, 0xC0440, 32), (0x180001, 0xC0440, 32), (0x180000, 0x181000, 5), (0x180000, 0x100, 5), (0x100, 0x80000, 5)] : List (Nat × Nat × Nat)),
      let s := vec [(1, rgn x.2.2 (BitVec.ofNat 23 x.1)), (2, rgn x.2.2 (BitVec.ofNat 23 x.2.1))]
      s.meets (s.copyNeed 1 2 x.2.2) = true ∧ s.meets (s.copyNeed 2 1 x.2.2) = true ∧ Executes (.vCpy { v123 with db := 0 }) false s) ∧
    (let s := vec [(1, rgn 7 0x100), (2, rgn 4 0x1000), (3, rgn 4 0x40000), (4, rgn 4 0x2000)]
     region s 2 none ∧ region s 3 (some 4) isIntFmt ∧ region s 4 (some 4) ∧ region s 1 none (fun x => !isRawFmt x && !isRecFmt x) ∧
       Executes (.vPerm { v123 with dd := 4 }) false s ∧ Executes (.vScat v123) false s ∧ region s 1 none ∧ region s 3 none isIntFmt ∧
       Executes (.vGath { v123 with dd := 4, da := 1 }) false s) := by
  refine ⟨?_, ?_, ?_, ?_⟩ <;> decide +kernel
theorem witness_Records : (∀ x ∈ [(0, 2048, 1), (1, 512, 0), (2, 1040, 0)], let s := vec [(1, rgn x.2.1 0x80000)]
      record s 1 (some x.2.1) ∧ Executes (.vSkinit { vs with dd := 1, ss := BitVec.ofNat 6 x.2.2, md := BitVec.ofNat 6 x.1 }) false s) ∧
    (let s := vec [(1, rgn 2048 0x80000), (2, rgn 2048 0x90000), (3, rgn 4 0x100)]
     record s 1 (some 2048) ∧ region s 3 none ∧ Executes (.vSkq { vr with dd := 1, da := 3 }) false s ∧
       record s 1 (some (s.cur.live.desc 2).count.toNat) ∧ record s 2 none ∧ apartOrSame (s.cur.live.desc 2) (s.cur.live.desc 1) = true ∧
       Executes (.vSkm { vr with dd := 1, da := 2 }) false s ∧ record s 2 (some 2048) ∧ Executes (.vSkqq { vs with da := 2, ss := 1 }) false s) ∧
    (let s := vec [(1, rgn 512 0x80000), (2, rgn 4 0x90000), (3, rgn 124 0x40000)]
     record s 1 (some 512) ∧ region s 2 none (fun x => isIntFmt x && decide (eltSize x ≤ 2)) ∧ Executes (.vSkh { vr with dd := 1, da := 2 }) false s ∧
       s.meets { d := 3, count := none, fmt := fun x => x == 3,
                 also := fun d => d.count.toNat % 2 == 0 && decide (2 ≤ d.count.toNat) && decide (d.count.toNat ≤ 124) } = true ∧
       Executes (.vSktop { vr with dd := 3, da := 1 }) false s) ∧
    (let s := vec [(1, rgn 1040 0x80000), (2, rgn 4 0x40000)]
     record s 1 (some 1040) ∧ region s 2 none (fun x => isIntFmt x || x == 0) ∧ Executes (.vSkd { vr with dd := 1, da := 2 }) false s ∧
       Executes (.vSkest { vr with da := 1 }) false s) := by decide +kernel
theorem witness_OtherStreamsStart : (let s := vec [(1, rgn 4 0x80000), (2, rgn 4 0x100), (3, rgn 32 0x90000)]
     region s 1 (some 4) (· == 6) ∧ region s 2 none ∧ region s 3 (some (8 * 4)) (· == 6) ∧ Executes (.vPgen v123) false s) ∧
    (let s := vec [(1, rgn 32 0xC0000), (2, rgn 32 0xC0440)]
     region s 1 (some 32) (fun x => isRecFmt x && x == s.fmtOfDesc (s.cur.live.desc 2)) ∧ region s 2 none isRecFmt ∧ Executes (.vRscale s12) false s) ∧
    (∀ n ∈ [1, 1024], let s := floats n
      region s 1 (some n) ∧ region s 2 (some n) ∧ (∀ k ∈ functionWords, Executes (k { s12 with ss := 0 }) false s)) ∧
    (let s := vec [(1, rgn 4 0x100), (2, rgn 4 0x1000), (3, rgn 64 0x80000)] ((List.range 64).map (fun n => (n, BitVec.ofNat 8 n)))
     region s 1 (some 4) (fun x => x == s.fmtOfDesc (s.cur.live.desc 2) && !isRecFmt x) ∧ region s 2 none (fun x => !isRecFmt x) ∧
       (∀ k ∈ ([.xRot, .xBc, .xTr, .xRev] : List (VR → Instr)), Executes (k { vr with dd := 1, da := 2 }) false s) ∧
       patternCollides s.cur.pattern = false ∧ Executes (.xApp { vr with dd := 1, da := 2 }) false s ∧
       region s 3 (some 64) (fun x => x == 5 || x == 6 || isRawFmt x) ∧ Executes (.xLd { vr with da := 3 }) false s) := by decide +kernel
theorem witness_SpecialFunctions : (∀ k ∈ functionWords, Executes (k { vs with ss := 1, md := 1 }) false (floats 1)) ∧ Settled (floats 1) := by decide +kernel
theorem witness_Descriptors : (∀ d ∈ [0, 15], Executes (.vDset { vs with dd := BitVec.ofNat 4 d, ss := 1 }) false (floats 1)) ∧
    (floats 1).iss.dsets.contains 15 = false ∧ Executes (.vDget { vs with da := 15 }) false (floats 1) ∧ Settled (floats 1) ∧
    Executes (.vRstat { vs with ss := 55 }) false (floats 1) ∧ (floats 1).cmds.all (fun c => c.flags == 0) = true := by decide +kernel
/-- A streaming command about to complete. -/
def ending (held : Bool) : State :=
  { user [] with cmds := [{ id := 1, core := 0, h := 0, kind := .stream 0 { word := .vAdd v123 } (some (7, [])), tok := none, st := .running, rem := 1,
                            out := [{ addr := 0x100, bytes := [1, 2] }], flags := 3, held := held }], nextId := 2 }
theorem witness_StreamsComplete : ∀ held, let s := ending held
    ∃ c sl j v, s.cmd? 1 = some c ∧ c.id = 1 ∧ c.kind = .stream sl j (some (v, [])) ∧ c.st = .running ∧ c.rem ≤ 1 ∧ c.held = held ∧
      (s.cmds.all (fun x => x.id == c.id || x.out.isEmpty)) = true ∧ s.patternWaits c = false ∧
      (let t : State := { s with ctxs := [(0, { unit [] with heldFor := 2 })], cmds := [{ c with kind := .stream 0 { word := .xLd vr } (some (7, [])) }] }
       ∃ x, t.cmd? 1 = some x ∧ x.st = .running ∧ x.rem ≤ 1 ∧ t.patternWaits x = true) :=
  fun held => ⟨_, _, _, _, rfl, rfl, rfl, rfl, Nat.le_refl 1, rfl, by rfl, by rfl, _, rfl, rfl, Nat.le_refl 1, by rfl⟩
theorem witness_IntegerCommands : let m : Memory := Memory.writeN (Memory.writeN [] 0x100 [255, 255, 255, 127, 1]) 0x200 [255, 255, 255, 255]
    let x (k : Nat) : BitVec 32 := if k = 0 then 0x7FFFFFFF else 1
    (∀ k < 2, IsLoaded m (elemAt 0x100 1 k) 4 false ((x k).setWidth 64)) ∧
      ∀ k < 2, IsLoaded m (elemAt 0x200 (-64) k) 4 false (((if k = 0 then 0xFFFFFFFF else 0x7FFFFFFF : BitVec 32)).setWidth 64) := by
  refine ⟨?_, ?_⟩ <;> (unfold IsLoaded; decide +kernel)
/-- A number as little-endian bytes. -/
def le (n v : Nat) : List Byte := bytesOf n v
/-- One byte each. -/
def by1 (xs : List Nat) : List Byte := xs.map (BitVec.ofNat 8)
/-- A T, A, Q or P word with a token: its record at `g1`. -/
def q1 (sub : BitVec 10 := 0) : TQ := { tq with sp := 1, k := 2, kw := true, sub := sub }
/-- A unit with its record at local offset 0x100, and tables at 0x200, 0x300 and 0x400; bank 2 holds N8, bank 3 F4 records, bank 4 I8, bank 5 I16;
pair 31 is its partition's. -/
def commanding (rec : List Byte) (t1 t2 t3 : List Byte := []) : State :=
  { user [(1, 0x100)] (Memory.writeN (Memory.writeN (Memory.writeN (Memory.writeN [] 0x100 rec) 0x200 t1) 0x300 t2) 0x400 t3) with
    cores := [(0, { fmt := [(2, 6), (3, 7), (4, 5), (5, 4)] })], owners := [(31, 0)], now := 100 }

/-- A product record. -/
def productRec (grouped : Bool) (rows : Nat) : List Byte :=
  le 4 0xC0000 ++ le 4 34 ++ by1 [rows, 64, 1, 0, 7, 0, if grouped then 1 else 0, 0] ++ le 4 0 ++ le 4 0 ++
    (if grouped then le 4 0x200 ++ le 4 0x300 else le 8 0)
/-- A tile-move record. -/
def moveRec (loc pitch rows : Nat) : List Byte := le 4 loc ++ le 4 pitch ++ by1 [rows, 1, 0, 0, 0, 0, 0, 0]
/-- Products whose rows break the region rule. -/
theorem witness_MatrixTraps : (∀ g ∈ [false, true], let s := commanding (le 4 0xC0004 ++ (productRec g 1).drop 4) (le 4 1) (le 4 0)
      let b := recordBytes s 0x100 32
      FindsRecord s (q1 764) 0x100 ∧ Executes (if g then .tMmg (q1 764) else .tMm (q1 764)) false s ∧ s.isSuper s.key = false ∧ productOk g b = true ∧
        aRowsOk (s.fmtOf s.key (fld b 0 4 / 0x40000)) (fld b 0 4) (fld b 4 4) (fld b 8 1) (fld b 10 1) = false ∧
        (g = true → badGroup b (recordBytes s (fld b 0x18 4) (4 * fld b 14 1)) (recordBytes s (fld b 0x1C 4) (4 * fld b 14 1)) = none)) := by decide +kernel
theorem witness_MatrixWords : (∀ rows ∈ [1, 64], let s := commanding (productRec false rows)
      let b := recordBytes s 0x100 32
      FindsRecord s (q1 764) 0x100 ∧ Executes (.tMm (q1 764)) false s ∧ productOk false b = true ∧
        aRowsOk (s.fmtOf s.key (fld b 0 4 / 0x40000)) (fld b 0 4) (fld b 4 4) (fld b 8 1) (fld b 10 1) = true) ∧
    productOk false (recordBytes (commanding []) 0x100 32) = false ∧ productOk true (recordBytes (commanding []) 0x100 32) = false ∧
    (∀ n ∈ [1, 0xFFFFFFFF], let s := commanding (productRec true 1) (le 4 n) (le 4 0)
      let b := recordBytes s 0x100 32
      FindsRecord s (q1 764) 0x100 ∧ Executes (.tMmg (q1 764)) false s ∧ productOk true b = true ∧ tableOk (fld b 0x18 4) (fld b 14 1) 4 4 = true ∧
        tableOk (fld b 0x1C 4) (fld b 14 1) 4 4 = true ∧
        badGroup b (recordBytes s (fld b 0x18 4) (4 * fld b 14 1)) (recordBytes s (fld b 0x1C 4) (4 * fld b 14 1)) = (if n = 1 then none else some 0) ∧
        aRowsOk (s.fmtOf s.key (fld b 0 4 / 0x40000)) (fld b 0 4) (fld b 4 4) (fld b 8 1) (fld b 10 1) = true) ∧
    (∀ x ∈ ([(.ldb, .tLdb (q1 764), 0x1000, 0, 64), (.zld, .tZld (q1 764), 0x1000, 4, 64), (.zst, .tZst (q1 764), 0x1000, 4, 1),
        (.zadd, .tZadd (q1 764), 191, 0, 1)] : List (TileOp × Instr × Nat × Nat × Nat)), let s := commanding (moveRec x.2.2.1 x.2.2.2.1 x.2.2.2.2)
      let b := recordBytes s 0x100 16
      FindsRecord s (q1 764) 0x100 ∧ Executes x.2.1 false s ∧ moveOk x.1 b = true ∧ moveRowsOk x.1 (s.fmtOf s.key (fld b 0 4 / 0x40000)) b = true ∧
        moveOk x.1 (recordBytes (commanding []) 0x100 16) = false) ∧
    (let s := commanding (moveRec 0x1001 0 1)
     let b := recordBytes s 0x100 16
     moveOk .ldb b = true ∧ moveRowsOk .ldb (s.fmtOf s.key (fld b 0 4 / 0x40000)) b = false ∧ s.isSuper s.key = false) ∧
    Executes (.tZclr { q1 764 with sp := 0 }) false (commanding []) ∧
    (∀ v ∈ [0x5555555555555555, 3], recordBytes (commanding (le 8 v)) 0x100 8 = bytesOf 8 (BitVec.ofNat 64 v).toNat ∧
      FindsRecord (commanding (le 8 v)) { q1 with kw := false, k := 0 } 0x100 ∧ Executes (.tCop { q1 with kw := false, k := 0 }) false (commanding (le 8 v))) := by
  decide +kernel

/-- A window of one row and two columns. -/
def windowRec : List Byte := le 2 511 ++ le 2 510 ++ le 2 1 ++ le 2 2
/-- A read or update record. -/
def arrayRec (upd : Bool) : List Byte :=
  le 4 0x1000 ++ le 4 0x2000 ++ le 4 0x100 ++ le 4 0x100 ++ windowRec ++ le 4 0x3F800000 ++ le 4 0x3F800000 ++ le 2 3 ++ by1 [0, if upd then 32 else 0] ++
    (if upd then le 4 0x80000 ++ le 4 0x90000 ++ le 4 8 else le 4 50 ++ le 8 0)
/-- An A word of pair 31 with mode `md`. -/
def a31 (md : Nat) : TQ := q1 (BitVec.ofNat 10 (31 * 32 + md))
theorem witness_ArrayWords : (let s := { commanding [] with owners := [] }
     Settled s ∧ (s.apown s.iss.core).testBit (pairNamed s (a31 0)) = false ∧ s.isSuper s.key = false ∧
       (∀ k ∈ ([.aFwd, .aBwd, .aUpd, .aXfer, .aCkpt, .aSymw, .aSymr, .aProg, .aScl] : List (TQ → Instr)), Executes (k (a31 1)) false s ∨ Executes (k (a31 0)) false s) ∧
       Executes (.aSeed { a31 0 with kw := false, k := 0 }) false s ∧ Executes (.aStat { a31 1 with kw := false, k := 0, sp := 0 }) false s) ∧
    (let s := commanding []
     (s.apown s.iss.core).testBit (pairNamed s (a31 0)) = true ∧ FindsRecord s (a31 0) 0x100 ∧ readOk (recordBytes s 0x100 48) = false ∧
       updOk (recordBytes s 0x100 48) = false ∧ xferOk (recordBytes s 0x100 16) = false ∧ symOk (recordBytes s 0x100 16) = false ∧
       progOk (recordBytes s 0x100 24) = false ∧ ckptOk (recordBytes s 0x100 32) = false ∧
       sclOk (recordBytes (commanding (le 4 0x7F800000)) 0x100 16) = false ∧ sclOk (recordBytes s 0x100 16) = true ∧ Executes (.aScl (a31 0)) false s ∧
       Executes (.aSeed { a31 0 with kw := false, k := 0 }) false s ∧ s.cmds.all (fun c => c.id < s.nextId) = true ∧
       (∀ md < 4, Executes (.aStat { a31 md with kw := false, k := 0, sp := 0 }) false s)) ∧
    (let s := commanding (arrayRec false)
     let b := recordBytes s 0x100 48
     readOk b = true ∧ ∀ bwd, readBad bwd b (fmtsOf s.bankFmts) = none) ∧
    (let s := commanding (arrayRec true)
     let b := recordBytes s 0x100 48
     updOk b = true ∧ ∀ ex, updBad ex b (fmtsOf s.bankFmts) = none) ∧
    xferOk (recordBytes (commanding windowRec) 0x100 16) = true ∧
    (let s := commanding (le 4 0x100000 ++ le 2 511 ++ le 2 1)
     symOk (recordBytes s 0x100 16) = true ∧ symBad (recordBytes s 0x100 16) (fmtsOf s.bankFmts) = none) ∧
    (let s := commanding (le 4 0x100000 ++ le 4 0x140000 ++ windowRec)
     progOk (recordBytes s 0x100 24) = true ∧ (∀ sel < 4, progBad sel (recordBytes s 0x100 24) (fmtsOf s.bankFmts) = none) ∧ Executes (.aProg (a31 1)) false s) ∧
    ckptOk (recordBytes (commanding (le 8 0x1000 ++ le 4 8 ++ le 4 6 ++ windowRec)) 0x100 32) = true := by decide +kernel
/-- A grouped record with one group. -/
def groupedRec : List Byte :=
  le 4 0x1000 ++ le 4 0x2000 ++ le 4 0x100 ++ le 4 0x100 ++ le 4 0x200 ++ le 4 0x300 ++ le 4 0x400
/-- A group of pair 31. -/
def groupRec : List Byte := by1 [31, 0] ++ windowRec ++ le 2 0 ++ le 4 0x3F800000 ++ le 4 0x3F800000 ++ le 4 0
theorem witness_GroupedArrayWords : ∀ x ∈ ([(.fwd, .aGfwd q1, 0), (.bwd, .aGbwd q1, 0), (.upd, .aGupd q1, 32)] : List (Grouped × Instr × Nat)),
    ∀ n ∈ [1, 0xFFFFFFFF], let s := commanding (groupedRec ++ by1 [1, 0, x.2.2, 0] ++ le 16 0) (le 4 n) (le 4 5) groupRec
      let b := recordBytes s 0x100 48
      let recs := [b, s.bankFmts, recordBytes s (fld b 0x10 4) 4, recordBytes s (fld b 0x14 4) 4, recordBytes s (fld b 0x18 4) 24]
      FindsRecord s q1 0x100 ∧ Executes x.2.1 false s ∧ fld b 0x1C 1 = 1 ∧ groupedOk x.1 b = true ∧ tableOk (fld b 0x10 4) 1 4 4 = true ∧
        tableOk (fld b 0x14 4) 1 4 4 = true ∧ tableOk (fld b 0x18 4) 1 24 8 = true ∧ s.badEntry x.1 1 recs = (if n = 1 then none else some 0) ∧
        (n = 1 → groupedBad x.1 (s.groupedEntries q1 x.1 recs) = none ∧ s.groupedEntries q1 x.1 recs ≠ []) ∧
        groupedOk x.1 (recordBytes (commanding []) 0x100 48) = false := by decide +kernel

/-- A copy record within bank 0: `n` transfers of 4 elements. -/
def copyRecord (n : Nat) : List Byte :=
  le 8 0x1000 ++ le 8 0x2000 ++ le 4 0 ++ by1 [0, 0, 0, 0] ++ le 4 4 ++ le 4 0 ++
    (le 4 n ++ le 4 16 ++ le 4 16) ++ (List.replicate 5 (le 4 1 ++ le 8 0)).flatten ++ le 8 0
/-- A sort record of 4 tokens and 2 experts. -/
def sortRecord : List Byte :=
  le 4 0x1000 ++ le 4 4 ++ le 2 2 ++ by1 [0, 0] ++ le 4 0 ++ le 4 0 ++ le 4 0x2000 ++ le 4 0x3000 ++ le 4 0x4000 ++ le 4 0x5000 ++ le 4 0x6000 ++ le 24 0
theorem witness_CopyAndSortWords : (∀ n < 2, let s := commanding (copyRecord n)
      let b := recordBytes s 0x100 112
      FindsRecord s q1 0x100 ∧ Executes (.qCopy q1) false s ∧ copyOk b = true ∧ s.copyTrap s.iss.core (copyOf b (s.copyFmts (copyOf b []))) = none ∧
        (if n = 0 then fld b 0x20 4 = 0 else ∀ l < 6, fld b (0x20 + 12 * l) 4 ≠ 0)) ∧
    copyOk (recordBytes (commanding []) 0x100 112) = false ∧
    (let s := commanding ((copyRecord 0).take 0x15 ++ by1 [2] ++ (copyRecord 0).drop 0x16)
     FindsRecord s q1 0x100 ∧ copyOk (recordBytes s 0x100 112) = true ∧ fld (recordBytes s 0x100 112) 0x15 1 = 2 ∧
       fld (recordBytes s 0x100 112) 0x20 4 = 0) ∧
    (let s := commanding sortRecord
     FindsRecord s q1 0x100 ∧ Executes (.qSortc q1) false s ∧ sortOk (recordBytes s 0x100 64) = true) ∧
    sortOk (recordBytes (commanding []) 0x100 64) = false := by decide +kernel
/-- A unit with one command. -/
def withCmd (k : CmdKind) (st : CmdSt := .running) (rem : Nat := 1) (done : Nat := 0) (fault : Option Nat := none) : State :=
  { commanding [] with cmds := [{ id := 4, core := 0, h := 0, kind := k, tok := some 7, st := st, rem := rem, done := done, fault := fault,
                                  out := [], flags := 3 }], nextId := 5 }
/-- A product of 64 rows and 30 chunks in tile 191. -/
def product64 : Product :=
  { abase := 0xC0000, apitch := 34, afmt := 7, ncols := 64, kch := 30, ob := 0, bfmt := 7, z := 191, acc := true, pat := 0, groups := [(0, 0, 64)], grouped := false }
/-- A tile move. -/
def move64 (op : TileOp) : TileMove := { op := op, z := 191, loc := 3, pitch := 0, mrows := 64, ncols := 64, fmt := 0 }
/-- An array entry. -/
def entry31 (op : ArrayOp) (st : EntrySt) (done : Nat := 0) : AEntry :=
  { grp := 7, pair := 31, row0 := 511, col0 := 510, nrows := 1, ncols := 2, ntok := 1, lbnd := 5, issued := 3, st := st, rem := 1, done := done, op := op }
/-- A copy. -/
def copy1 : CopyRec := copyOf (copyRecord 1) []
theorem witness_CommandsRun : (∀ k ∈ [CmdKind.product product64, .move (move64 .zclr), .move (move64 .zadd)],
      let s := withCmd k .queued
      ∃ c, coreExists 0 = true ∧ s.tHead 0 = some c ∧ s.tMayStart c = true ∧ s.cmd? c.id = some c ∧ c.done = 0) ∧
    (∃ c, (withCmd (.product product64) .running 76).cmd? 4 = some c ∧ c.kind = .product product64 ∧ c.st = .running ∧ product64.fetched = false ∧
      0 < product64.kch ∧ product64.groups = [(0, 0, 64)] ∧ c.rem ≤ 64 + 12) ∧
    (∀ k ∈ [CmdKind.product product64, .move (move64 .zst), .array [entry31 (.xfer true) .running 2], .sort (sortOf sortRecord), .tlbi none],
      let s := withCmd k .running 1 1
      ∃ c, s.cmd? 4 = some c ∧ c.id = 4 ∧ Quiet { s with cmds := s.cmds.filter (fun x => x.id != c.id) } ∧ c.st = .running ∧ c.rem ≤ 1 ∧ c.kind = k ∧ c.done = 1 ∧
        c.out = [] ∧ c.fault = none) ∧
    (let s := withCmd (.array [entry31 (.seed 5) .queued]) .queued
     s.aFree 0 7 = true ∧ ∃ c n e, s.aChoice 0 7 = some (c, n, e) ∧ s.cmd? c.id = some c ∧ c.entries[n]? = some e) ∧
    (let s := withCmd (.array [entry31 (.read false 0 false 0x1000 0x2000 0 0 0 0) .queued]) .queued
     ∃ c e, s.cmd? 4 = some c ∧ c.id = 4 ∧ c.entries[0]? = some e ∧ e.isRead = true ∧ e.st = .queued ∧ e.expired = false ∧ 0 < e.lbnd ∧ e.issued + e.lbnd ≤ s.now) ∧
    (entry31 (.xfer true) .running 2).steps.1 ≤ 2 ∧
    (let s := withCmd (.copy copy1 [9])
     ∃ c, s.cmd? 4 = some c ∧ c.id = 4 ∧ c.kind = .copy copy1 [9] ∧ (s.waitsFor [9]) = [] ∧ s.parked c = false) ∧
    (let s := withCmd (.copy copy1 []) .running 1 4
     ∃ c, s.cmd? 4 = some c ∧ c.id = 4 ∧ c.kind = .copy copy1 [] ∧ c.held = false ∧ s.parked c = false ∧ c.after = [] ∧ c.fault = none ∧ c.rem ≤ 1 ∧
       c.done = copy1.transfers * copy1.tlen ∧ copy1.tlen ≠ 0 ∧ copy1.dspc ≠ 2 ∧ { copy1 with dspc := 2 }.obTargets = [(0, 0)] ∧ Quiet { s with cmds := s.cmds.filter (fun x => x.id != c.id) }) ∧
    (let s := withCmd (.copy copy1 []) .running 1 0 (some 0x1234)
     ∃ c, s.cmd? 4 = some c ∧ c.id = 4 ∧ c.fault = some 0x1234 ∧ Quiet { s with cmds := s.cmds.filter (fun x => x.id != c.id) } ∧
       (s.die (dieOf c.core)).events < 64 ∧ 64 ≤ (({ evq := List.replicate 64 { time := 0, cls := 1, core := 0, h := 0, cause := 7, widx := 255, src := 1, tval := 0 } } : Die)).events) := by
  refine ⟨?_, ⟨_, rfl, by decide +kernel⟩, ?_, ⟨by decide +kernel, _, _, _, rfl, rfl, rfl⟩, ⟨_, _, rfl, rfl, rfl, by decide +kernel⟩, by decide +kernel,
    ⟨_, rfl, by decide +kernel⟩, ⟨_, rfl, by decide +kernel⟩, ⟨_, rfl, by decide +kernel⟩⟩
  · intro k hk
    fin_cases hk <;> exact ⟨_, by decide +kernel, rfl, by decide +kernel, rfl, rfl⟩
  · intro k hk
    fin_cases hk <;> exact ⟨_, rfl, rfl, by decide +kernel, rfl, Nat.le_refl 1, rfl, rfl, rfl, rfl⟩
theorem witness_TileMoves : coreExists 479 = true ∧ 191 < 192 ∧ (commanding []).mem.wf = true ∧ (move64 .zclr).op = .zclr ∧ (move64 .zadd).op = .zadd ∧
    (move64 .zclr).z = 191 ∧ (move64 .zadd).z = 191 ∧ (move64 .zadd).ncols ≤ 64 := by decide +kernel
theorem witness_ArraySteps : (∀ rst, let e := entry31 (.xfer rst) .running
      e.op = .xfer rst ∧ e.row0 + e.nrows ≤ 512 ∧ e.col0 + e.ncols ≤ 512 ∧ 1 < e.ncols ∧ (e.row0 ≤ 511 ∧ 511 < e.row0 + e.nrows ∧ 511 = e.col0 + 1)) ∧
    (entry31 (.scl 1 2 3) .running).op = .scl 1 2 3 ∧ (entry31 (.seed 5) .running).op = .seed 5 ∧ (0 ≠ 1 ∨ 30 ≠ 31) := by decide +kernel
theorem witness_HeadersAndExtensions : let s := { user [] with iss := { iss0 with word := 0 } }
    Settled s ∧ ({ hd with y := true } : HDR).y = true ∧ hd.y = false ∧ (s.core s.iss.core).primary = s.iss.h := by decide +kernel
/-- A Q word without a token. -/
def q0 (sub : BitVec 10 := 0) : TQ := { tq with sub := sub }
theorem witness_TokenWords : let s := user []
    Settled s ∧ Executes (.qTokst { tq with k := 7 }) false s ∧ (s.cur.token 7).cnt < 2 ^ 16 ∧ Executes (.qKclr (q0 255)) false s ∧
    Executes (.qWaitk (q0 1023)) false s ∧ Executes (.qOffer (q0 2)) false s := by decide +kernel
/-- A context that waits for tokens 0 and 7, of which 7 is signalled. -/
def waiting (any : Bool) (err : Bool) (n : Nat) : State :=
  base { unit [] with tok := [(0, { cnt := n }), (7, { err := err })], waitk := some { mask := 0x81, any := any, chk := true } } iss0 []
theorem witness_TokenWaits : (∀ any err, ∀ n < 2, ∃ w, ((waiting any err n).ctx 0).waitk = some w ∧ w.mask < 256 ∧ w.any = any ∧ w.mask ≠ 0 ∧ w.chk = true) ∧
    (∀ err, ∃ n < 8, Nat.testBit 0x81 n = true ∧ ((((waiting true err 1).ctx 0).token n).cnt == 0) = true) ∧
    (¬∀ n < 8, Nat.testBit 0x81 n = true → ((((waiting false false 1).ctx 0).token n).cnt == 0) = true) ∧
    (∀ n < 8, Nat.testBit 0x81 n = true → ((((waiting false false 0).ctx 0).token n).cnt == 0) = true) ∧
    ((((waiting true true 1).ctx 0).token 7).err = true) ∧ ((waiting true true 1).ctx 0).rest = [] := by
  refine ⟨fun any err n hn => ⟨_, rfl, (by decide : 0x81 < 256), rfl, (by decide : 0x81 ≠ 0), rfl⟩, ?_, by decide +kernel, by decide +kernel, by decide +kernel, rfl⟩
  intro err; exact ⟨7, by decide, by decide, rfl⟩
/-- A context in a drain. -/
def draining (d : DrainW) (st : Option Stage) : State :=
  { base { unit [] with drain := some d } iss0 [] with
    msgs := match st with
      | some x => [{ id := 0, core := 0, h := 0, kind := .store, addr := 0x800100, size := 8, data := 7, sx := false, queue := 0, inc := 0, stage := x, due := 9 }]
      | none => [], nextId := 1 }
theorem witness_Drains : Settled (user []) ∧ (∀ n < 4, Executes (.qDrain (q0 (BitVec.ofNat 10 n))) false (user [])) ∧ Executes (.qFence tq) false (user []) ∧
    (∀ f, let s := draining { scope := 3, fence := f } none
      (s.ctx 0).drain = some { scope := 3, fence := f } ∧ (s.ctx 0).eret = none ∧ (s.ctx 0).rest = [] ∧ s.msgs = []) ∧
    (∀ f, let s := draining { scope := 3, fence := f } (some .table)
      (s.ctx 0).drain = some { scope := 3, fence := f } ∧ s.msgs.all (fun m => m.dest == 0 && m.kind == .store && m.core == keyCore 0 && m.h == keyCtx 0 &&
        !m.paid && m.stage == .table && dieOf (gsaCore m.addr) == dieOf m.core && decide (gsaOff m.addr < 0x400000)) = true ∧ s.msgs ≠ []) := by decide +kernel
/-- An earlier store at each stage holds a drain of the scopes beyond it and no other; a read holds a fence. -/
theorem witness_DrainStages : (∀ x ∈ [(Stage.table, 0), (.cluster, 1), (.ring, 2), (.far, 2), (.done, 3)], ∀ n < 4, let s := draining { scope := n, fence := false, at_ := 1 } (some x.1)
      (s.ctx 0).drain = some { scope := n, fence := false, at_ := 1 } ∧ (s.ctx 0).eret = none ∧ (s.ctx 0).rest = [] ∧ (s.ctx 0).seen = [] ∧
        s.msgs.map (fun m => (m.dest, m.at_, m.kind, m.core, m.paid, m.stage)) = [(0, 0, .store, keyCore 0, false, x.1)]) ∧
    (∀ x ∈ [(Stage.table, 0), (.cluster, 1), (.ring, 2), (.far, 2), (.done, 3)], ∀ n < 4,
        ((x.1 = .table ∧ n = 0 ∨ x.1 = .cluster ∧ n ≤ 1 ∨ (x.1 = .ring ∨ x.1 = .far) ∧ n ≤ 2) ↔ n ≤ x.2 ∧ x.2 < 3) ∧
        ((x.1 = .table ∧ 1 ≤ n ∨ x.1 = .cluster ∧ 2 ≤ n ∨ (x.1 = .ring ∨ x.1 = .far ∨ x.1 = .done) ∧ 3 ≤ n) ↔ ¬n ≤ min x.2 2)) ∧
    (∀ k ∈ [MsgKind.load, .amo 0 0], let d := draining { scope := 0, fence := true, at_ := 1 } (some .far)
      let s : State := { d with msgs := d.msgs.map (fun m => { m with kind := k }) }
      (s.ctx 0).drain = some { scope := 0, fence := true, at_ := 1 } ∧ s.msgs.any (fun m => m.dest == 0 && decide (m.at_ < 1) && m.kind == k) = true) := by
  refine ⟨fun x hx n _ => ?_, by decide +kernel, fun k hk => ?_⟩
  · fin_cases hx <;> exact ⟨rfl, rfl, rfl, rfl, rfl⟩
  fin_cases hk <;> decide +kernel
/-- A producer of pipe 3 of its gang, whose consumer holds `n` entries in `q7`. -/
def piping (n : Nat) (gone : Bool := false) : State :=
  { base { unit [(1, 5)] with put := some { pipe := 3, val := 5 }, work := some { point := 9 } } iss0 [] with
    ctxs := [(0, { unit [(1, 5)] with put := some { pipe := 3, val := 5 }, work := some { point := 9 } }), (1, { unit [] with live := { q := [(7, List.replicate n 1)] } }),
             (7, { role := .supervisor, halted := true })],
    pipes := [{ point := 9, index := 3, prod := 0, cons := 1, head := 7, consDone := gone }] }
theorem witness_Pipes : (∀ n ∈ [0, 63, 64], ∀ gone, let s := piping n gone
      Settled s ∧ Executes (.qPut { tq with sp := 1, sub := 3 }) false s ∧ (∃ p, s.outPipe s.key 3 = some p ∧ p.consDone = gone ∧
        p.wait.length + ((s.ctx p.cons).live.queue p.head).length = n ∧ p.cons ≠ 0)) ∧
    (piping 0).outPipe 0 4 = none ∧ (piping 0).isSuper 0 = false ∧ ((piping 63).ctx 0).put = some { pipe := 3, val := 5 } ∧ ((piping 63).ctx 0).rest = [] ∧
    (∃ m ∈ (draining { scope := 3, fence := false } (some .table)).msgs, m.dest = 0 ∧ m.kind = .store ∧ m.stage ≠ .done) := by
  refine ⟨?_, by decide +kernel, by decide +kernel, by decide +kernel, rfl, ⟨_, List.mem_singleton.2 rfl, by decide +kernel⟩⟩
  intro n hn gone
  fin_cases hn <;> cases gone <;> exact ⟨by rfl, by decide +kernel, _, by rfl, by rfl, by decide +kernel, by decide⟩
/-- A partition that owns HBM and a host window, its page table at 384 MiB of die 0. -/
def part1 : Part := { part0 with hwlen := 2 ^ 32, pchan := 2 ^ 1024 - 1, ptroot := 0x18000000 }
/-- A partition whose page table, in HBM and host memory, maps its first GiB of virtual addresses to host memory. -/
def paged (res : Bool) (va : W64) : State :=
  { user [(1, va)] (Memory.writeN (Memory.writeN [] (hbmKey 0x18000000) (le 8 0x10021)) (hostKey 0x10000) (le 8 (0x40000037 + if res then 8 else 0))) with
    parts := [(0, part1)] }
theorem witness_PageRequests : (∀ res, ∀ va ∈ [0, 2 ^ 30 - 1, 2 ^ 30, 2 ^ 57], let s := paged res (BitVec.ofNat 64 va)
      Settled s ∧ Executes (.qPgreq q1) false s ∧ s.tokFull q1.kw q1.k.toNat = false ∧ s.cmds.all (fun c => c.id < s.nextId) = true ∧ s.isSuper s.key = false ∧
        (s.value 1).toNat = va ∧ ((s.walk ((s.partOf s.iss.core).getD 16) va).map (fun l => l.res)) = (if va < 2 ^ 30 then some res else none) ∧
        (s.die (dieOf s.iss.core)).events + (s.die (dieOf s.iss.core)).evwait.length < 64) ∧
    (∃ e es, ((({ user [] with dies := [(3, { evwait := [{ time := 0, cls := 1, core := 384, h := 0, cause := 7, widx := 255, src := 1, tval := 0 }] })] } : State).die 3).evwait = e :: es)) ∧
    (({ user [] with dies := [(3, { evwait := [{ time := 0, cls := 1, core := 384, h := 0, cause := 7, widx := 255, src := 1, tval := 0 }] })] } : State).die 3).events < 64 ∧
    (let e : PendEv := { time := 0, cls := 1, core := 384, h := 0, cause := 0, widx := 0, src := 2, tval := 9, kind := 4, cmd := some 4 }
     let s : State := { State.reset with dies := [(3, { evwait := [e] })], ctxs := [(384 * 8, { pgq := some (9, 4) })] }
     (s.die 3).evwait = [e] ∧ e.cmd = some 4 ∧ s.cmd? 4 = none ∧ (s.ctx (ctxKey e.core e.h)).pgq = some (9, 4)) ∧
    (∀ k, (State.reset.ctx k).rest = []) := by
  refine ⟨by decide +kernel, ⟨_, _, rfl⟩, by decide +kernel, by decide +kernel, fun k => rfl⟩
/-- An image of one task. -/
def image1 : Image := { codeLen := 0, tasks := [{ entry := 24, ctx := 2 }], bss := [(0x100, 64)], data := [(0x200, by1 [1, 2, 3])] }
/-- A launch record: `n` units of task `task` on die 0, their records at 0x1000 of core 0, with a line or none. -/
def launchRecord (task : Nat) (n : Nat := 2) (sync : Nat := 0) (urec : Nat := 0x1000) : List Byte :=
  le 4 task ++ le 2 n ++ le 2 1 ++ le 2 1 ++ by1 [7, 31] ++ le 4 0x55 ++ le 4 urec ++ by1 [sync, 0, 0, 0] ++ le 8 9 ++ le 2 0 ++ le 2 1 ++ le 12 0
/-- A unit about to launch. -/
def launching (b : List Byte) (n : Nat := 0) (t : List Byte := []) : State :=
  { commanding b t with
    images := [(0, image1)], levels := (List.range n).map (fun i => (2 ^ 28 + i, { handle := 2 ^ 28 + i, part := 0 })) }
theorem witness_Launches : (let s := launching (launchRecord 0)
     let b := recordBytes s 0x100 48
     FindsRecord s q1 0x100 ∧ dieOf s.iss.core = 0 ∧ (s.partOf s.iss.core).getD 16 = 0 ∧ s.cur.img = 0 ∧ Executes (.qLaunch q1) false s ∧ Creatable s b 0 0 0 ∧
       s.recordsUsed 0 < 1024 ∧ unitsOf s b 0 = 2 ∧ coresFor s b 0 0 0 ≠ []) ∧
    (let s := launching (launchRecord 0 2 0x8F)
     let b := recordBytes s 0x100 48
     Creatable s b 0 0 0 ∧ (launchOf b).sync = some 15 ∧ s.recordsUsed 0 < 1024) ∧
    launchOk (recordBytes (launching (le 8 0 ++ le 4 0xFF000000)) 0x100 48) = false ∧
    (let s := launching (launchRecord 9)
     launchOk (recordBytes s 0x100 48) = true ∧ ((s.image 0).tasksOf (launchOf (recordBytes s 0x100 48))).isEmpty = true) ∧
    (let s := launching (launchRecord 0) 1024
     Creatable s (recordBytes s 0x100 48) 0 0 0 ∧ 1024 ≤ s.recordsUsed 0) := by
  refine ⟨?_, ?_, ?_, ?_, ?_⟩ <;> decide +kernel
/-- Every refusal: bad fields, an unknown task, unit records of no core, a line that is not the partition's, or of a live launch, cores of a failed die, without
the pair of the task, too few for a line, a die without room. -/
theorem witness_Refusals : (let s := launching (le 8 0 ++ le 4 0xFF000000)
     RefusedWith s (recordBytes s 0x100 48) 0 0 0 1) ∧
    (let s := launching (launchRecord 9)
     RefusedWith s (recordBytes s 0x100 48) 0 0 0 2) ∧
    (let s := launching (launchRecord 0 2 0 0xFFFFFFE0)
     RefusedWith s (recordBytes s 0x100 48) 0 0 0 1) ∧
    (let s := { launching (launchRecord 0 2 0x80) with parts := [(0, { part0 with lines := 2 })] }
     RefusedWith s (recordBytes s 0x100 48) 0 0 0 3) ∧
    (let s := {
       launching (launchRecord 0 2 0x80) with
       lines := [(0, { launch := some (2 ^ 28) })], levels := [(2 ^ 28, { handle := 2 ^ 28, part := 0, total := 1 })] }
     RefusedWith s (recordBytes s 0x100 48) 0 0 0 3) ∧
    (let s := { launching (launchRecord 0) with dies := [(0, { failed := true })] }
     RefusedWith s (recordBytes s 0x100 48) 0 0 0 5) ∧
    (let s := { launching (launchRecord 0) with images := [(0, { image1 with tasks := [{ entry := 24, ctx := 2, arrays := [(0, 3, 1)] }] })] }
     RefusedWith s (recordBytes s 0x100 48) 0 0 0 4) ∧
    (let s := launching (launchRecord 0 500 0x80)
     RefusedWith s (recordBytes s 0x100 48) 0 0 0 3) ∧
    (let s := launching (launchRecord 0) 1024
     RefusedWith s (recordBytes s 0x100 48) 0 0 0 5) := by
  unfold RefusedWith
  refine ⟨?_, ?_, ?_, ?_, ?_, ?_, ?_, ?_, ?_⟩ <;> decide +kernel
theorem witness_Graphs : (let s := launching (le 2 1 ++ le 6 0 ++ le 4 0x200) 0 (launchRecord 0)
     let b := recordBytes s 0x100 8
     let bs := s.graphRecords 0x100 b
     FindsRecord s q1 0x100 ∧ Executes (.qGlaunch q1) false s ∧ bs ≠ [] ∧ (∀ r ∈ bs, Creatable s r 0 0 0) ∧ s.recordsUsed 0 + bs.length < 1024 ∧
       s.rangesUsed 0 + ((bs.map (fun r => (s.rangesOf 0 (launchOf r)).length)).foldl (· + ·) 0) ≤ 256 ∧ s.handles.length + bs.length + 2 ≤ 2 ^ 26 ∧
       (bs.filterMap (fun r => (launchOf r).sync)).Nodup) ∧
    -- two launches, on distinct lines
    (let s := launching (le 2 2 ++ le 6 0 ++ le 4 0x200 ++ le 4 0x300) 0 (launchRecord 0 2 0x8F)
     let s := { s with mem := s.mem.writeN 0x300 (launchRecord 0 2 0x80) }
     let bs := s.graphRecords 0x100 (recordBytes s 0x100 8)
     bs.length = 2 ∧ (∀ r ∈ bs, Creatable s r 0 0 0) ∧ bs.filterMap (fun r => (launchOf r).sync) = [15, 0]) ∧
    (launching []).graphRecords 0x100 (recordBytes (launching []) 0x100 8) = [] := by decide +kernel
/-- A unit whose `g1` holds a handle; levels of kinds 1 to 4, the launch with two children, of which `n` are over. -/
def levelled (h : W64) (n : Nat) : State :=
  { user [(1, h)] with levels := [(2 ^ 28, { handle := 2 ^ 28, part := 0, total := 2, ndone := n, parent := 2 ^ 29 }),
      (2 ^ 29, { handle := 2 ^ 29, part := 0, total := 1 }), (3 * 2 ^ 28, { handle := 3 * 2 ^ 28, part := 0, total := 1 }),
      (2 ^ 30, { handle := 2 ^ 30, part := 1, total := 1 })] }
/-- A Q word with its source in `g1` and no token. -/
def q1s (sub : BitVec 10 := 0) : TQ := { tq with sp := 1, sub := sub }
theorem witness_LevelWords : (∀ h ∈ [2 ^ 28, 2 ^ 29, 3 * 2 ^ 28, 2 ^ 30, 5], let s := levelled (BitVec.ofNat 64 h) 0
      Settled s ∧ (s.value 1).toNat % 2 ^ 32 = h ∧ Executes (.qCancel q1s) false s ∧ s.isSuper s.key = false ∧
        (s.nameable s.key h).isSome = decide (h ≠ 2 ^ 30 ∧ h ≠ 5) ∧ Executes (.qSrec (q1s 1)) false s ∧ Executes (.qSrec (q0 2)) false s ∧
        (s.core s.iss.core).claim < 16) ∧
    (∀ n ∈ [0, 2], let s := levelled (2 ^ 29) n
      (s.nameable s.key (2 ^ 29)).map (fun l => decide (l.ncncl + l.ndone < l.total)) = some true ∧
        (s.level? (2 ^ 28)).map (fun c => (c.parent, decide (c.ncncl + c.ndone < c.total))) = some (2 ^ 29, n == 0) ∧ (s.below (s.levels.length + 1) [2 ^ 29]).all (fun x => handleKind x != 4) = true) ∧
    (∀ n ∈ [0, 2], (((levelled 0 n).nameable 0 (2 ^ 28)).map (fun l => (l.total - l.ncncl - l.ndone, handleKind (2 ^ 28)))) = some (2 - n, 1)) ∧
    (let s := user []
     Executes (.qExit tq) false s ∧ s.cur.role = .unit ∧ s.cur.work.isSome = true ∧ Executes (.qHset (q0 2)) false s ∧ Executes (.qHset (q0 3)) false s ∧
       s.cur.work.map (fun w => (w.resv, w.hset)) = some ([3, 4], none) ∧ s.iss.h < 8) ∧
    (let s := base { unit [] with role := .handler } iss0 []
     Executes (.qExit tq) false s ∧ s.cur.role = .handler ∧ s.cur.pmtWait = []) ∧
    (let s := base { unit [] with work := some { resv := [5], hset := some 1 } } iss0 []
     Executes (.qHset (q0 1)) false s ∧ s.cur.work.map (fun w => (w.resv.length, w.hset)) = some (1, some 1) ∧
       ((q0 2).sub.toNat ≤ 1 + 1 ∧ 1 + 1 < (q0 3).sub.toNat)) := by decide +kernel
/-- Unit 5 of launch 2^28, in a state. -/
def unit5 (st : UnitSt) (owner : Nat := 0) : Machine.Unit := { uid := 5, launch := 2 ^ 28, idx := 0, owner := owner, st := st, when_ := 3 }
/-- The record of its launch. -/
def lrec5 : LaunchRec := { args := 0x55, urec := 0x1000, cseed := 9, prio := 7, lq := 31 }
/-- Its level. -/
def level5 (l : LaunchRec := lrec5) : Level := { handle := 2 ^ 28, part := 0, total := 2, lrec := l }
/-- Its task. -/
def task5 : Task := { entry := 24, ctx := 2 }
/-- A package with that unit. -/
def unitIn (u : Machine.Unit) (l : Level := level5) (cores : SMap Core := [(0, { image := some 0 }), (1, { image := some 0 })]) : State :=
  { user [] with
    now := 100, images := [(0, image1)], levels := [(2 ^ 28, l)], units := [(5, u)], cores := cores }
theorem witness_Dispatch : (let u := unit5 .queued
     let s := unitIn u
     coreExists 0 = true ∧ s.atStart.pickUnit 0 = some (u, 7, 31) ∧ s.placement u 0 = some [(0, task5, [1, 2])] ∧ ([1, 2] : List Nat).Nodup ∧
       s.unit? u.uid = some u ∧ s.level? u.launch = some level5 ∧ lrec5.gang = false) ∧
    (let u := unit5 .queued
     let s := unitIn u level5 [(0, { image := some 0, offers := [(0, 1)] }), (1, { image := some 0 })]
     coreExists 1 = true ∧ s.atStart.freeCtxs 1 ≠ [] ∧ s.atStart.availableTo 1 = [] ∧ s.atStart.claimPick 1 = some u ∧ s.atStart.mayHold u 1 = true ∧
       (s.atStart.placement u 1).isSome = true ∧ u.st = .queued ∧ s.placement u 1 = some [(0, task5, [8, 9])] ∧ ([8, 9] : List Nat).Nodup ∧ s.unit? u.uid = some u) ∧
    (let s := { coded addWord with cores := [(0, { primary := 3, choosing := true })] }
     (s.core 0).choosing = true ∧ s.chooseNext 0 (s.core 0).primary = some 0 ∧ (s.ctx (ctxKey 0 0)).keepLatch = false) ∧
    (let s := { coded addWord with ctxs := [(0, { unit [] with live := {}, keepLatch := true })], cores := [(0, { choosing := true })] }
     s.chooseNext 0 0 = some 0 ∧ (s.ctx (ctxKey 0 0)).keepLatch = true) ∧
    (let u := unit5 .moving 128
     let s := unitIn u
     s.unit? u.uid = some u ∧ u.st = .moving ∧ s.level? u.launch = some level5 ∧ level5.cncl = false ∧
       s.units.all (fun e => e.2.launch != u.launch || decide (u.idx ≤ e.2.idx)) = true) ∧
    (let u := unit5 .queued
     let s := unitIn u level5 []
     (s.core 0).loading = none ∧ (s.units.map Prod.snd).find? (s.wants 0) = some u ∧ s.level? u.launch = some level5) ∧
    (let s := unitIn (unit5 .queued) level5 [(0, { loading := some (0, 101) }), (1, { loading := some (0, 102) })]
     (s.core 0).loading = some (0, 101) ∧ 101 ≤ s.now + 1 ∧ s.selfRef = [] ∧ (s.core 1).loading = some (0, 102) ∧ s.now + 1 < 102 ∧ s.mem.wf = true ∧ (s.image 0).bss = [(0x100, 64)] ∧ (s.image 0).data = [(0x200, by1 [1, 2, 3])] ∧
       0x100 + 64 ≤ 0x400000 ∧ 0x200 + 3 ≤ 0x400000 ∧ 0x100 + 64 ≤ 0x200) ∧
    (let u := unit5 .queued
     let s := { unitIn u with cancels := [(0, 2 ^ 28)] }
     (0, 2 ^ 28) ∈ s.cancels ∧ sortedKeys s.units = true ∧ s.unit? u.uid = some u ∧ u.launch = 2 ^ 28 ∧ dieOf u.owner = 0 ∧ u.st = .queued) := by
  refine ⟨?_, ?_, ?_, ?_, ?_, ?_, ?_, ?_⟩ <;> decide +kernel
/-- Unit 5 at the end of its one routine. -/
def exiting (owner : Nat) (st : UnitSt) : State :=
  { unitIn { unit5 st owner with open_ := [8 * owner] } with
    ctxs := [(8 * owner, { unit [] with exiting := true, work := some { uid := 5, launch := 2 ^ 28 } })] }
theorem witness_Completion : (∀ o ∈ [0, 128], let s := exiting o .running
      let u := { unit5 .running o with open_ := [8 * o] }
      s.unit? u.uid = some u ∧ sortedKeys s.units = true ∧ u.st = .running ∧ u.open_ = [8 * o] ∧ s.routineDone (8 * o) = true ∧
        s.level? u.launch = some level5 ∧ level5.parent ≠ u.launch ∧ s.level? level5.parent = none ∧ (handleDie u.launch = dieOf u.owner ↔ o = 0)) ∧
    (let s := exiting 128 .counting
     ∃ u, s.unit? 5 = some u ∧ u.uid = 5 ∧ u.st = .counting ∧ s.level? u.launch = some level5) := by
  refine ⟨by decide +kernel, ⟨_, rfl, rfl, rfl, by rfl⟩⟩
/-- Sync line 15 with two members, of which `arr` have arrived. -/
def synced (arr : List (Nat × Bool × Nat)) (resume : Option Nat) (tmo : Nat) (frozen : Option Nat := none) : State :=
  { user [] with
    now := 200, ctxs := [(0, unit []), (1, { unit [] with frozen := frozen })],
    lines := [(15, { launch := some (2 ^ 28), members := [0, 1], arr := arr, resume := resume, tmo := tmo, first := some 100 })] }
theorem witness_SyncLines : (let s := synced [(0, true, 100), (1, false, 104)] (some 200) 0
     15 < 16 ∧ (s.line 15).resume = some 200 ∧ 200 ≤ s.now) ∧
    (∀ a ∈ [[], [(0, true, 100)], [(0, true, 100), (1, true, 104)]], let s := synced a none 0
     ({ start := 16, next := 24, hdr := some { hd with y := true, line := 15 }, words := [] } : Bundle).hdr = some { hd with y := true, line := 15 } ∧ (s.line 15).resume = none ∧ (s.line 15).members ≠ [] ∧
       ((∀ m ∈ (s.line 15).members, m = 1 ∨ ∃ x ∈ (s.line 15).arr, x.1 = m) ↔ a ≠ [])) ∧
    (∀ f ∈ [none, some 15], let s := synced [(1, true, 100)] none 1 f
     (s.line 15).tmo = 1 ∧ (s.line 15).first.isSome = true ∧ (s.line 15).arr ≠ [] ∧ (s.line 15).resume = none ∧ (∀ x ∈ (s.line 15).arr, s.isSuper x.1 = false) ∧ (s.ctx 1).frozen = f) ∧
    (let l := { level5 { lrec5 with sync := some 15 } with syncAt := some 100 }
     let u := { unit5 .reserved with keys := [1, 2] }
     let s := unitIn u l
     s.level? (2 ^ 28) = some l ∧ l.lrec.sync = some 15 ∧ l.syncAt = some 100 ∧ 100 ≤ s.now ∧ l.cncl = false ∧ l.handle = 2 ^ 28 ∧
       (s.units.map Prod.snd).filter (fun u => u.launch == 2 ^ 28) = [u] ∧ u.st = .reserved ∧ s.unit? u.uid = some u) := by decide +kernel
/-- A file of kind 2 with no sections. -/
def emptyFile : List Byte :=
  by1 [0x45, 0x42, 0x4F, 0x1A] ++ le 2 1 ++ le 2 0 ++ le 2 2 ++ le 2 0 ++ by1 [0, 0, 0, 0] ++ le 4 64 ++ le 2 0 ++ le 2 48 ++ le 8 0 ++ le 8 64 ++ le 24 0
/-- A partition with a job record at 0x100 of its virtual space, its image at 0x200, its phase table at 0x300. -/
def jobbing (dies : SMap Die := []) (levels : SMap Level := []) : State :=
  { user [] (Memory.writeN (Memory.writeN (Memory.writeN (Memory.writeN (Memory.writeN [] (hbmKey 0x18000000) (le 8 0x10021)) (hostKey 0x10000) (le 8 0x4000003F))
      (hostKey 0x40000100) (by1 [0x4A, 7] ++ le 2 1 ++ le 4 0 ++ le 8 0x200 ++ le 8 0x300 ++ le 8 0x400)) (hostKey 0x40000200) emptyFile)
      (hostKey 0x40000300) (le 2 256 ++ le 2 0 ++ le 12 0 ++ by1 [3, 4] ++ le 2 0xFFFF ++ le 4 0 ++ le 8 0x500)) with
    parts := [(0, part1)], dies := dies, levels := levels }
/-- Job 2^30, and phase 3·2^28 of it. -/
def job30 (n : Nat) : Level := { handle := 2 ^ 30, part := 0, total := n, ptab := 0x300 }
/-- A phase whose one launch is over. -/
def phase3 (next : Nat) : Level := { handle := 3 * 2 ^ 28, part := 0, total := 1, ndone := 1, parent := 2 ^ 30, next := next, mb := 5 }
/-- A phase of one launch on die 3, its records there, cancelled or not. -/
def fetching (c : Bool) (a : Nat) : Level := { handle := 3 * 2 ^ 28 + 3 * 2 ^ 26, part := 0, total := 1, parent := 2 ^ 30, cncl := c, fetch := some (9, a) }
/-- A package that has fetched the launch records of a phase at an address. -/
def fetched (l : Level) : State :=
  { jobbing with
    mem := Memory.writeN jobbing.mem (hostKey 0x40000500) (launchRecord 0), images := [(0, image1)], now := 9, levels := [(l.handle, l)] }
theorem witness_Jobs : (let s := jobbing [(0, { tokens := [5] })] [(2 ^ 30, job30 4)]
     let b := (s.virtBytes 0 0x100 64).getD []
     let hd := (s.virtBytes 0 0x200 64).getD []
     let pt := (s.virtBytes 0 0x300 16).getD []
     (s.virtBytes 0 0x100 64).isSome = true ∧ fld b 0 1 = 0x4A ∧ fld b 1 1 ≤ 7 ∧ fld b 2 2 ≠ 0 ∧ zeros b 4 4 = true ∧ zeros b 32 32 = true ∧ fld b 8 8 = 0x200 ∧
       fld b 16 8 = 0x300 ∧ (s.virtBytes 0 0x200 64).isSome = true ∧ (s.virtBytes 0 0x300 16).isSome = true ∧
       (loadImage ((s.virtBytes 0 0x200 (fld hd 32 8)).getD []) 2 (s.levelsOf 0)).isSome = true ∧
       s.chainOf 0 0x300 (fld b 2 2) (fld b 2 2 + 1) (fld pt 2 2) [] = some [0] ∧ fld pt 0 2 = 256 ∧ zeros pt 4 12 = true ∧
       (∀ k ∈ [0], ∀ r ∈ (s.phaseRec 0 0x300 k).toList, s.tokensFor r.die + 256 ≤ 256) ∧ 1 < 65536 ∧ ∀ e ∈ s.levels, handleKind e.1 = 4 → e.1 % 2 ^ 16 ≠ 1) ∧
    (∀ a ∈ [0, 64, 7, 2 ^ 57], (part0.live = true ∧ ((BitVec.ofNat 64 a).toNat < 2 ^ 57 ∧ (BitVec.ofNat 64 a).toNat % 64 = 0 ∧ part0.mbox.length < 16 ∧
      part0.notices = [] ↔ a ∈ [0, 64]))) ∧
    (({ part0 with mbox := [64, 128] } : Part).mbox = 64 :: [128] ∧ part0.notices = [] ∧ (64 : W64).toNat < 2 ^ 57) ∧
    (let s := jobbing [(3, { tokens := [mbToken (2 ^ 30) 0 5] })] [(2 ^ 30, job30 4)]
     3 < 4 ∧ (s.die 3).tokens = mbToken (2 ^ 30) 0 5 :: [] ∧ (s.die 3).tokens.length < 256 ∧
       256 ≤ ({ tokens := List.replicate 256 0 } : Die).tokens.length ∧ s.fetches 3 = [] ∧ (s.part 0).faulted = false ∧
       (s.levels.filter (fun e => handleDie e.1 == 3 && handleKind e.1 == 3)).length < 256 ∧ s.jobOf (mbToken (2 ^ 30) 0 5) = some (job30 4) ∧
       (s.phaseRec 0 0x300 ((mbToken (2 ^ 30) 0 5).toNat / 2 ^ 32 % 2 ^ 16)).map (fun r => (r.die, r.nl)) = some (3, 4)) ∧
    (∀ next ∈ [0, 0xFFFF], let s := jobbing [] [(3 * 2 ^ 28, phase3 next), (2 ^ 30, job30 4)]
      let l := phase3 next
      s.level? (3 * 2 ^ 28) = some l ∧ handleKind (3 * 2 ^ 28) = 3 ∧ l.total = l.ncncl + l.ndone ∧ l.reported = false ∧ l.cncl = false ∧
        s.level? l.parent = some (job30 4) ∧ handleKind l.parent = 4 ∧ (job30 4).parent = 0 ∧ s.level? 0 = none ∧ sortedKeys s.levels = true ∧
        (job30 4).handle = l.parent ∧ (job30 4).ndone + (job30 4).ncncl + 1 < (job30 4).total ∧ (s.phaseRec 0 0x300 0).isSome = true) ∧
    (∀ c, let l := fetching c 0x500
      let s := fetched l
      let far := fetching c (2 ^ 30)
      s.fetches 3 = [(l, 0x500)] ∧ s.level? l.handle = some l ∧ (s.die 3).tokens = [] ∧ l.cncl = c ∧ l.total = 1 ∧ s.readFault l.part 0x500 64 = none ∧
        s.rangeAsleep l.part 0x500 64 = false ∧ (s.die 3).failed = false ∧ l.total ≠ 0 ∧
        ({ s with selfRef := [(0, true)] } : State).rangeAsleep l.part 0x500 (64 * l.total) = true ∧
        ({ s with selfRef := [(0, true)] } : State).fetches 3 = [(l, 0x500)] ∧ (fetched far).rangeAsleep far.part (2 ^ 30) (64 * far.total) = false ∧
        s.virtBytes l.part 0x500 48 = some (launchRecord 0) ∧ Creatable s (launchRecord 0) 3 l.part l.img ∧ s.recordsUsed 3 < 1024 ∧
        (fetched far).fetches 3 = [(far, 2 ^ 30)] ∧ (fetched far).readFault far.part (2 ^ 30) (64 * far.total) = some (2 ^ 30) ∧
        ((s.die 3).evq.filter (fun e => e.cls == 1)).length < 64) := by
  refine ⟨?_, ?_, ?_, ?_, ?_, ?_⟩ <;> decide +kernel
/-- A record of a collective of threshold `thr` with one peer, which re-arms. -/
def collRecord (thr : Nat) : List Byte :=
  le 8 0x1000 ++ le 8 0x2000 ++ by1 [0, 0, 0, 0] ++ le 4 4 ++ le 2 1 ++ le 2 0 ++ le 4 0x200 ++ le 64 0 ++ le 8 8 ++ le 8 8 ++ le 4 thr ++ le 2 0 ++ by1 [0, 255] ++
    le 2 0 ++ le 2 1 ++ le 4 0
/-- A package whose slot 127 is in a state. -/
def slotted (st : Nat) (ctr : Nat := 0) : State :=
  { commanding (collRecord 5) (le 4 0 ++ le 2 0xFFFF ++ le 2 0 ++ le 8 0) with
    slots := [(127, { state := st, ctr := ctr, crec := collOf (collRecord 5) [], disarm := false })] }
/-- A transfer of three bytes to core 1, which counts at slot 127. -/
def xfer3 : CollTransfer := { addr := 0x800100, data := by1 [1, 2, 3], part := 0, rcnt := some 127, virt := false, own := none }
theorem witness_Collectives : (let s := { slotted 0 with parts := [(0, { part0 with slots := 1 })] }
     Settled s ∧ s.partOf s.iss.core = some 0 ∧ (s.part 0).slots.testBit 127 = false ∧ s.isSuper s.key = false ∧ Executes (.qCarm (q1 127)) false s ∧
       Executes (.qCtrig (q1 127)) false s ∧ Executes (.qCstat (q0 127)) false s) ∧
    (∀ st < 3, let s := slotted st
      let b := recordBytes s 0x100 128
      (q1 127).sub.toNat % 128 = 127 ∧ (q1 383).sub.toNat % 128 = 127 ∧ (s.part 0).slots.testBit 127 = true ∧ FindsRecord s (q1 127) 0x100 ∧
        Executes (.qCarm (q1 127)) false s ∧ (q1 127).sub.getLsbD 8 = false ∧ collOk b = true ∧
        peersOk (s.part 0).eps (peersOf (recordBytes s (fld b 0x1C 4) (16 * fld b 0x18 2))) = true ∧ (s.slot 127).state = st ∧
        Executes (.qCarm { q1 383 with sp := 0 }) false s ∧ (q1 383).sub.getLsbD 8 = true ∧ s.tokFull true 2 = false) ∧
    (∀ n < 3, Executes (.qCstat (q0 (BitVec.ofNat 10 (127 + 256 * n)))) false (slotted 1)) ∧
    ((slotted 1 5).slot 127).crec.thr ≤ ((slotted 1 5).slot 127).ctr ∧ ((slotted 1 5).slot 127).state = 1 ∧ (slotted 1 5).cwEvwait = [] ∧
    (let s := { slotted 1 with xfers := [xfer3] }
     xfer3 ∈ s.xfers ∧ Quiet s ∧ s.mem.wf = true ∧ xfer3.virt = false ∧ xfer3.addr < 2 ^ 32 ∧ coreExists (gsaCore xfer3.addr) = true ∧
       gsaOff xfer3.addr + xfer3.data.length ≤ 0x400000 ∧ s.partOf (gsaCore xfer3.addr) = some xfer3.part ∧
       (s.die (dieOf (gsaCore xfer3.addr))).failed = false ∧ (s.slot 127).state ≠ 0) ∧
    (let s := slotted 2
     127 < 128 ∧ (s.slot 127).state = 2 ∧ s.cwEvwait = [] ∧ s.xfers.all (fun x => (x.own.map Prod.fst) != some 127) = true ∧ (s.slot 127).crec.next = none ∧
       (s.slot 127).crec.rearm = true ∧ (s.slot 127).disarm = false) := by
  refine ⟨?_, ?_, ?_, ?_, ?_, ?_⟩ <;> decide +kernel
/-- A supervisor, context 7 of core 0, with registers. -/
def sup (g : SMap W64) (mem : Memory := []) : State := super { live := { pc := 16, g := g } } mem
/-- A privileged register word. -/
def pv1 (csr : Nat) (sa : BitVec 6 := 1) (md : BitVec 4 := 0) : PV := { pv with csr := BitVec.ofNat 10 csr, sa := sa, md := md }
theorem witness_ControlRegisters : (let s := sup [(1, 5)]
     s.cur.tselEn = false ∧ (∀ x ∈ controls s, Supervises (.pCsrr (pv1 x.1 31)) false s ∧ (pv1 x.1 31).csr.toNat = x.1) ∧
       s.cur.live.collides (.g 31) 2 = false ∧
       (∀ c ∈ [0x001, 0x004, 0x021, 0x029, 0x02B, 0x024], Executes (.pCsrw (pv1 c)) false s ∧ Executes (.pCsrs (pv1 c)) false s ∧ Executes (.pCsrc (pv1 c)) false s ∧
         (pv1 c).csr.toNat = c) ∧
       (∀ n < 4, Executes (.pCsrw (pv1 0x02A 1 (BitVec.ofNat 4 n))) false s)) ∧
    (let s := user []
     Settled s ∧ s.isSuper s.key = false ∧ csrMax 0x020 = some 0 ∧ csrMax 0x3FF = none ∧
       (∀ k ∈ ([.pCsrr, .pCsrw, .pCsrs, .pCsrc] : List (PV → Instr)), Executes (k (pv1 0x020)) false s ∧ Executes (k (pv1 0x3FF)) false s) ∧
       Executes (.pEret pv) false s ∧ Executes (.pTlbi (q1 0)) false s ∧ Executes (.pCtxsv (q1 0)) false s ∧ Executes (.pCtxld (q1 0)) false s ∧
       Executes (.pHalt tq) false s ∧ Executes (.pPmt (q1 255)) false s) := by decide +kernel
/-- An event of context 0. -/
def event0 (cause : Nat) (time : Nat := 3) : PendEv := { time := time, cls := 2, core := 0, h := 0, cause := cause, widx := 1, src := 0, tval := 9 }
/-- Context 0 of core 0 trapped with a cause; context 7, its supervisor, holds a frame or not, is halted or not. -/
def trapped (frame : Option PendEv) (halted : Bool) (eret : Option Nat := none) : State :=
  { sup [] with
    ctxs := [(0, { unit [] with frozen := some 8, pend := some (event0 8) }),
             (7, { role := .supervisor, frame := frame, halted := halted, eret := eret, drain := eret.map (fun _ => { scope := 3, fence := false }) })] }
theorem witness_TrapsAndReturns : (Executes (.pTrap (pv1 5 0)) false (user []) ∧ Settled (user []) ∧ (user []).isSuper 0 = false) ∧
    (∀ c ∈ [0x200, 0x2FF], let s := sup []
      Executes (.pTrap (pv1 c 0)) false s ∧ Settled s ∧ s.isSuper s.key = true ∧ 0x200 ≤ (pv1 c 0).csr.toNat ∧ (pv1 c 0).csr.toNat ≤ 0x2FF) ∧
    (Supervises (.pHalt tq) false (trapped none false) ∧ (trapped none false).cur.frame = none ∧ (trapped none false).waitingFor 7 ≠ [] ∧
      Supervises (.pHalt tq) false (sup []) ∧ (sup []).waitingFor 7 = []) ∧
    (let s := trapped none true
     s.isSuper 7 = true ∧ (s.ctx 7).halted = true ∧ (s.ctx 7).frame = none ∧ (s.ctx 7).frozen = none ∧
       (sortBy PendEv.before (s.waitingFor 7)).map Prod.snd = [event0 8]) ∧
    (Supervises (.pEret pv) false (trapped (some (event0 8)) false) ∧ (trapped (some (event0 8)) false).cur.frame.isSome = true) ∧
    (∀ md < 2, let s := trapped (some (event0 8)) false (some md)
      (s.ctx 7).drain = some { scope := 3, fence := false } ∧ (s.ctx 7).eret = some md ∧ (s.ctx 7).rest = [] ∧ (s.ctx 7).frame = some (event0 8) ∧ s.msgs = [] ∧ (event0 8).src = 0 ∧
        ctxKey 0 0 ≠ 7 ∧ (s.ctx 0).frozen = some 8 ∧ (s.ctx 0).why = 0) ∧
    (∀ x ∈ [(0, 0), (0, 2 ^ 57 - 1), (0, 2 ^ 57), (1, 2 ^ 57), (1, 2 ^ 57 - 1)], let s := sup [(1, BitVec.ofNat 64 x.2)]
      let f := q1 (BitVec.ofNat 10 x.1)
      Supervises (.pTlbi f) false s ∧ s.tokFull f.kw f.k.toNat = false ∧ s.cmds.all (fun c => c.id < s.nextId) = true ∧
        (s.value f.sp + extUnsigned 0 0 s.iss.ext).toNat = x.2) ∧
    (let s := withCmd (.tlbi none)
     s.cmds.map (fun c => (c.id, c.kind, c.out)) = [(4, .tlbi none, [])] ∧ (s.cmd? 4).isSome = true ∧ Quiet { s with cmds := s.cmds.filter (fun x => x.id != 4) }) := by
  refine ⟨?_, ?_, ?_, ?_, ?_, ?_, ?_, ?_⟩ <;> decide +kernel
/-- A supervisor whose `g1` names core 1, where context 2 runs, or is frozen by pre-emption. -/
def preempting (c : Ctx) (rec : List Byte := []) (a : W64 := 0x800000) : State :=
  { sup [(1, a)] (Memory.writeN [] 0x100 rec) with ctxs := [(7, { role := .supervisor, live := { pc := 16, g := [(1, a)] } }), (10, c)] }
/-- A record of a save or load of context 2 of core 1. -/
def saveRecord : List Byte := le 4 0x800000 ++ by1 [2, 0, 0, 0] ++ le 8 0x2000
theorem witness_Preemption : (∀ x ∈ [((q1 255), unit []), (q1 511, { unit [] with frozen := some 15, why := 1 }), (q1 511, { unit [] with frozen := some 15, why := 3 })],
      let s := preempting x.2
      Supervises (.pPmt x.1) false s ∧ (s.value 1 + extUnsigned 0 0 s.iss.ext).toNat = 0x800000 ∧ gsaCore 0x800000 = 1 ∧ gsaOff 0x800000 = 0 ∧ coreExists 1 = true ∧
        s.sameParts s.iss.core 1 = true ∧ s.tokFull true 2 = false ∧ (x.1.sub.getLsbD 8 = decide (x.1.sub = 511))) ∧
    (let s := preempting { unit [] with freezeReq := some (0, 15) }
     (s.ctx 10).frozen = none ∧ (s.ctx 10).snaps = [] ∧ (s.ctx 10).role ≠ .free ∧ (s.ctx 10).later = none ∧ (s.ctx 10).freezeReq = some (0, 15) ∧ 0 ≤ s.now) ∧
    (let s := preempting { unit [] with wdog := 1, ctime := 1024 }
     (s.ctx 10).wdog ≠ 0 ∧ (s.ctx 10).wdog.toNat * 1024 ≤ (s.ctx 10).ctime - (s.ctx 10).lastY ∧ (s.ctx 10).runs = true ∧ (s.ctx 10).snaps = [] ∧
       s.isSuper 10 = false) ∧
    (let s := preempting { unit [] with live := { flights := [{ rem := 1, dst := .g 31, latch := some 0, val := 7 }] } }
     (s.ctx 10).frozen = none ∧ (s.ctx 10).thaw = false ∧ (s.ctx 10).snaps = [] ∧ (s.ctx 10).live.flights.map (fun x => (x.dst, x.rem, x.val)) = [(.g 31, 1, 7)]) ∧
    (let s := preempting { unit [] with frozen := some 15, why := 1, pmtWait := [(3, 7 * 8 + 7)] }
     (s.ctx 10).pmtWait = [(3, 7 * 8 + 7)] ∧ s.quiescent 10 = true ∧ s.ctxs.all (fun e => e.1 == 10 || e.2.pmtWait.isEmpty) = true ∧ sortedKeys s.ctxs = true) ∧
    (∀ x ∈ ([(false, .pCtxsv q1, { unit [] with frozen := some 15, why := 1 }), (true, .pCtxld q1, {})] : List (Bool × Instr × Ctx)), let s := preempting x.2.2 saveRecord 0x100
      let b := recordBytes s 0x100 16
      FindsRecord s q1 0x100 ∧ s.isSuper s.key = true ∧ gsaCore (fld b 0 4) = 1 ∧ fld b 4 1 = 2 ∧ Executes x.2.1 false s ∧ saveRecOk b = true ∧
        s.sameParts s.iss.core 1 = true ∧ s.targetOk x.1 ((q1 0).sub.toNat % 8) 1 2 = true ∧ s.elsewhere 1 (fld b 8 8) = false ∧ ctxKey 1 2 ≠ s.key ∧
        saveRecOk (recordBytes (preempting x.2.2 [1] 0x100) 0x100 16) = false ∧
        (preempting { role := .supervisor } saveRecord 0x100).targetOk x.1 0 1 2 = false ∧
        (let u := { s with parts := [(0, { part0 with clusters := 1 })] }
         let b := recordBytes u 0x100 16
         let r : List Byte := le 4 (gsaOf 8 0) ++ by1 [2, 0, 0, 0] ++ le 8 0x2000
         let u := { u with mem := Memory.writeN [] 0x100 r }
         b = saveRecord ∧ FindsRecord u q1 0x100 ∧ saveRecOk (recordBytes u 0x100 16) = true ∧ gsaCore (fld (recordBytes u 0x100 16) 0 4) = 8 ∧
           u.sameParts u.iss.core 8 = false ∧ u.partOf u.iss.core = some 0)) := by
  refine ⟨?_, ?_, ?_, ?_, ?_, ?_⟩ <;> decide +kernel
/-- A package with one link end. -/
def linked (l : LinkEnd) (msgs : List Msg := []) : State := { user [] with links := [(3 * 3 + 1, l)], msgs := msgs }
/-- An access on its way to die 3. -/
def crossing : Msg := { id := 5, core := 0, h := 0, kind := .load, addr := 384 * 2 ^ 23, size := 8, data := 0, sx := false, queue := 0, inc := 0, stage := .far, due := 0, home := false }
theorem witness_Links : (let s := linked { vcs := [(0, { rseq := 4095 })] } [crossing]
     ∃ f : Flit, f.vc < 4 ∧ f.avc < 4 ∧ f.idle = false ∧ f.akt = 0 ∧ f.seq = ((s.link 3 1).vc f.vc).rseq ∧ f.pay = [5] ∧ s.msg? 5 = some crossing ∧ crossing.bound = 3 ∧
       (let x : MbMove := { id := 5, src := 0, at_ := 0, to_ := 3, tok := 7 }
        let t : State := { linked { vcs := [(0, { rseq := 4095 })] } with mbs := [x] }
        ((t.link 3 1).vc f.vc).rseq = f.seq ∧ t.msg? 5 = none ∧ t.mbs.find? (fun m => m.id == 5) = some x)) ∧
    (let l : LinkEnd := { up := true, vcs := [(3, { toAck := 64 }), (2, { toAck := 1, ackAge := 2000 }), (1, { unacked := [(7, false, [5])], sent := [(7, 1)] })] }
     (∀ x ∈ [(4095, 0), (0, 1), (2047, 1), (2048, 0)], (l.vc 0).gap = 0 ∧ (l.vc 0).rseq = 0 ∧ (if (x.1 + 4096 - (l.vc 0).rseq) % 4096 < 2048 then 1 else 0) = x.2) ∧
       (∀ m < modulesOf 3 1, l.ready m = false) ∧ ({ l with widths := [2, 2], credit := [(1, 64)] } : LinkEnd).ready 1 = true ∧ 1 < modulesOf 3 1 ∧ 0 < (l.vc 3).toAck ∧ 64 ≤ (l.vc 3).toAck ∧ 0 < (l.vc 2).toAck ∧ 2000 ≤ (l.vc 2).ackAge ∧ l.up = true ∧ l.train = 0 ∧ (l.vc 1).unacked = [(7, false, [5])] ∧
       look 0 (l.vc 1).sent 7 + 8000 ≤ 8001 ∧ 8000 < look 0 (l.vc 1).sent 7 + 8000) ∧
    (let l : LinkEnd := { winRply := 17, widths := [2, 2], train := 1, up := true }
     l.abo = true ∧ l.rthr.toNat < l.winRply ∧ 0 < l.rate.toNat ∧ 1 < modulesOf 3 1 ∧ 63 < 64 ∧ 1 < l.widths.length ∧ l.widths.getD 1 0 = 2 ∧ l.train = 1 ∧ l.up = true ∧
       6 ≠ l.rate.toNat) ∧
    (let l : LinkEnd := { up := true, widths := [2, 2], credit := [(1, 64)], vcs := [(0, { outq := [(false, 5)], nseq := 4095 })] }
     l.ready 1 = true ∧ (linked l [crossing]).inTurn 3 (l.vc 0) 5 = true ∧ l.owes = none ∧ (∀ v < 4, (l.vc v).resend = []) ∧ (l.vc 0).unacked = [] ∧ (l.vc 0).outq = [(false, 5)]) := by
  refine ⟨⟨{ vc := 0, rsp := false, seq := 4095, avc := 0, aseq := 0, akt := 0, idle := false, pay := [5] }, ?_⟩, ?_, ?_, ?_⟩ <;> decide +kernel
/-- The monitor in normal operation in a lifecycle state, with a request in its buffer. -/
def monitored (lc : Nat) (req : List Byte) (len : Nat := 2000) (stage : Nat := 8) : State :=
  { user [] (Memory.writeN [] (hostKey 0x1000) req) with
    mon := { stage := stage, fail := 0, lc := lc, buf := 0x1000, len := len } }
/-- The services of the first clause of `LifecycleServices`, with the states that accept them and the buffer they need. -/
def services : List (Instr × List Nat × Nat) :=
  [(.readIdentity, ([0, 1, 2, 3], 912)), (.attest, ([1], 880)), (.challenge, ([1], 32)), (.unlock, ([1], 1072)), (.relock, ([2], 0)),
   (.enterRma, ([1, 2], 1072)), (.provision, ([0], 1220)), (.createPartition, ([1, 2], 256)), (.destroyPartition, ([1, 2], 1)),
   (.reassignCluster, ([1, 2], 3)), (.setPairOwner, ([1, 2], 9))]
theorem witness_LifecycleServices : (let s := monitored 5 []
     s.mon.busy = false ∧ s.mon.frozen = false ∧ s.mon.stage ≠ 9 ∧ ∀ x ∈ services, s.mon.lc ∉ x.2.1) ∧
    (∀ x ∈ services, 0 < x.2.2 → ∃ lc < 4, (monitored lc [] 0).mon.lc ∈ x.2.1 ∧ (monitored lc [] 0).mon.len < x.2.2) ∧
    Takes (monitored 3 []) [0, 1, 2, 3] 912 ∧ (monitored 3 []).mem.wf = true ∧ Takes (monitored 1 []) [1] 1072 ∧ Takes (monitored 2 []) [2] 0 ∧
    Takes (monitored 2 []) [1, 2] 1072 ∧ Takes (monitored 0 []) [0] 1220 ∧ (monitored 0 []).mon.keyKilled = false := by decide +kernel
theorem witness_PartitionServices : Takes (monitored 1 []) [1, 2] 256 ∧
    (∀ p ∈ [0, 15], let s := monitored 1 (by1 [p])
      Takes s [1, 2] 1 ∧ s.mem.readN (hostKey s.mon.buf) 1 = [BitVec.ofNat 8 p] ∧ p < 16 ∧ sortedKeys s.parts = true ∧
        (s.part p).live = decide (p = 0) ∧
        (let cores := (bitsSet 48 (s.part 0).clusters).flatMap coresOfCluster
         let idle : State := { s with ctxs := [] }
         let sends : State := { idle with msgs := [crossing] }
         cores.any idle.holdsUnit = false ∧ cores.any idle.underWay = false ∧ (s.part 0).faulted = false ∧ cores.any s.holdsUnit = true ∧
           cores.any sends.holdsUnit = false ∧ cores.any sends.underWay = true)) ∧
    (let s := { monitored 1 (by1 [0]) with ctxs := [], parts := [(0, { part0 with faulted := true })] }
     Takes s [1, 2] 1 ∧ (s.part 0).live = true ∧ (s.part 0).faulted = true) ∧
    (let m := monitored 1 (by1 [0])
     let s := { m with ctxs := [], mon := { m.mon with busy := true, waits := some 0, noDispatch := part0.clusters } }
     s.mon.busy = true ∧ s.mon.waits = some 0 ∧ (s.part 0).live = true ∧ (s.part 0).faulted = false ∧ sortedKeys s.parts = true ∧
       ((bitsSet 48 (s.part 0).clusters).flatMap coresOfCluster).any s.holdsUnit = false ∧
       ((bitsSet 48 (s.part 0).clusters).flatMap coresOfCluster).any s.underWay = false) ∧
    (let s := { monitored 2 (by1 [3, 11, 255]) with ctxs := [] }
     let held : State := { s with ctxs := [(479 * 8, unit [])] }
     let sends : State := { s with msgs := [{ crossing with core := 479 }] }
     Takes s [1, 2] 3 ∧ s.mem.readN (hostKey s.mon.buf) 3 = [BitVec.ofNat 8 3, BitVec.ofNat 8 11, 255] ∧ s.partOfCluster (12 * 3 + 11) = some 0 ∧
       (coresOfCluster (12 * 3 + 11)).any s.holdsUnit = false ∧ (coresOfCluster (12 * 3 + 11)).any s.underWay = false ∧
       (coresOfCluster (12 * 3 + 11)).any held.holdsUnit = true ∧ (coresOfCluster (12 * 3 + 11)).any sends.holdsUnit = false ∧
       (coresOfCluster (12 * 3 + 11)).any sends.underWay = true) ∧
    (let s := monitored 2 (bytesOf 4 (gsaOf 479 0) ++ bytesOf 4 (2 ^ 31) ++ [255])
     Takes s [1, 2] 9 ∧ s.request 9 = bytesOf 4 (gsaOf 479 0) ++ bytesOf 4 (2 ^ 31) ++ [255] ∧ coreExists 479 = true ∧ s.cmds = [] ∧ (∀ e ∈ s.ctxs, keyCore e.1 ≠ 479) ∧
       (let held : List Held := [.word (.aScl (a31 0)) 0 [] false 0]
        (∀ c ∈ [{ unit [] with rest := held }, { unit [] with snaps := [{ rem := 2, mis := false, arch := {}, held := held }] }],
          let t : State := { s with ctxs := [(479 * 8, c)] }
          Takes t [1, 2] 9 ∧ ∃ e ∈ t.ctxs, keyCore e.1 = 479 ∧ ∃ h ∈ e.2.rest ++ e.2.held, 31 ∈ h.pairs e.2))) ∧
    (let s := monitored 2 (bytesOf 4 (gsaOf 479 0) ++ bytesOf 4 (2 ^ 31) ++ [0])
     Takes s [1, 2] 9 ∧ s.request 9 = bytesOf 4 (gsaOf 479 0) ++ bytesOf 4 (2 ^ 31) ++ [BitVec.ofNat 8 0] ∧ (s.part 0).live = true ∧ s.cmds = [] ∧
       look 255 s.owners (479 * 32 + 31) ≠ 0) ∧
    (∀ till ∈ [0, 50], let m := monitored 2 []
     let s : State := { m with
       mon := { m.mon with busy := true, waits := some (2 ^ 51 + ownerReq 479 (2 ^ 31) 0) }, cores := [(479, { adc := [(7, { scrub := till })] })] }
     s.mon.busy = true ∧ s.mon.waits = some (2 ^ 51 + ownerReq 479 (2 ^ 31) 0) ∧ (s.part 0).live = true ∧
       ((look {} (s.core 479).adc (31 % 8)).scrub ≤ s.now ↔ till = 0)) ∧
    (∀ p < 2, let s := monitored 0 ([BitVec.ofNat 8 p] ++ bytesOf 8 (16 * 3 + 11) ++ bytesOf 8 1 ++ bytesOf 8 0)
      Takes s [0, 1, 2, 3] 25 ∧ s.request 25 = [BitVec.ofNat 8 p] ++ bytesOf 8 (16 * 3 + 11) ++ bytesOf 8 1 ++ bytesOf 8 0 ∧
        (s.part p).clusters.testBit (12 * 3 + 11) = decide (p = 0) ∧ look 0 s.power (12 * 3 + 11) ≠ 3) := by
  refine ⟨?_, ?_, ?_, ?_, ?_, ?_, ?_, ?_, ?_⟩ <;> decide +kernel
theorem witness_StartsAndResets : (let s := monitored 1 (by1 [3])
     Quiet s ∧ Takes s [0, 1, 2, 3] 1 ∧ s.mem.readN (hostKey s.mon.buf) 1 = [BitVec.ofNat 8 3] ∧ Takes s [0, 1, 2, 3] 0) ∧
    (let s := monitored 3 [] 2000 9
     s.mon.busy = false ∧ s.mon.frozen = false ∧ s.mon.stage = 9 ∧ s.mon.lc ≤ 3 ∧ 256 ≤ s.mon.len ∧ (s.images4.map List.length).foldl (· + ·) 0 ≤ s.mon.len) := by
  refine ⟨?_, ?_⟩ <;> decide +kernel
/-- A debug request for context 0 of core 0, by the owner of partition 0. -/
def debugging (c : Ctx) : State :=
  { monitored 3 (by1 [0, 0, 0, 0] ++ bytesOf 4 0 ++ bytesOf 8 0x1000 ++ bytesOf 8 0x100) with ctxs := [(0, c)] }
/-- A supervisor that called the monitor, with the number of the call and an argument. -/
def calling (n : Nat) (g1 : W64) : State :=
  { user [] with
    ctxs := [(0, { role := .supervisor, frozen := some 8, live := { g := [(1, g1)] } })],
    mon := { (user []).mon with calls := [(0, n)] } , parts := [(0, part1)] }
/-- A supervisor that asks the monitor for power state `p` of a cluster of die 0, now in `q`. -/
def powering (cl p q : Nat) : State :=
  { calling 0 0 with
    ctxs := [(0, { role := .supervisor, frozen := some 8, live := { g := [(1, BitVec.ofNat 64 cl), (2, BitVec.ofNat 64 p)] } })], power := [(cl, q)] }
theorem witness_DebugCallsAndPower : (∀ c ∈ [unit [], { unit [] with frozen := some 15, why := 2 }], let s := debugging c
      Takes s [0, 1, 2, 3] 24 ∧ s.mon.lc = 3 ∧ (s.request 24).drop 4 = bytesOf 4 (gsaOf 0 0) ++ (s.request 24).drop 8 ∧ fld (s.request 24) 1 1 = 0 ∧
        coreExists 0 = true ∧ s.power = [] ∧ (s.ctx (ctxKey 0 0)).role ≠ .free ∧ (s.ctx (ctxKey 0 0)).role ≠ .reserved) ∧
    (∀ x ∈ ([(7, 0, 0), (7, 1, 0), (11, 2, 1), (11, 0, 2)] : List (Nat × Nat × Nat)), let s := powering x.1 x.2.1 x.2.2
      s.isSuper 0 = true ∧ (s.ctx 0).frozen = some 8 ∧ (s.ctx 0).why = 0 ∧ s.mon.busy = false ∧ s.mon.calls.head? = some (0, 0) ∧
        s.partOf (keyCore 0) = some 0 ∧ (s.part 0).clusters.testBit (12 * 0 + x.1) = true ∧ ((s.ctx 0).live.readG 1).toNat = 16 * 0 + x.1 ∧
        ((s.ctx 0).live.readG 2).toNat = x.2.1 ∧ look 0 s.power (12 * 0 + x.1) = x.2.2) ∧
    ({ powering 0 1 0 with mon := { (powering 0 1 0).mon with busy := true } } : State).mon.busy = true ∧
    ((powering 0 1 0).partOf (keyCore 0) = some 0 ∧ keyCore 0 ∈ coresOfCluster (12 * 0 + 0) ∧ keyCore 0 ∉ coresOfCluster (12 * 0 + 7)) ∧
    (∀ x ∈ [(0, 15), (1, 0x20000), (1, 0x18000000), (1, 1), (2, 0)], let s := calling x.1 (BitVec.ofNat 64 x.2)
      s.isSuper 0 = true ∧ (x.2 = 0x18000000 → s.ownsFrame (s.part ((s.partOf (keyCore 0)).getD 16)) false x.2 0x20000 = true) ∧
      (s.ctx 0).frozen = some 8 ∧ (s.ctx 0).why = 0 ∧ s.mon.busy = false ∧ s.mon.calls.head? = some (0, x.1) ∧ ((s.ctx 0).live.readG 1).toNat = x.2) ∧
    (∀ p ∈ [1, 2], let s := { user [] with power := [(47, p)], waking := [(47, 1)], ctxs := [(479 * 8, { unit [] with frozen := some 15, why := 4 })] }
      (look 0 s.power (12 * 3 + 11) = 1 ∨ look 0 s.power (12 * 3 + 11) = 2) ∧ has s.waking (12 * 3 + 11) = true ∧ look 0 s.waking (12 * 3 + 11) ≤ s.now + 1 ∧
        sortedKeys s.power = true ∧ keyCore (479 * 8) ∈ coresOfCluster (12 * 3 + 11) ∧ (s.ctx (479 * 8)).why = 4 ∧ (s.ctx (479 * 8)).frozen = some 15) ∧
    (let s := paged true 0
     (s.part 0).live = true ∧ (s.walk 0 0x500).map (fun l => (l.w, l.res, l.cz)) = some (true, true, false) ∧ ((s.walk 0 0x500).map s.lost) = some false ∧ s.mem.wf = true) := by
  refine ⟨?_, ?_, ?_, ?_, ?_, ?_, ?_⟩ <;> decide +kernel
theorem witness_StepKeepsSound : Sound (coded addWord) ∧ (∃ t, step { coded addWord with turn := [], agenda := [] } = .next t) :=
  ⟨by decide +kernel, ⟨_, rfl⟩⟩

/-! ### What the commands compute, on the values that the spec works out -/

/-- A region of unit stride. -/
def reg (base n fmt : Nat) : Region := { base := base, stride := 1, count := n, fmt := fmt }
/-- Bytes at places. -/
def placed (xs : List (Nat × List Byte)) : Memory := xs.foldl (fun m x => m.writeN x.1 x.2) []
/-- What a command writes, as bytes in element order. -/
def written (r : VRes) : List Byte := r.out.flatMap (fun w => w.bytes)

/-- R219, R63: FP32 `1.5 + 0.25`, `1.5 · 0.25`; an I8 sum that saturates sets `of` and nothing else. -/
theorem test_elementwise : let m := placed [(0x100, le 4 0x3FC00000), (0x200, le 4 0x3E800000), (0x300, by1 [127]), (0x400, by1 [1])]
    let j : VJob := { word := .vAdd vr, dd := reg 0 1 0, da := reg 0x100 1 0, db := reg 0x200 1 0 }
    written (j.run m) = le 4 0x3FE00000 ∧ written ({ j with word := .vMul vr }.run m) = le 4 0x3EC00000 ∧ (j.run m).flags = 0 ∧
      written ({ j with dd := reg 0 1 5, da := reg 0x300 1 5, db := reg 0x400 1 5 }.run m) = by1 [127] := by decide +kernel
/-- R221: 2.5 to I8 rounds to even, toward plus infinity, toward zero; −2.5 toward minus infinity. -/
theorem test_convert : let m := placed [(0x100, le 4 0x40200000), (0x200, le 4 0xC0200000)]
    let j : VJob := { word := .vCvt vr, dd := reg 0 1 5, da := reg 0x100 1 0 }
    written (j.run m) = by1 [2] ∧ (encodeScalar 5 .rne (f32Val 0xC0200000)).1 = 254 := by decide +kernel
/-- R230 on the data of `pgdemo`: thresholds 128, 256, 32, 64. -/
theorem test_pulses : let m := placed [(0x40000, le 2 0x3F00 ++ le 2 0x3FA0 ++ le 2 0x3E00 ++ le 2 0xBE80),
      (0x80000, by1 [0x10, 0x90, 0x7F, 0x80, 0x00, 0xFF, 0x40, 0xC0, 0xFF, 0xFE, 0x00, 0x80, 0x01, 0x7F, 0xAA, 0x55,
        0x1F, 0x20, 0x00, 0x21, 0x40, 0xE0, 0x1F, 0x05, 0x3F, 0x40, 0x41, 0x00, 0x80, 0x3E, 0xFF, 0x10])]
    let j : VJob := { word := .vPgen vr, dd := reg 0xC0000 4 6, da := reg 0x40000 4 1, db := reg 0x80000 32 6 }
    written (j.run m) = by1 [0x55, 0xFF, 0xC5, 0xA9] ∧ (j.run m).flags = 0 := by decide +kernel
/-- R224 to R228 and the lane patterns: a maximum and its index, a sum, a gather of index −1, lanes in pairs, a lane broadcast. -/
theorem test_reductions : let m := placed [(0x100, by1 [3, 250, 9, 9]), (0x200, by1 [2, 255])]
    let j : VJob := { word := .vRmax vr, da := reg 0x100 4 5, b4 := true }
    (j.run m).b4.extractLsb' 0 32 = 9 ∧ ({ j with word := .vRmax { vr with md := 1 } }.run m).b4.extractLsb' 32 32 = 2 ∧
      ({ j with word := .vRsum vr }.run m).b4 = 15 ∧
      written ({ j with word := .vGath vr, dd := reg 0 2 5, db := reg 0x200 2 5 }.run m) = by1 [9, 0] ∧
      written ({ j with word := .xRev vr, dd := reg 0 4 5 }.run m) = by1 [250, 3, 9, 9] ∧
      written ({ j with word := .xBc { vr with md := 1 }, dd := reg 0 4 5 }.run m) = by1 [250, 250, 250, 250] := by decide +kernel
/-- R256 and the header of R330: an empty list of 16-bit keys. -/
theorem test_empty_list : (emptyRecord { vs with md := 1 } 0).take 12 = by1 [0x48, 2, 0, 0, 0, 0, 0, 0, 0, 0, 0, 0] ∧
    (emptyRecord { vs with md := 1 } 0).length = 512 := by decide +kernel
/-- R330: the sort of unit 0 of `xroute`. -/
theorem test_sort : let r : SortRec := { keys := 0x40000, n := 16, ne := 5, kfmt := 0, pol := 2, cap := 4, alt := 0x40040, cnts := 0, offs := 0x20,
                                          perm := 0x100, dmask := 0x200, stat := 0x208 }
    (sortOutputs 0 r [0, 1, 0, 2, 0, 1, 3, 0, 1, 0, 2, 1, 0, 3, 1, 2] [4, 65535, 65535, 65535, 65535]).flatMap (fun w => w.bytes) =
      ([4, 4, 3, 2, 2, 0, 4, 8, 11, 13] ++ [0, 2, 4, 7, 1, 5, 8, 11, 3, 10, 15, 6, 13, 9, 12, 0xFFFFFFFF]).flatMap (le 4) ++
        by1 [0x00, 0x40] ++ le 8 0x200001 := by decide +kernel
/-- The pair of `xstep` (R329), its window, and what an FP32 word is. -/
def pair0 : Pair :=
  let lv := fun (xs : List Int) => ((List.range 16).map (fun n => (512 * (n / 4) + n % 4, xs.getD n 0))).foldl (fun m (x : Nat × Int) => put m x.1 x.2) []
  { f := lv [10, -4, 6, 0, -8, 12, 3, -5, 4, 0, -6, 9, 7, -2, 1, 3], s := lv [16, -32, 0, 64, 0, 48, -16, 8, -24, 0, 40, -8, 32, 16, -48, 0],
    sigma := [(1, 2), (3, -2)], aF := 0x3C000000, aS := 0x3A800000 }
/-- The window of `xstep`. -/
def entry0 : AEntry := { grp := 0, pair := 0, nrows := 4, ncols := 4, op := .scl 0 0 0 }
/-- FP32 words of values. -/
def words32 (xs : List Fp) : List W32 := xs.map f32Bits
/-- R287, R329: the forward and the backward read of `xstep`. -/
theorem test_reads_array : let a := f32Val 0x3C800000
    let b := f32Val 0x3B800000
    let x := [0x3F000000, 0xBE800000, 0x3F800000, 0].map f32Val
    let d := [0x3E800000, 0xBF000000, 0x3E000000, 0xBF800000].map f32Val
    words32 (readToken pair0 entry0 false 0 a b x none).1 = [0x3D900000, 0xBDB00000, 0x3C800000, 0x3DF80000] ∧
      words32 (readToken pair0 entry0 true 0 a b d none).1 = [0xBC000000, 0xBD800000, 0xBD900000, 0xBC800000] ∧
      (readToken pair0 entry0 false 0 a b x none).2 = 0 := by decide +kernel
/-- R290, R329: the update of `xstep`, and the read after it. -/
theorem test_update : let x := [0x3F000000, 0xBE800000, 0x3F800000, 0].map f32Val
    let d := [0x3E800000, 0xBF000000, 0x3E000000, 0xBF800000].map f32Val
    let m := by1 [0xB6, 0x29, 0xFF, 0x00]
    let c := by1 [0x04, 0x23, 0x00, 0xD6]
    let p := pair0.burst entry0 x d ((List.range 4).map (maskPulses 8 4 m)) ((List.range 4).map (maskPulses 8 4 c))
    (List.range 16).map (fun n => p.fast (n / 4) (n % 4)) = [9, -2, 6, 4, -8, 10, 3, -5, 3, 3, -6, 14, 7, -2, 1, 3] ∧
      words32 (readToken p entry0 false 0 (f32Val 0x3C800000) (f32Val 0x3B800000) x none).1 = [0x3D700000, 0xBD500000, 0x3C800000, 0x3E340000] := by
  decide +kernel

/-! ### Single steps of the other classes -/

/-- R178: `m.ld.w.sx` of 0x80000000; `m.st` of a register; R181: an add that answers the old value. -/
theorem test_memory : newest (after (exec (.mLd { m12 with sz := 2, sx := true }) (user [(1, 0x100)] (placed [(0x100, le 4 0x80000000)])))) = 0xFFFFFFFF80000000 ∧
    (after (exec (.mSt { m12 with sz := 1 }) (user [(1, 0x100), (2, 0x12345)]))).mem = [(0x100, 0x45), (0x101, 0x23)] := by decide +kernel
/-- R379, R381: a misaligned load traps with cause 5 and its address and touches nothing. -/
theorem test_misaligned : let t := after (exec (.mLd m12) (user [(1, 0x101)]))
    (t.ctx 0).frozen = some 5 ∧ (t.ctx 0).pend.map (fun e => (e.cause, e.tval)) = some (5, 0x101) ∧ (t.ctx 0).live.flights = [] := by decide +kernel
/-- R186: `q.tokst` packs a count of 5 with `part` and `err`. R44: `hdr` with `pop` of `q0`. -/
theorem test_tokens : let s := { user [] with ctxs := [(0, { unit [] with tok := [(7, { cnt := 5, part := true, err := true })], live := { q := [(0, [1, 2])] } })] }
    newest (after (exec (.qTokst { tq with k := 7 }) s)) = 0x5000A ∧ ((after (exec (.hdr { hd with pop := 1 }) s)).ctx 0).live.queue 0 = [2] := by decide +kernel
/-- R276: `t.cop` of a legal pattern, and of one whose first field is 3. -/
theorem test_pattern : ((after (exec (.tCop { q1 with kw := false, k := 0 }) (commanding (le 8 0x5555555555555555)))).ctx 0).cpat = 0x5555555555555555 ∧
    newest (after (exec (.tCop { q1 with kw := false, k := 0 }) (commanding (le 8 3)))) = 1 := by decide +kernel
/-- R272, R278: a product of a record with a row count of 0 is rejected, and a word on another partition's pair traps with cause 6. -/
theorem test_rejections : newest (after (exec (.tMm q1) (commanding []))) = 1 ∧ ((after (exec (.tMm q1) (commanding []))).ctx 0).token 2 = { err := true } ∧
    ((after (exec (.aFwd (a31 0)) { commanding [] with owners := [] })).ctx 0).frozen = some 6 := by decide +kernel
/-- R189, R31, R205: a drain waits, an offer is published, a unit leaves. -/
theorem test_scheduling : ((after (exec (.qDrain (q0 3)) (user []))).ctx 0).drain.map (fun d => (d.scope, d.fence)) = some (3, false) ∧
    look 0 ((after (exec (.qOffer (q0 2)) (user []))).core 0).offers 0 = 2 ∧ ((after (exec (.qExit tq) (user []))).ctx 0).exiting = true := by decide +kernel
/-- R389, R391: reads of registers; a user's read traps with cause 6; a user trap carries its code. -/
theorem test_privileged : let s := sup [(1, 5)]
    ((after (exec (.pCsrr (pv1 0x026 31)) s)).ctx 7).live.flights.length = 1 ∧ ((after (exec (.pCsrr (pv1 0x020)) (user []))).ctx 0).frozen = some 6 ∧
    ((after (exec (.pTrap (pv1 5 0)) (user []))).ctx 0).pend.map (fun e => (e.cause, e.tval)) = some (8, 5) := by decide +kernel
/-- R36, R34: an episode of line 15 sets `p7` of its members by the votes and ends. -/
theorem test_sync : let t := after (exec (.syncEpisodeResume 15) (synced [(0, true, 100), (1, false, 104)] (some 200) 0))
    (t.ctx 0).live.readP 7 = true ∧ (t.ctx 1).live.readP 7 = true ∧ (t.line 15).arr = [] := by decide +kernel
/-- R45, R131: a job address that is not a multiple of 64 is dropped and counted. -/
theorem test_mailbox : ((after (exec (.jobAddressWrite 0 7) (user []))).part 0).dropped = 1 ∧
    ((after (exec (.jobAddressWrite 0 64) (user []))).part 0).mbox = [64] := by decide +kernel
/-- R303, R306: a good flit in sequence is delivered and the next number wraps; a bad one counts. -/
theorem test_link : let s := linked { vcs := [(0, { rseq := 4095, toAck := 3 })] } [crossing]
    let f : Flit := { vc := 0, rsp := false, seq := 4095, avc := 0, aseq := 0, akt := 0, idle := false, pay := [5] }
    (((after (exec (.flitReception 3 1 f true) s)).link 3 1).vc 0).rseq = 0 ∧ ((after (exec (.flitReception 3 1 f false) s)).link 3 1).crc = 1 := by decide +kernel

end Sys2Proof.Tests
end

/-! PROOF. What reset leaves (O60): the parts of the package after reset, the registers of a part at its defaults, and the statement. -/

namespace Sys2Proof.Machine

/-! ### Each part of the package after reset

No table of `State.reset` lists an entry, so that every part reads as the default of its table. -/

@[simp] theorem State.reset_ctx (k : Nat) : State.reset.ctx k = {} := rfl
@[simp] theorem State.reset_core (c : Nat) : State.reset.core c = {} := rfl
@[simp] theorem State.reset_die (d : Nat) : State.reset.die d = {} := rfl
@[simp] theorem State.reset_link (d n : Nat) : State.reset.link d n = {} := rfl
@[simp] theorem State.reset_line (l : Nat) : State.reset.line l = {} := rfl
@[simp] theorem State.reset_part (p : Nat) : State.reset.part p = {} := rfl
@[simp] theorem State.reset_slot (n : Nat) : State.reset.slot n = {} := rfl

/-- No byte is listed, and an unlisted byte reads as 0 (log 3). -/
@[simp] theorem State.reset_mem_read (a : Nat) : State.reset.mem.read a = 0 := rfl

theorem State.reset_sound : Sound State.reset := rfl

/-! ### The registers of a context at their defaults -/

theorem Arch.readG_default (n : Nat) : ({} : Arch).readG n = 0 := by
  by_cases h : n = 0 <;> simp [Arch.readG, h]

/-- R161: of the predicate byte, 1 by default, only bit 0 is set. -/
theorem Arch.readP_default_of_pos {n : Nat} (h : 0 < n) : ({} : Arch).readP n = false := by
  have hn : n ≠ 0 := h.ne'
  simp [Arch.readP, hn]

theorem Arch.readB_default (n : Nat) : ({} : Arch).readB n = 0 := rfl
theorem Arch.desc_default (n : Nat) : ({} : Arch).desc n = {} := rfl
theorem Arch.loop_default (l : Bool) : ({} : Arch).loop l = {} := by cases l <;> rfl
theorem Ctx.token_default (k : Nat) : ({} : Ctx).token k = {} := rfl

theorem Desc.pack_default : ({} : Desc).pack = 0 := by decide
theorem Loop.pack_default : ({} : Loop).pack = (0, 0) := by decide

/-- R342, R381: `csr.tcause` to `csr.tsel` and `csr.tvec` of a context read 0. -/
theorem Ctx.csr_default : ∀ x ∈ ([0x020, 0x021, 0x022, 0x023, 0x024, 0x02B] : List Nat), ({} : Ctx).csr x 0 = 0 := by
  decide

/-! ### The statement -/

/-- Settles O60: every part of the package reads as its default (`State.reset_ctx` and the lemmas beside it), and the
defaults are the values named. -/
theorem resetValues : Obligations.ResetValues := by
  unfold Obligations.ResetValues
  simp only [State.reset_ctx, State.reset_core, State.reset_die, State.reset_link, State.reset_line, State.reset_part,
    State.reset_slot, State.reset_mem_read, Arch.readG_default, Arch.readB_default, Arch.desc_default, Arch.loop_default,
    Ctx.token_default, Desc.pack_default, Loop.pack_default, look_nil, implies_true, and_true, true_and]
  refine ⟨State.reset_sound, rfl, rfl, ?context, ?scheduling⟩
  case context => exact fun _ => ⟨Arch.readP_zero _, fun _ hn => Arch.readP_default_of_pos hn, Ctx.csr_default⟩
  case scheduling => exact ⟨fun _ => rfl, rfl, rfl, rfl, rfl, rfl, rfl, rfl, rfl, rfl⟩

end Sys2Proof.Machine

/-! PROOF. A step runs the word at the program counter (O5). -/

namespace Sys2Proof.Machine

open Sys2Proof.Cert

/-! ### The class of a decoded word -/

theorem classOf_eq_cls_of_decodeWord {w : W32} {i : Instr} (h : decodeWord w = .ok i) : (classOf w).toNat = i.cls := by
  unfold decodeWord at h
  split at h <;> rename_i hc
  case h_1 | h_11 => cases h; exact hc
  case h_12 => cases h
  all_goals
    rw [hc]
    simp only [decodeClassS, decodeClassM, decodeClassV, decodeClassF, decodeClassX, decodeClassT, decodeClassA, decodeClassQ, decodeClassP] at h
    split at h <;> cases h <;> rfl

/-! ### A chain of one word is fetched as a bundle of that word -/

theorem bundleTrap_oneWord {w : W32} {i : Instr} (hd : decodeWord w = .ok i) (h1 : 1 ≤ i.cls) (h9 : i.cls ≤ 9) (a : Nat) :
    bundleTrap a [w] none = none := by
  have hc : clsN w = i.cls := classOf_eq_cls_of_decodeWord hd
  have hm : misplaced [] w = false := by
    unfold misplaced
    rw [hc]
    obtain h | h | h | h | h | h | h | h | h : i.cls = 1 ∨ i.cls = 2 ∨ i.cls = 3 ∨ i.cls = 4 ∨ i.cls = 5 ∨ i.cls = 6 ∨ i.cls = 7 ∨
        i.cls = 8 ∨ i.cls = 9 := by omega
    all_goals rw [h]; rfl
  simp [bundleTrap, firstMisplaced, List.range_one, hm]

theorem decodeTrap_oneWord {w : W32} {i : Instr} (hd : decodeWord w = .ok i) (hw : i.wf = true) (he : i.extOk [] = true) :
    decodeTrap [w] = none := by
  simp [decodeTrap, List.range_one, illegalWord, extsAfter, hd, hw, he]

theorem bundleWords_oneWord {w : W32} {i : Instr} (hd : decodeWord w = .ok i) (h9 : i.cls ≤ 9) :
    bundleWords [w] = [{ idx := 0, raw := w, instr := i, exts := [], slot := 0 }] := by
  have hc : clsN w = i.cls := classOf_eq_cls_of_decodeWord hd
  have hn : clsN w ≠ 10 := by omega
  have hs : slotOf [w] 0 = 0 := by
    unfold slotOf countCls
    by_cases h : i.cls = 9 <;> simp [hc, h]
  simp [bundleWords, List.range_one, hn, hd, hs, extsAfter]

theorem headerOf_oneWord (w : W32) {i : Instr} (h1 : 1 ≤ i.cls) :
    headerOf [{ idx := 0, raw := w, instr := i, exts := [], slot := 0 }] = none := by
  unfold headerOf
  split
  · rename_i h
    cases h
    simp [Instr.cls] at h1
  · rfl

theorem State.afterPads_word {s : State} {img : Nat} {pc : BitVec 32} {w : W32} (hw : s.codeWord img pc.toNat = some w) (h0 : w ≠ 0) :
    s.afterPads img pc = pc := by
  have hn : ¬ s.codeWord img pc.toNat = some 0 := by rw [hw]; exact fun h => h0 (Option.some.inj h)
  rw [State.afterPads, State.skipPads, if_neg hn]
  exact BitVec.ofNat_toNat ..

/-- R98, R99: a word that ends its chain is fetched as a bundle of its own. -/
theorem State.fetch_oneWord {s : State} {img : Nat} {pc : BitVec 32} {w : W32} {i : Instr} (hw : s.codeWord img pc.toNat = some w) (h0 : w ≠ 0)
    (hc : chainBit w = false) (hd : decodeWord w = .ok i) (hwf : i.wf = true) (he : i.extOk [] = true) (h1 : 1 ≤ i.cls) (h9 : i.cls ≤ 9) :
    s.fetch img pc = .bundle (oneWord pc w i) := by
  have hch : s.chain img 17 pc.toNat = ([w], none) := by simp [State.chain, hw, hc]
  unfold State.fetch
  simp [State.afterPads_word hw h0, hch, bundleTrap_oneWord hd h1 h9, decodeTrap_oneWord hd hwf he, bundleWords_oneWord hd h9, headerOf_oneWord w h1, oneWord]

/-! ### The issue stage of a core whose primary alone can issue -/

/-- R20, R114: a context that runs and that nothing stops issues the bundle it fetches, when it has no header and meets no breakpoint, trap or interlock. -/
theorem State.plan_issue {s : State} {k : Nat} {off : Nat → Nat} {b : Bundle} (hr : (s.ctx k).runs = true) (hs : (s.ctx k).stopped s.now = false)
    (hy : (s.ctx k).syncTo = none) (hf : s.fetch (s.ctx k).img (s.ctx k).live.pc = .bundle b) (hh : b.hdr = none)
    (hb : (s.ctx k).breaksAt b.start = false) (ht : s.headerTrap k b true = none) (hi : s.interlocked k off b true = false) :
    s.plan k off = .issue b := by
  unfold State.plan
  simp only [hr, hs, Bool.not_true, Bool.or_false, Bool.false_eq_true, if_false, hf, hb, hy, hh, Arch.guardOf, ht, hi]

theorem State.plan_blocked_of_candidate {s : State} {core primary h : Nat} (hc : s.candidate core primary = none) (h8 : h < 8) (hp : h ≠ primary) :
    s.plan (ctxKey core h) noOffset = .blocked := by
  have hx := List.find?_eq_none.mp hc h (List.mem_range.mpr h8)
  simpa [hp, State.ready] using hx

/-- R25: no context of the core stalls on a closed head when its primary issues and no other context is ready. -/
theorem State.closedHeads_nil {s : State} {core primary : Nat} {b : Bundle} (hc : s.candidate core primary = none)
    (hp : s.plan (ctxKey core primary) noOffset = .issue b) : s.closedHeads core = [] := by
  unfold State.closedHeads
  refine List.filterMap_eq_nil_iff.mpr fun k hk => ?_
  obtain ⟨h, h8, rfl⟩ := List.mem_map.mp hk
  by_cases hh : h = primary
  · simp [hh, hp]
  · simp [State.plan_blocked_of_candidate hc (List.mem_range.mp h8) hh]

@[simp] theorem State.closeHeads_nil (s : State) : s.closeHeads [] = s := rfl

/-- R20, R112: a core whose primary alone can issue issues the primary's bundle on its own: its words run, and its one trap is taken or the bundle ends. -/
theorem issueCore_alone {s : State} {core : Nat} {b : Bundle} (hx : (s.core core).choosing = false)
    (hr : (s.ctx (ctxKey core (s.core core).primary)).runs = true) (hp : s.plan (ctxKey core (s.core core).primary) noOffset = .issue b)
    (hc : s.candidate core (s.core core).primary = none) :
    issueCore core s = issueOne (ctxKey core (s.core core).primary) b false noOffset s := by
  have hstage : issueStage core s = issueOne (ctxKey core (s.core core).primary) b false noOffset s := by
    unfold issueStage
    simp only [hx, hr, hp, hc, issueAlone, trapsOf, issueOne, conclude, Bool.not_true, Bool.or_false, Bool.false_eq_true, if_false]
    cases runWords noOffset (ordered b) [] (s.begin (ctxKey core (s.core core).primary) b false) with
    | next r => cases h : bestTrap r.2 <;> simp [h]
    | fault r => rfl
    | refused r => rfl
  unfold issueCore
  rw [hstage, State.closedHeads_nil hc hp]
  cases issueOne (ctxKey core (s.core core).primary) b false noOffset s <;> rfl

/-- R112: a bundle of one word takes its word in hand, runs it, and takes its trap or ends. -/
theorem issueOne_oneWord (k : Nat) (pc : BitVec 32) (w : W32) (i : Instr) (off : Nat → Nat) (s : State) :
    issueOne k (oneWord pc w i) false off s =
      (match exec i ((s.begin k (oneWord pc w i) false).take { idx := 0, raw := w, instr := i, exts := [], slot := 0 } off) with
      | .next t => (match t.iss.trap with
        | some y => .next (s.trapAt k pc y)
        | none => .next (t.finish (oneWord pc w i)))
      | .fault r => .fault r
      | .refused r => .refused r) := by
  have ho : ordered (oneWord pc w i) = (oneWord pc w i).words := rfl
  unfold issueOne
  rw [ho]
  simp only [oneWord, runWords, runWord, runExts]
  cases exec i _ with
  | next t => cases h : t.iss.trap <;> simp [h, conclude, bestTrap, sortBy, insertBy]
  | fault r => rfl
  | refused r => rfl

/-! ### The statement -/

/-- A step lets the next core issue when no event of the start of the cycle is left. -/
theorem step_issues {s : State} {c : Nat} {cs : List Nat} (ha : s.agenda.head?.any startsCycle = false) (ht : s.turn = c :: cs) :
    step s = issueCore c { s with turn := cs } := by
  unfold step
  rw [ht]
  cases hs : s.agenda with
  | nil => rfl
  | cons e es =>
    have he : startsCycle e = false := by simpa [hs] using ha
    simp [he]

/-- Settles O5: the primary alone can issue, its bundle is the one word at its program counter, and the step issues it. -/
theorem stepRunsDecoded : Obligations.StepRunsDecoded := by
  unfold Obligations.StepRunsDecoded
  intro s c cs w i k x s0 b hagenda hturn hchoosing hruns hstopped hsync hword hpad hchain hdecode hwf hext h1 h9 hbreak htrap hlock hcand
  have hfetch : s0.fetch x.img x.live.pc = .bundle b := State.fetch_oneWord hword hpad hchain hdecode hwf hext h1 h9
  have hplan : s0.plan k noOffset = .issue b := State.plan_issue hruns hstopped hsync hfetch rfl hbreak htrap hlock
  rw [step_issues hagenda hturn, issueCore_alone (s := s0) hchoosing hruns hplan hcand]
  exact issueOne_oneWord k x.live.pc w i noOffset s0

end Sys2Proof.Machine

/-! PROOF. Headers and EXT words (O38). -/

namespace Sys2Proof.Machine

/-! ### Heads that pop -/

@[simp] theorem Arch.pop_g (a : Arch) (n : Nat) : (a.pop n).g = a.g := rfl
@[simp] theorem Arch.pop_p (a : Arch) (n : Nat) : (a.pop n).p = a.p := rfl
@[simp] theorem Arch.pop_pc (a : Arch) (n : Nat) : (a.pop n).pc = a.pc := rfl

theorem Arch.queue_pop (a : Arch) (n m : Nat) : (a.pop n).queue m = if m = n then (a.queue n).tail else a.queue m := look_put _ _ _ _ _

/-- Popping heads changes no register but the queue heads. -/
theorem Arch.foldl_pop_rest (ns : List Nat) (a : Arch) :
    (ns.foldl Arch.pop a).g = a.g ∧ (ns.foldl Arch.pop a).p = a.p ∧ (ns.foldl Arch.pop a).pc = a.pc := by
  induction ns generalizing a with
  | nil => exact ⟨rfl, rfl, rfl⟩
  | cons n ns ih => exact ih (a.pop n)

/-- R103: of distinct heads each that is listed loses its oldest entry, and no other does. -/
theorem Arch.queue_foldl_pop {ns : List Nat} (hn : ns.Nodup) (a : Arch) (m : Nat) :
    (ns.foldl Arch.pop a).queue m = if m ∈ ns then (a.queue m).tail else a.queue m := by
  induction ns generalizing a with
  | nil => rfl
  | cons n ns ih =>
    obtain ⟨hnot, hns⟩ := List.nodup_cons.mp hn
    rw [List.foldl_cons, ih hns, Arch.queue_pop]
    by_cases hm : m = n
    · subst hm; simp [hnot]
    · simp [hm]

theorem nodup_bitsSet (n x : Nat) : (bitsSet n x).Nodup := List.nodup_range.filter _

@[simp] theorem mem_bitsSet {n x i : Nat} : i ∈ bitsSet n x ↔ i < n ∧ x.testBit i = true := by simp [bitsSet]

/-- R103: the registers of a context once the heads of a header's `pop` have advanced. -/
def Arch.popped (a : Arch) (f : HDR) : Arch := (bitsSet 8 f.pop.toNat).foldl Arch.pop a

theorem Arch.queue_popped (a : Arch) (f : HDR) {n : Nat} (hn : n < 8) :
    (a.popped f).queue n = if f.pop.getLsbD n then (a.queue n).tail else a.queue n := by
  rw [Arch.popped, Arch.queue_foldl_pop (nodup_bitsSet _ _)]
  simp [hn, BitVec.testBit_toNat]

/-! ### What a header does -/

/-- The state of a header's bundle once its heads have advanced. -/
abbrev State.popped (s : State) (f : HDR) : State := s.updLive (fun a => a.popped f)

theorem exec_hdr_plain {f : HDR} (hy : f.y = false) (s : State) : exec (.hdr f) s = .next (s.popped f) := by
  show execHdr f s = _
  simp only [execHdr, hy]
  rfl

theorem exec_hdr_held {f : HDR} (hy : f.y = true) {s : State} (hs : s.cur.speculative = true) : exec (.hdr f) s = .next ((s.popped f).hold .yield) := by
  have hs' : (s.popped f).cur.speculative = true := by rw [State.cur_updLive]; exact hs
  show execHdr f s = _
  simp only [execHdr, hy]
  exact congrArg Host.Outcome.next (if_pos hs')

/-- R20, R153: the yield is noted, and a primary hands the core on. -/
theorem exec_hdr_yields {f : HDR} (hy : f.y = true) {s : State} (hs : Settled s) :
    exec (.hdr f) s = .next (((s.popped f).updCur (fun c => { c with lastY := c.ctime })).updCore s.iss.core
      (fun x => if x.primary = s.iss.h then { x with choosing := true } else x)) := by
  have hs' : ¬ (s.popped f).cur.speculative = true := by rw [State.cur_updLive]; exact Bool.eq_false_iff.mp hs
  show execHdr f s = _
  simp only [execHdr, hy]
  exact congrArg Host.Outcome.next (if_neg hs')

/-- What a header leaves: the stores, the other contexts, the arrays, the shared parts, and the registers of its context but for the heads. -/
structure HeaderFrame (s : State) (f : HDR) (t : State) : Prop where
  mem : SameMemory s t
  others : SameOthers s.key s t
  arrays : SameArrays s t
  shared : SameShared s t
  live : (t.ctx s.key).live = s.cur.live.popped f

theorem State.cur_popped (s : State) (f : HDR) : (s.popped f).ctx s.key = { s.cur with live := s.cur.live.popped f } := s.cur_updLive _

theorem State.popped_frame (s : State) (f : HDR) : HeaderFrame s f (s.popped f) :=
  ⟨fun _ => rfl, fun _ hj => State.ctx_updCtx_other _ _ hj, .refl s, .refl s, by rw [s.cur_popped]⟩

/-- What changes no registers of the header's context, no other context, no array and nothing shared keeps the frame. -/
theorem HeaderFrame.updCur {s t : State} {f : HDR} (h : HeaderFrame s f t) (hk : t.key = s.key) (g : Ctx → Ctx) (hg : ∀ c, (g c).live = c.live) :
    HeaderFrame s f (t.updCur g) where
  mem := h.mem
  others := fun j hj => (State.ctx_updCtx_other _ _ (by rw [hk]; exact hj)).trans (h.others j hj)
  arrays := h.arrays
  shared := h.shared
  live := by
    show (State.ctx (State.updCtx _ _ _) _).live = _
    rw [hk, State.ctx_updCtx_same, hg, h.live]

theorem HeaderFrame.chooses {s t : State} {f : HDR} (h : HeaderFrame s f t) (c hw : Nat) :
    HeaderFrame s f (t.updCore c (fun x => if x.primary = hw then { x with choosing := true } else x)) where
  mem := h.mem
  others := h.others
  arrays := fun d => by
    by_cases hd : d = c
    · subst hd
      rw [State.core_updCore_same]
      split <;> exact h.arrays d
    · rw [State.core_updCore_other _ _ hd]; exact h.arrays d
  shared := h.shared
  live := h.live

/-! ### The statement -/

/-- Settles O38: by the three ways a header ends (no yield, a yield that is held, a yield that takes effect). -/
theorem headersAndExtensions : Obligations.HeadersAndExtensions := by
  unfold Obligations.HeadersAndExtensions
  refine ⟨fun s f => ?header, fun s f => rfl⟩
  have hframe : ∀ t, HeaderFrame s f t → SameMemory s t ∧ SameOthers s.key s t ∧ SameArrays s t ∧ SameShared s t ∧
      (∀ n < 8, (t.ctx s.key).live.queue n = if f.pop.getLsbD n then (s.cur.live.queue n).tail else s.cur.live.queue n) ∧
      (t.ctx s.key).live.g = s.cur.live.g ∧ (t.ctx s.key).live.p = s.cur.live.p ∧ (t.ctx s.key).live.pc = s.cur.live.pc := by
    rintro t ⟨hm, ho, ha, hsh, hl⟩
    obtain ⟨hg, hp, hpc⟩ := Arch.foldl_pop_rest (bitsSet 8 f.pop.toNat) s.cur.live
    rw [hl]
    exact ⟨hm, ho, ha, hsh, fun n hn => Arch.queue_popped _ f hn, hg, hp, hpc⟩
  have hpop := s.popped_frame f
  cases hy : f.y with
  | false =>
    obtain ⟨h1, h2, h3, h4, h5, h6, h7, h8⟩ := hframe _ hpop
    exact ⟨_, exec_hdr_plain hy s, h1, h2, h3, h4, h5, h6, h7, h8, nofun, fun _ => ⟨by rw [s.cur_popped], rfl⟩⟩
  | true =>
    cases hs : s.cur.speculative with
    | true =>
      obtain ⟨h1, h2, h3, h4, h5, h6, h7, h8⟩ := hframe _ (hpop.updCur rfl (fun c => { c with snaps := addHeld .yield c.snaps }) (fun _ => rfl))
      exact ⟨_, exec_hdr_held hy hs, h1, h2, h3, h4, h5, h6, h7, h8, fun _ h => absurd (hs.symm.trans h) (by decide), nofun⟩
    | false =>
      obtain ⟨h1, h2, h3, h4, h5, h6, h7, h8⟩ :=
        hframe _ ((hpop.updCur rfl (fun c => { c with lastY := c.ctime }) (fun _ => rfl)).chooses s.iss.core s.iss.h)
      have hctime : (s.popped f).cur.ctime = s.cur.ctime := by rw [State.cur_updLive]
      refine ⟨_, exec_hdr_yields hy hs, h1, h2, h3, h4, h5, h6, h7, h8, fun _ _ => ⟨?_, fun hp => ?_⟩, nofun⟩
      · exact (congrArg Ctx.lastY ((s.popped f).cur_updCur (fun c => { c with lastY := c.ctime }))).trans hctime
      · exact (congrArg Core.choosing (State.core_updCore_same _ _ _)).trans (congrArg Core.choosing (if_pos hp))

end Sys2Proof.Machine

/-! PROOF. The tables of levels and units: what a lookup finds after a write, and which operations on work leave which tables alone. -/

namespace Sys2Proof.Machine

variable {α : Type}

theorem has_put (m : SMap α) (k j : Nat) (v : α) : has (put m k v) j = (j == k || has m j) := by
  induction m with
  | nil => rfl
  | cons e m ih =>
    obtain ⟨i, w⟩ := e
    rw [put]
    split
    · subst k; simp [has]
    · split
      · rfl
      · simp only [has, ih]
        cases j == i <;> cases j == k <;> rfl

theorem put_put (m : SMap α) (k : Nat) (v w : α) : put (put m k v) k w = put m k w := by
  induction m with
  | nil => simp [put]
  | cons e m ih =>
    obtain ⟨j, x⟩ := e
    by_cases hk : k = j
    · simp [put, hk]
    · by_cases hlt : k < j <;> simp [put, hk, hlt, ih]

theorem State.updCtx_updCtx (s : State) (k : Nat) (f g : Ctx → Ctx) : (s.updCtx k f).updCtx k g = s.updCtx k (fun c => g (f c)) := by
  have h : (s.updCtx k f).ctx k = f (s.ctx k) := s.ctx_updCtx_same k f
  show { s with ctxs := put (put s.ctxs k (f (s.ctx k))) k (g ((s.updCtx k f).ctx k)) } = ({ s with ctxs := put s.ctxs k (g (f (s.ctx k))) } : State)
  rw [h, put_put]

/-- A key that is listed has its entry in the list. -/
theorem mem_of_has {d : α} : ∀ {m : SMap α} {k : Nat}, has m k = true → (k, look d m k) ∈ m
  | (j, w) :: m, k, h => by
    by_cases hk : k = j
    · simp [look, hk]
    · simp only [has, Bool.or_eq_true, beq_iff_eq, hk, false_or] at h
      simpa only [look, hk, if_false] using List.mem_cons_of_mem (j, w) (mem_of_has (d := d) h)

/-- What no step of a fold changes, the fold leaves alone. -/
theorem foldl_keeps {β γ δ : Type} (g : β → γ) (f : β → δ → β) (h : ∀ b x, g (f b x) = g b) (xs : List δ) (b : β) : g (xs.foldl f b) = g b := by
  induction xs generalizing b with
  | nil => rfl
  | cons x xs ih => rw [List.foldl_cons, ih, h]

/-- Where every step keeps an invariant, a fold establishes what one of its steps establishes and every step keeps. -/
theorem foldl_establishes {β δ : Type} {I Q : β → Prop} {f : β → δ → β} {x : δ} {xs : List δ} (hx : x ∈ xs) (hI : ∀ y ∈ xs, ∀ b, I b → I (f b y))
    (hQ : ∀ b, I b → Q (f b x)) (hkeep : ∀ y ∈ xs, ∀ b, I b → Q b → Q (f b y)) {b : β} (hb : I b) : Q (xs.foldl f b) := by
  have keeps : ∀ (ys : List δ) (b : β), (∀ y ∈ ys, y ∈ xs) → I b → Q b → Q (ys.foldl f b) := by
    intro ys
    induction ys with
    | nil => exact fun b _ _ h => h
    | cons y ys ih =>
      intro b hys hb hq
      have hy := hys y List.mem_cons_self
      exact ih _ (fun z hz => hys z (List.mem_cons_of_mem _ hz)) (hI y hy b hb) (hkeep y hy b hb hq)
  obtain ⟨as, bs, rfl⟩ := List.append_of_mem hx
  have hI' : I (as.foldl f b) := List.foldlRecOn as f hb (fun b h y hy => hI y (List.mem_append_left _ hy) b h)
  rw [List.foldl_append, List.foldl_cons]
  exact keeps bs _ (fun y hy => List.mem_append_right _ (List.mem_cons_of_mem _ hy)) (hI x hx _ hI') (hQ _ hI')

/-! ### Levels -/

theorem State.level?_congr {s t : State} (h : t.levels = s.levels) (x : Nat) : t.level? x = s.level? x := by
  unfold State.level?; rw [h]

theorem State.mem_levels {s : State} {h : Nat} {l : Level} (hl : s.level? h = some l) : (h, l) ∈ s.levels := by
  unfold State.level? at hl
  split at hl
  case isTrue hk => exact Option.some.inj hl ▸ mem_of_has hk
  case isFalse => cases hl

theorem State.level?_put (s : State) (h x : Nat) (l : Level) :
    ({ s with levels := put s.levels h l } : State).level? x = if x = h then some l else s.level? x := by
  unfold State.level?
  by_cases hx : x = h <;> simp [has_put, look_put, hx]

theorem State.updLevel_of_some {s : State} {h : Nat} {l : Level} (hl : s.level? h = some l) (f : Level → Level) :
    s.updLevel h f = { s with levels := put s.levels h (f l) } := by
  simp only [State.updLevel, hl]

theorem State.updLevel_of_none {s : State} {h : Nat} (hl : s.level? h = none) (f : Level → Level) : s.updLevel h f = s := by
  simp only [State.updLevel, hl]

theorem State.level?_updLevel (s : State) (h x : Nat) (f : Level → Level) :
    (s.updLevel h f).level? x = if x = h then (s.level? h).map f else s.level? x := by
  cases hl : s.level? h with
  | none => rw [State.updLevel_of_none hl]; split <;> simp_all
  | some l => rw [State.updLevel_of_some hl, State.level?_put]; rfl

/-! ### Units -/

theorem State.unit?_congr {s t : State} (h : t.units = s.units) (x : Nat) : t.unit? x = s.unit? x := by
  unfold State.unit?; rw [h]

theorem State.mem_units {s : State} {n : Nat} {u : Unit} (hu : s.unit? n = some u) : (n, u) ∈ s.units := by
  unfold State.unit? at hu
  split at hu
  case isTrue hk => exact Option.some.inj hu ▸ mem_of_has hk
  case isFalse => cases hu

theorem State.unit?_put (s : State) (n x : Nat) (u : Unit) :
    ({ s with units := put s.units n u } : State).unit? x = if x = n then some u else s.unit? x := by
  unfold State.unit?
  by_cases hx : x = n <;> simp [has_put, look_put, hx]

theorem State.updUnit_of_some {s : State} {n : Nat} {u : Unit} (hu : s.unit? n = some u) (f : Unit → Unit) :
    s.updUnit n f = { s with units := put s.units n (f u) } := by
  simp only [State.updUnit, hu]

theorem State.unit?_updUnit (s : State) (n x : Nat) (f : Unit → Unit) :
    (s.updUnit n f).unit? x = if x = n then (s.unit? n).map f else s.unit? x := by
  cases hu : s.unit? n with
  | none => simp only [State.updUnit, hu]; split <;> simp_all
  | some u => rw [State.updUnit_of_some hu, State.unit?_put]; rfl

/-- A record of a unit is memory. -/
theorem State.writeUnitRecord_eq (s : State) (u : Unit) : ∃ m, s.writeUnitRecord u = { s with mem := m } := by
  unfold State.writeUnitRecord
  split
  · exact ⟨_, rfl⟩
  · exact ⟨s.mem, rfl⟩

/-- Changing a unit writes its entry, and perhaps its record in memory. -/
theorem State.changeUnit_of_some {s : State} {n : Nat} {u : Unit} (hu : s.unit? n = some u) (f : Unit → Unit) :
    ∃ m, s.changeUnit n f = { s with units := put s.units n { f u with when_ := s.now, prev := u.owner }, mem := m } := by
  simp only [State.changeUnit, hu]
  rw [State.updUnit_of_some hu]
  split
  · exact ⟨s.mem, rfl⟩
  · exact State.writeUnitRecord_eq _ _

theorem State.changeUnit_of_none {s : State} {n : Nat} (hu : s.unit? n = none) (f : Unit → Unit) : s.changeUnit n f = s := by
  simp only [State.changeUnit, hu]

theorem State.unit?_changeUnit {s : State} {n : Nat} {u : Unit} (hu : s.unit? n = some u) (f : Unit → Unit) (x : Nat) :
    (s.changeUnit n f).unit? x = if x = n then some { f u with when_ := s.now, prev := u.owner } else s.unit? x := by
  obtain ⟨m, hm⟩ := State.changeUnit_of_some hu f
  rw [hm]; exact State.unit?_put s n x _

/-! ### Dispatch -/

theorem foldl_setCtx_eq (ks : List Nat) (c : Ctx) (s : State) : ∃ xs, ks.foldl (fun s y => s.setCtx y c) s = { s with ctxs := xs } := by
  induction ks generalizing s with
  | nil => exact ⟨s.ctxs, rfl⟩
  | cons k ks ih => exact ih (s.setCtx k c)

/-- A routine's start is of contexts and their core. -/
theorem State.startRoutine_eq (s : State) (u : Unit) (l : Level) (cores : List Nat) (stolen : Bool) (x : Nat × Task × List Nat) :
    ∃ xs cs, s.startRoutine u l cores stolen x = { s with ctxs := xs, cores := cs } := by
  obtain ⟨role, t, ks⟩ := x
  cases ks with
  | nil => exact ⟨s.ctxs, s.cores, rfl⟩
  | cons k rest =>
    simp only [State.startRoutine]
    obtain ⟨xs, hxs⟩ := foldl_setCtx_eq rest { role := .reserved, img := l.img } (s.setCtx k _)
    rw [hxs]
    exact ⟨xs, _, rfl⟩

theorem State.startRoutines_eq (u : Unit) (l : Level) (cores : List Nat) (stolen : Bool) (ps : List (Nat × Task × List Nat)) (s : State) :
    ∃ xs cs, ps.foldl (fun s p => s.startRoutine u l cores stolen p) s = { s with ctxs := xs, cores := cs } := by
  induction ps generalizing s with
  | nil => exact ⟨s.ctxs, s.cores, rfl⟩
  | cons p ps ih =>
    obtain ⟨xs, cs, h⟩ := s.startRoutine_eq u l cores stolen p
    obtain ⟨xs', cs', h'⟩ := ih (s.startRoutine u l cores stolen p)
    exact ⟨xs', cs', by rw [List.foldl_cons, h', h]⟩

theorem State.bindPipes_eq (s : State) (u : Unit) (l : Level) (keys : List Nat) : ∃ ps, s.bindPipes u l keys = { s with pipes := ps } := by
  unfold State.bindPipes
  split
  · exact ⟨s.pipes, rfl⟩
  · exact ⟨_, rfl⟩

/-- A dispatch starts contexts, binds pipes and has the unit running. -/
theorem State.dispatch_eq {s : State} {u : Unit} {l : Level} (hl : s.level? u.launch = some l) (owner : Nat) (stolen : Bool)
    (ps : List (Nat × Task × List Nat)) :
    ∃ xs cs pipes, s.dispatch u owner stolen ps = ({ s with ctxs := xs, cores := cs, pipes := pipes } : State).changeUnit u.uid (fun u =>
      { u with st := .running, owner := owner, keys := ps.map (fun p => nth0 p.2.2 0), open_ := ps.map (fun p => nth0 p.2.2 0), claimed := stolen }) := by
  simp only [State.dispatch, hl]
  obtain ⟨xs, cs, h⟩ := State.startRoutines_eq u l ((ps.map (fun p => nth0 p.2.2 0)).map keyCore) stolen ps s
  obtain ⟨pipes, h'⟩ := ({ s with ctxs := xs, cores := cs } : State).bindPipes_eq u l (ps.map (fun p => nth0 p.2.2 0))
  rw [h, h']
  exact ⟨xs, _, pipes, rfl⟩

end Sys2Proof.Machine

/-! PROOF. O49 is refuted: a phase's fetched launch record is not created in a state whose level records are not listed in the order of their handles. -/

namespace Sys2Proof.Machine

open Sys2Proof.Cert Sys2Proof.Tests

/-- A level that has fetched one launch record, with the handle of a launch on die 3. -/
def crowdedLevel : Level := { fetching false 0x500 with handle := 2 ^ 28 + 3 * 2 ^ 26 }

/-- 1022 more launches of die 3, their handles above that of `crowdedLevel`. -/
def crowd : SMap Level :=
  (List.range 1022).map (fun i => (2 ^ 28 + 3 * 2 ^ 26 + 1 + i, { handle := 2 ^ 28 + 3 * 2 ^ 26 + 1 + i, part := 0 }))

/-- One level record of die 3 is free; but `crowdedLevel` is listed behind greater handles, so the write that ends its fetch lists it a second time and
takes the last record. -/
def crowded : State := { fetched crowdedLevel with levels := crowd ++ [(crowdedLevel.handle, crowdedLevel)] }

/-- Does the level list hold no launch of `crowdedLevel`? -/
def noLaunchOfCrowded (m : SMap Level) : Bool := m.all (fun e => !(handleKind e.1 == 1 && e.2.parent == crowdedLevel.handle))

/-- Is the outcome a next state that holds no launch of `crowdedLevel`? -/
def nextHasNoLaunch : Out → Bool
  | .next t => noLaunchOfCrowded t.levels
  | _ => false

theorem crowded_fetches : crowded.fetches 3 = [(crowdedLevel, 0x500)] := by decide +kernel

theorem crowded_level : crowded.level? crowdedLevel.handle = some crowdedLevel := by decide +kernel

theorem crowded_recordsUsed : crowded.recordsUsed 3 = 1023 := by decide +kernel

theorem crowded_readable : crowded.rangeAsleep crowdedLevel.part 0x500 64 = false ∧ crowded.readFault crowdedLevel.part 0x500 64 = none ∧
    crowded.virtBytes crowdedLevel.part 0x500 48 = some (launchRecord 0) := by decide +kernel

theorem crowded_creatable : Creatable crowded (launchRecord 0) 3 crowdedLevel.part crowdedLevel.img := by decide +kernel

theorem phaseStart_crowded : nextHasNoLaunch (exec (.phaseStart 3) crowded) = true := by decide +kernel

/-- Refutes O49: the sixth clause, of a launch record that can be created, fails at `crowded`. -/
theorem not_jobs : ¬ Obligations.Jobs := by
  unfold Obligations.Jobs
  rintro ⟨_, _, _, _, _, hfetched, _⟩
  obtain ⟨hasleep, hread, hbytes⟩ := crowded_readable
  obtain ⟨_, _, _, hcreated⟩ := hfetched crowded 3 0x500 crowdedLevel (by decide) crowded_fetches crowded_level rfl
  obtain ⟨t, h, c, hnext, hc, hkind, _, hparent, _⟩ :=
    hcreated (launchRecord 0) rfl rfl rfl hasleep hread hbytes crowded_creatable (by rw [crowded_recordsUsed]; decide)
  have hnone : noLaunchOfCrowded t.levels = true := by simpa [hnext, nextHasNoLaunch] using phaseStart_crowded
  have hmem := List.all_eq_true.mp hnone (h, c) (State.mem_levels hc)
  simp [hkind, hparent] at hmem

end Sys2Proof.Machine

/-! PROOF. O48: the episodes of sync lines, and the launches that begin with one. -/

namespace Sys2Proof.Machine

open Sys2Proof.Cert

@[simp] theorem State.line_updLine_same (s : State) (n : Nat) (f : Line → Line) : (s.updLine n f).line n = f (s.line n) := look_put_same _ _ _ _

theorem State.line_congr {s t : State} (h : t.lines = s.lines) (n : Nat) : t.line n = s.line n := by
  unfold State.line; rw [h]

/-! ### Arrivals -/

/-- The statistics of an episode leave its arrivals alone. -/
theorem Line.record_arr (l : Line) : l.record.arr = l.arr := by
  unfold Line.record
  refine foldl_keeps Line.arr _ (fun l a => ?_) _ _
  rfl

/-- R34: the line of an arrival. -/
theorem Line.check_arr (l : Line) (now : Nat) : (l.check now).arr = l.arr := by
  unfold Line.check
  split
  · exact l.record_arr
  · rfl

/-- An episode is complete when every member has arrived. -/
theorem Line.complete_iff {l : Line} (hm : l.members ≠ []) (ha : l.arr ≠ []) :
    l.complete = true ↔ ∀ m ∈ l.members, ∃ x ∈ l.arr, x.1 = m := by
  simp [Line.complete, hm, ha]

theorem Line.check_resume {l : Line} (hr : l.resume = none) (now : Nat) :
    (l.check now).resume = if l.complete then some (now + 96) else none := by
  unfold Line.check
  split <;> simp_all

/-- The line of an episode at which a member arrives. -/
def Line.joined (l : Line) (k : Nat) (v : Bool) (now : Nat) : Line :=
  { l with arr := l.arr ++ [(k, v, now)], first := some (l.first.getD now),
           tmo := if l.first.isSome then l.tmo else if l.synto = 0 then 0 else l.synto.toNat * 1024 + 2 }

theorem State.line_arrive (s : State) (k : Nat) {b : Bundle} {f : HDR} (hf : b.hdr = some f) :
    (s.arrive k b).line f.line.toNat = ((s.line f.line.toNat).joined k f.v s.now).check s.now := by
  simp only [State.arrive, hf]
  exact State.line_updLine_same _ _ _

theorem Line.joined_complete {l : Line} (hm : l.members ≠ []) (k : Nat) (v : Bool) (now : Nat) :
    (l.joined k v now).complete = true ↔ ∀ m ∈ l.members, m = k ∨ ∃ x ∈ l.arr, x.1 = m := by
  rw [Line.complete_iff (l := l.joined k v now) hm (by simp [Line.joined])]
  refine forall₂_congr fun m _ => ?_
  constructor
  · rintro ⟨x, hx, rfl⟩
    rcases List.mem_append.mp hx with hx | hx
    · exact .inr ⟨x, hx, rfl⟩
    · exact .inl (by rw [List.mem_singleton.mp hx])
  · rintro (rfl | ⟨x, hx, rfl⟩)
    · exact ⟨_, List.mem_append_right _ (List.mem_singleton.mpr rfl), rfl⟩
    · exact ⟨x, List.mem_append_left _ hx, rfl⟩

/-! ### Resuming -/

theorem Arch.readP_writeP_same (a : Arch) {n : Nat} (h0 : 0 < n) (h8 : n < 8) (v : Bool) : (a.writeP n v).readP n = v := by
  have hn : n ≠ 0 := by omega
  have hp : ∀ x : Nat, (BitVec.ofNat 8 x).getLsbD n = x.testBit n := fun x => by rw [BitVec.getLsbD_ofNat]; simp [h8]
  simp only [Arch.writeP, if_neg hn, Arch.readP, hp, beq_eq_false_iff_ne.mpr hn, Bool.false_or]
  cases v
  · have : (255 - 2 ^ n).testBit n = false := by interval_cases n <;> decide
    simp [Nat.testBit_and, this]
  · simp [Nat.testBit_or, Nat.testBit_two_pow_self]

@[simp] theorem Arch.writeP_g (a : Arch) (n : Nat) (v : Bool) : (a.writeP n v).g = a.g := by
  unfold Arch.writeP; split <;> rfl

/-- R36: a member's context when its episode resumes. -/
def Ctx.resumed (line : Nat) (v : Bool) (c : Ctx) : Ctx := { c.mapArch (fun a => a.writeP 7 v) with pendSync := some line }

/-- Changing every context of a list leaves the others alone. -/
theorem State.ctx_foldl_updCtx_other {g : Ctx → Ctx} {ks : List Nat} {k : Nat} (hk : k ∉ ks) (s : State) :
    (ks.foldl (fun s j => s.updCtx j g) s).ctx k = s.ctx k := by
  induction ks generalizing s with
  | nil => rfl
  | cons j ks ih =>
    rw [List.mem_cons, not_or] at hk
    rw [List.foldl_cons, ih hk.2, State.ctx_updCtx_other _ _ hk.1]

/-- R36: a member resumes with the votes in `p7`, however often its line names it. -/
theorem State.ctx_foldl_resumed {line : Nat} {v : Bool} {ks : List Nat} {k : Nat} (hk : k ∈ ks) (s : State) :
    let c := (ks.foldl (fun s j => s.updCtx j (Ctx.resumed line v)) s).ctx k
    c.live.readP 7 = v ∧ c.pendSync = some line ∧ c.live.g = (s.ctx k).live.g := by
  refine foldl_establishes (I := fun t : State => (t.ctx k).live.g = (s.ctx k).live.g)
    (Q := fun t : State => (t.ctx k).live.readP 7 = v ∧ (t.ctx k).pendSync = some line ∧ (t.ctx k).live.g = (s.ctx k).live.g) hk ?_ ?_ ?_ rfl
  · intro j _ t ht
    by_cases hj : k = j
    · subst hj; rw [State.ctx_updCtx_same]; exact (Arch.writeP_g _ 7 v).trans ht
    · rwa [State.ctx_updCtx_other _ _ hj]
  · intro t ht
    rw [State.ctx_updCtx_same]
    exact ⟨Arch.readP_writeP_same _ (by decide) (by decide) v, rfl, (Arch.writeP_g _ 7 v).trans ht⟩
  · intro j _ t ht hq
    by_cases hj : k = j
    · subst hj
      rw [State.ctx_updCtx_same]
      exact ⟨Arch.readP_writeP_same _ (by decide) (by decide) v, rfl, (Arch.writeP_g _ 7 v).trans ht⟩
    · rwa [State.ctx_updCtx_other _ _ hj]

theorem exec_syncEpisodeResume {s : State} {n at_ : Nat} (hn : n < 16) (hr : (s.line n).resume = some at_) (ht : at_ ≤ s.now) :
    exec (.syncEpisodeResume n) s = .next (((s.line n).members.foldl (fun t j => t.updCtx j
      (Ctx.resumed n ((s.line n).votes || (s.line n).arr.any (fun x => x.2.1)))) s).updLine n Line.restart) := by
  show execSyncEpisodeResume n s = _
  simp only [execSyncEpisodeResume, if_neg (Nat.not_le.mpr hn), hr, if_neg (Nat.not_lt.mpr ht)]
  rfl

/-! ### Timeouts -/

/-- R35: the trap of an arrived member of an episode that is abandoned. -/
def syncTrap (line : Nat) : Trap := { ord := 6, widx := 0, cause := causeSync, tval := BitVec.ofNat 64 line }

/-- R35: an arrived member when its episode is abandoned. -/
def State.abandoned (line : Nat) (s : State) (a : Nat × Bool × Nat) : State :=
  if (s.ctx a.1).frozen.isSome then s.updCtx a.1 (fun c => { c with syncTo := some line }) else (s.atBundle a.1).deliverTrap a.1 (syncTrap line)

theorem State.ctx_freeze_other (s : State) (cause : Nat) {k j : Nat} (h : j ≠ k) : (s.freeze k cause).ctx j = s.ctx j := by
  simp only [State.freeze, State.ctx_updCore]
  rw [State.ctx_updCtx_other _ _ h, State.ctx_giveBack]

theorem State.ctx_freeze_same (s : State) (k cause : Nat) :
    ((s.freeze k cause).ctx k).frozen = some cause ∧ ((s.freeze k cause).ctx k).role = (s.ctx k).role := by
  simp [State.freeze]

theorem State.ctx_atBundle_other (s : State) {k j : Nat} (h : j ≠ k) : (s.atBundle k).ctx j = s.ctx j := State.ctx_updCtx_other _ _ h

theorem State.ctx_atBundle_same (s : State) (k : Nat) :
    ((s.atBundle k).ctx k).frozen = (s.ctx k).frozen ∧ ((s.atBundle k).ctx k).role = (s.ctx k).role := by
  rw [State.atBundle, State.ctx_updCtx_same]
  exact ⟨rfl, rfl⟩

/-- A trap at its bundle freezes a user context with its event pending, and changes no other context. -/
theorem State.trapAtBundle {s : State} {k : Nat} (hu : s.isSuper k = false) (t : Trap) :
    (s.atBundle k).deliverTrap k t = ((s.atBundle k).freeze k t.cause).updCtx k (fun c => { c with
      pend := some ((s.atBundle k).trapEvent k t), syncTo := if t.cause = 11 then none else c.syncTo }) :=
  State.deliverTrap_user (by unfold State.isSuper at hu ⊢; rw [(s.ctx_atBundle_same k).2]; exact hu)

theorem State.ctx_abandoned_other (line : Nat) (s : State) (a : Nat × Bool × Nat) {j : Nat} (h : j ≠ a.1) (hu : s.isSuper a.1 = false) :
    (s.abandoned line a).ctx j = s.ctx j := by
  unfold State.abandoned
  split
  · exact State.ctx_updCtx_other _ _ h
  · rw [State.trapAtBundle hu, State.ctx_updCtx_other _ _ h, State.ctx_freeze_other _ _ h, State.ctx_atBundle_other _ h]

theorem State.ctx_abandoned_frozen (line : Nat) {s : State} {a : Nat × Bool × Nat} (hf : (s.ctx a.1).frozen.isSome = true) :
    (s.abandoned line a).ctx a.1 = { s.ctx a.1 with syncTo := some line } := by
  rw [State.abandoned, if_pos hf, State.ctx_updCtx_same]

theorem State.ctx_abandoned_runs (line : Nat) {s : State} {a : Nat × Bool × Nat} (hu : s.isSuper a.1 = false) (hf : (s.ctx a.1).frozen = none) :
    ((s.abandoned line a).ctx a.1).frozen = some 11 ∧ ((s.abandoned line a).ctx a.1).role = (s.ctx a.1).role ∧
      ((s.abandoned line a).ctx a.1).pend = some ((s.atBundle a.1).trapEvent a.1 (syncTrap line)) := by
  obtain ⟨hfr, hro⟩ := (s.atBundle a.1).ctx_freeze_same a.1 11
  rw [State.abandoned, if_neg (by simp [hf]), State.trapAtBundle hu, State.ctx_updCtx_same]
  exact ⟨hfr, hro.trans (s.ctx_atBundle_same a.1).2, rfl⟩

theorem State.abandoned_kept (line : Nat) {s : State} {a : Nat × Bool × Nat} (hu : s.isSuper a.1 = false) : Kept s (s.abandoned line a) := by
  unfold State.abandoned
  split
  · exact Kept.updCtx _ _ _ (.refl _) id
  · rw [State.trapAtBundle hu]
    exact ((Kept.updCtx _ _ _ ⟨rfl, rfl, rfl, rfl, rfl, rfl, rfl⟩ id).trans (State.freeze_kept _ _ _)).trans (Kept.updCtx _ _ _ (.refl _) id)

theorem State.isSuper_abandoned (line : Nat) {s : State} {a : Nat × Bool × Nat} (hu : s.isSuper a.1 = false) (j : Nat) :
    (s.abandoned line a).isSuper j = s.isSuper j := by
  unfold State.isSuper
  by_cases hj : j = a.1
  · subst hj
    cases hf : (s.ctx a.1).frozen with
    | some c => rw [State.ctx_abandoned_frozen line (by simp [hf])]
    | none => rw [(State.ctx_abandoned_runs line hu hf).2.1]
  · rw [State.ctx_abandoned_other line s a hj hu]

theorem exec_syncTimeout {s : State} {n : Nat} (hn : n < 16) (ht : (s.line n).tmo = 1) (hf : (s.line n).first.isSome = true)
    (hr : (s.line n).resume = none) :
    exec (.syncTimeout n) s = .next (((s.line n).arr.foldl (State.abandoned n) s).updLine n Line.restart) := by
  show execSyncTimeout n s = _
  have h : ¬((s.line n).tmo ≠ 1 ∨ (s.line n).first.isNone = true ∨ (s.line n).resume.isSome = true) := by
    simp [ht, hr, Option.isNone_eq_false_iff.mpr hf]
  simp only [execSyncTimeout, if_neg (Nat.not_le.mpr hn), if_neg h]
  rfl

/-- What abandoning an episode keeps throughout: no arrived member is a supervisor. -/
def NoSupers (as : List (Nat × Bool × Nat)) (s : State) : Prop := ∀ x ∈ as, s.isSuper x.1 = false

theorem NoSupers.abandoned {as : List (Nat × Bool × Nat)} {s : State} (h : NoSupers as s) (line : Nat) {a : Nat × Bool × Nat} (ha : a ∈ as) :
    NoSupers as (s.abandoned line a) := fun x hx => by rw [State.isSuper_abandoned line (h a ha)]; exact h x hx

/-- Abandoning an episode keeps stores and tables. -/
theorem State.foldl_abandoned_kept (line : Nat) {as : List (Nat × Bool × Nat)} : ∀ {s : State}, NoSupers as s → Kept s (as.foldl (State.abandoned line) s) := by
  induction as with
  | nil => exact fun _ => .refl _
  | cons a as ih =>
    intro s hs
    have hs' := hs.abandoned line List.mem_cons_self
    exact (State.abandoned_kept line (hs a List.mem_cons_self)).trans (ih fun x hx => hs' x (List.mem_cons_of_mem _ hx))

/-- R35: a member that was frozen holds the trap pending. -/
theorem State.foldl_abandoned_frozen (line : Nat) {as : List (Nat × Bool × Nat)} {s : State} (hs : NoSupers as s) {x : Nat × Bool × Nat} (hx : x ∈ as) {c : Nat}
    (hc : (s.ctx x.1).frozen = some c) :
    ((as.foldl (State.abandoned line) s).ctx x.1).frozen = some c ∧ ((as.foldl (State.abandoned line) s).ctx x.1).syncTo = some line := by
  refine foldl_establishes (I := fun t : State => NoSupers as t ∧ (t.ctx x.1).frozen = some c)
    (Q := fun t : State => (t.ctx x.1).frozen = some c ∧ (t.ctx x.1).syncTo = some line) hx ?_ ?_ ?_ ⟨hs, hc⟩
  · rintro y hy t ⟨ht, hf⟩
    refine ⟨ht.abandoned line hy, ?_⟩
    by_cases hj : x.1 = y.1
    · rw [hj] at hf ⊢; rw [State.ctx_abandoned_frozen line (by simp [hf])]; exact hf
    · rw [State.ctx_abandoned_other line t y hj (ht y hy)]; exact hf
  · rintro t ⟨-, hf⟩
    rw [State.ctx_abandoned_frozen line (by simp [hf])]
    exact ⟨hf, rfl⟩
  · rintro y hy t ⟨ht, hf⟩ hq
    by_cases hj : x.1 = y.1
    · rw [hj] at hf ⊢; rw [State.ctx_abandoned_frozen line (by simp [hf])]; exact ⟨hf, rfl⟩
    · rw [State.ctx_abandoned_other line t y hj (ht y hy)]; exact hq

/-- R35: a context that a sync trap of a line has frozen, with its event pending. -/
def SyncTrapped (line k : Nat) (t : State) : Prop :=
  (t.ctx k).frozen = some 11 ∧ ∃ e, (t.ctx k).pend = some e ∧ e.cause = 11 ∧ e.tval = BitVec.ofNat 64 line

/-- R35: a member that runs traps at its sync bundle; should its line name it again, it is frozen by then. -/
theorem State.foldl_abandoned_runs (line : Nat) {as : List (Nat × Bool × Nat)} {s : State} (hs : NoSupers as s) {x : Nat × Bool × Nat} (hx : x ∈ as)
    (hc : (s.ctx x.1).frozen = none) :
    SyncTrapped line x.1 (as.foldl (State.abandoned line) s) := by
  have keeps : ∀ y ∈ as, ∀ t : State, NoSupers as t → SyncTrapped line x.1 t → SyncTrapped line x.1 (t.abandoned line y) := by
    rintro y hy t ht ⟨hf, hp⟩
    by_cases hj : x.1 = y.1
    · simp only [SyncTrapped, hj] at hf hp ⊢
      rw [State.ctx_abandoned_frozen line (by simp [hf])]
      exact ⟨hf, hp⟩
    · simp only [SyncTrapped, State.ctx_abandoned_other line t y hj (ht y hy)]
      exact ⟨hf, hp⟩
  have traps : ∀ y ∈ as, x.1 = y.1 → ∀ t : State, NoSupers as t → (t.ctx x.1).frozen = none →
      SyncTrapped line x.1 (t.abandoned line y) := by
    intro y hy hj t ht hf
    simp only [SyncTrapped, hj] at hf ⊢
    obtain ⟨h1, -, h3⟩ := State.ctx_abandoned_runs line (ht y hy) hf
    exact ⟨h1, _, h3, rfl, rfl⟩
  refine foldl_establishes (I := fun t : State => NoSupers as t ∧ ((t.ctx x.1).frozen = none ∨ SyncTrapped line x.1 t)) (Q := SyncTrapped line x.1) hx ?_ ?_ ?_ ⟨hs, .inl hc⟩
  · rintro y hy t ⟨ht, hf | hq⟩
    · refine ⟨ht.abandoned line hy, ?_⟩
      by_cases hj : x.1 = y.1
      · exact .inr (traps y hy hj t ht hf)
      · exact .inl (by rw [State.ctx_abandoned_other line t y hj (ht y hy)]; exact hf)
    · exact ⟨ht.abandoned line hy, .inr (keeps y hy t ht hq)⟩
  · rintro t ⟨ht, hf | hq⟩
    · exact traps x hx rfl t ht hf
    · exact keeps x hx t ht hq
  · rintro y hy t ⟨ht, -⟩ hq
    exact keeps y hy t ht hq

/-! ### Launches with a line -/

/-- What dispatching units keeps: the lines, the levels, and that each of the units has its record. -/
def SameRecords (us : List Unit) (s t : State) : Prop :=
  t.lines = s.lines ∧ t.levels = s.levels ∧ ∀ u ∈ us, (t.unit? u.uid).isSome = true

/-- R359: dispatching units of one launch leaves levels and lines alone and has each of them running. -/
theorem State.foldl_dispatch {h : Nat} {l : Level} {us : List Unit} (owner : Unit → Nat) (ps : Unit → List (Nat × Task × List Nat)) {s : State}
    (hl : s.level? h = some l) (hus : ∀ u ∈ us, u.launch = h ∧ (s.unit? u.uid).isSome = true) :
    let t := us.foldl (fun s u => s.dispatch u (owner u) false (ps u)) s
    t.lines = s.lines ∧ ∀ u ∈ us, ∃ v, t.unit? u.uid = some v ∧ v.st = .running := by
  -- what one dispatch of a state of the fold does
  have one : ∀ y ∈ us, ∀ t : State, SameRecords us s t → SameRecords us s (t.dispatch y (owner y) false (ps y)) ∧
      (∃ v, (t.dispatch y (owner y) false (ps y)).unit? y.uid = some v ∧ v.st = .running) ∧
      ∀ j, j ≠ y.uid → (t.dispatch y (owner y) false (ps y)).unit? j = t.unit? j := by
    rintro y hy t ⟨hlines, hlevels, hunits⟩
    obtain ⟨x, hx⟩ := Option.isSome_iff_exists.mp (hunits y hy)
    obtain ⟨xs, cs, pipes, hd⟩ := State.dispatch_eq (s := t) (u := y) (l := l) (by rw [(hus y hy).1, State.level?_congr hlevels, hl]) (owner y) false (ps y)
    obtain ⟨m, hm⟩ := State.changeUnit_of_some (s := { t with ctxs := xs, cores := cs, pipes := pipes }) (n := y.uid) hx
      (fun u => { u with st := .running, owner := owner y, keys := (ps y).map (fun p => nth0 p.2.2 0), open_ := (ps y).map (fun p => nth0 p.2.2 0), claimed := false })
    rw [hm] at hd
    have hu : ∀ j, (t.dispatch y (owner y) false (ps y)).unit? j = if j = y.uid then _ else t.unit? j := fun j => by
      rw [hd]; exact State.unit?_put t _ _ _
    refine ⟨⟨by rw [hd]; exact hlines, by rw [hd]; exact hlevels, fun u huu => ?_⟩, ⟨_, by rw [hu, if_pos rfl], rfl⟩, fun j hj => by rw [hu, if_neg hj]⟩
    rw [hu]
    split
    · rfl
    · exact hunits u huu
  have hI : SameRecords us s s := ⟨rfl, rfl, fun u hu => (hus u hu).2⟩
  refine ⟨(List.foldlRecOn us _ (motive := SameRecords us s) hI fun t ht y hy => (one y hy t ht).1).1, fun u hu => ?_⟩
  refine foldl_establishes (I := SameRecords us s) (Q := fun t : State => ∃ v, t.unit? u.uid = some v ∧ v.st = .running) hu (fun y hy t ht => (one y hy t ht).1)
    (fun t ht => (one u hu t ht).2.1) ?_ hI
  intro y hy t ht hq
  by_cases hj : u.uid = y.uid
  · rw [hj]; exact (one y hy t ht).2.1
  · rw [(one y hy t ht).2.2 _ hj]; exact hq

/-- The units of a launch, as the scheduler lists them. -/
def State.unitsOf (s : State) (h : Nat) : List Unit := (s.units.map Prod.snd).filter (fun u => u.launch == h)

theorem exec_syncLaunchDispatch {s : State} {h n at_ : Nat} {l : Level} (hl : s.level? h = some l) (hn : l.lrec.sync = some n)
    (ha : l.syncAt = some at_) (ht : at_ ≤ s.now) (hc : l.cncl = false) (hne : s.unitsOf h ≠ []) (hus : ∀ u ∈ s.unitsOf h, u.st = .reserved) :
    exec (.syncLaunchDispatch h) s = .next (s.dispatchSync l n (s.unitsOf h)) := by
  have hemp : ((s.unitsOf h).isEmpty || l.cncl) = false := by simp [hc, hne]
  have hres : (s.unitsOf h).filter (fun u => u.st == .reserving) = [] := List.filter_eq_nil_iff.mpr fun u hu => by rw [hus u hu]; decide
  have hall : (s.unitsOf h).all (fun u => u.st == .reserved) = true := List.all_eq_true.mpr fun u hu => by rw [hus u hu]; rfl
  unfold State.unitsOf at hemp hres hall ⊢
  show execSyncLaunchDispatch h s = _
  simp only [execSyncLaunchDispatch, hl, hn, hemp, Bool.false_eq_true, if_false, hres, List.foldl_nil, hall, Bool.not_true, ha, if_pos ht]

/-- Settles O48: each clause is the event's outcome, read off a fold over the members, the arrivals or the units of the launch. -/
theorem syncLines : Obligations.SyncLines := by
  refine ⟨?_, ?_, ?_, ?_⟩
  · intro s k b f hf
    dsimp only
    intro hr hm
    have hc := Line.joined_complete hm k f.v s.now
    rw [State.line_arrive s k hf, Line.check_arr, Line.check_resume (l := (s.line f.line.toNat).joined k f.v s.now) hr]
    refine ⟨fun h => if_pos (hc.mpr h), fun h => if_neg fun x => h (hc.mp x), List.mem_append_right _ (List.mem_singleton.mpr rfl)⟩
  · intro s n at_ hn hr ht
    refine ⟨_, exec_syncEpisodeResume hn hr ht, ?_⟩
    have hline := foldl_keeps State.lines (fun t j => t.updCtx j (Ctx.resumed n ((s.line n).votes || (s.line n).arr.any (fun x => x.2.1))))
      (fun _ _ => rfl) (s.line n).members s
    have hmem := foldl_keeps State.mem (fun t j => t.updCtx j (Ctx.resumed n ((s.line n).votes || (s.line n).arr.any (fun x => x.2.1))))
      (fun _ _ => rfl) (s.line n).members s
    rw [State.line_updLine_same]
    refine ⟨rfl, rfl, ?_, fun k hk => ?_, fun k hk => ?_, fun a => ?_⟩
    · rw [State.line_congr hline]; rfl
    · exact State.ctx_foldl_resumed hk s
    · exact State.ctx_foldl_updCtx_other hk s
    · rw [State.updLine_mem, hmem]
  · intro s n hn ht hf hr hu
    have kept := State.foldl_abandoned_kept n hu
    obtain ⟨-, -, -, hlines, -⟩ := kept.shared
    refine ⟨_, exec_syncTimeout hn ht hf hr, ?_⟩
    rw [State.line_updLine_same]
    refine ⟨rfl, ?_, kept.memory, fun x hx => ⟨fun c hc => ?_, fun hc => ?_⟩⟩
    · rw [State.line_congr hlines]; rfl
    · exact State.foldl_abandoned_frozen n hu hx hc
    · exact State.foldl_abandoned_runs n hu hx hc
  · intro s h n at_ l hl hn ha ht hc hh hne hus
    refine ⟨_, exec_syncLaunchDispatch hl hn ha ht hc hne fun u hu => (hus u hu).1, ?_⟩
    obtain ⟨hlines, hrun⟩ := State.foldl_dispatch (us := s.unitsOf h) (fun u => u.owner) (fun u => shareOut ((s.image l.img).tasksOf l.lrec) u.keys) hl
      fun u hu => ⟨by simpa using (List.mem_filter.mp hu).2, by rw [(hus u hu).2]; rfl⟩
    simp only [State.dispatchSync, State.line_updLine_same]
    refine ⟨by rw [hh], trivial, ?_, hrun⟩
    rw [State.line_congr hlines]

end Sys2Proof.Machine

/-! PROOF. What a word that traps and a word that only gives a status leave. -/

namespace Sys2Proof.Machine

open Sys2Proof.Cert

/-- A trap that freezes a context saves its loop counters first. -/
theorem State.ctx_freeze_loops (s : State) (k cause : Nat) :
    ((s.freeze k cause).ctx k).lcsv0 = (s.ctx k).live.lc0 ∧ ((s.freeze k cause).ctx k).lcsv1 = (s.ctx k).live.lc1 := by
  simp [State.freeze]

theorem State.takeTrap_loops {s : State} (hs : Settled s) (hu : s.isSuper s.key = false) (t : Trap) :
    ((s.takeTrap t).ctx s.key).lcsv0 = s.cur.live.lc0 ∧ ((s.takeTrap t).ctx s.key).lcsv1 = s.cur.live.lc1 := by
  let s0 : State := { s with iss := { s.iss with trap := some t } }
  let s1 := s0.updLive (fun a => { a with pc := s.iss.pc })
  have hc : s1.ctx s.key = { s.cur with live := { s.cur.live with pc := s.iss.pc } } := s0.cur_updLive _
  have hsp : (s1.ctx s.key).speculative = false := by rw [hc]; exact hs
  have hu1 : s1.isSuper s.key = false := by unfold State.isSuper; rw [hc]; exact hu
  have ht : s.takeTrap t = s1.deliverTrap s.key t := if_neg (by rw [hsp]; decide)
  obtain ⟨h0, h1⟩ := s1.ctx_freeze_loops s.key t.cause
  rw [ht, State.deliverTrap_user hu1, State.ctx_updCtx_same]
  exact ⟨h0.trans (by rw [hc]), h1.trans (by rw [hc])⟩

/-- R112, R380: a word of a user context that raises a trap freezes its context at the bundle, with the event of its cause pending. -/
theorem trapsWith_of_raise {s : State} {i : Instr} {ord cause : Nat} {v : W64} (hs : Settled s) (hu : s.isSuper s.key = false)
    (h : exec i s = s.raise ord cause v) : TrapsWith s i cause v := by
  let t : Trap := { ord := ord, widx := s.iss.widx, cause := cause, tval := v }
  have kept := s.takeTrap_kept t
  obtain ⟨hfrozen, hpc, hpend, hothers⟩ := State.takeTrap_user (t := t) hs hu
  obtain ⟨h0, h1⟩ := State.takeTrap_loops hs hu t
  exact ⟨s.takeTrap t, h, hfrozen, hpc, ⟨_, hpend, rfl, rfl, rfl, rfl, rfl⟩, h0, h1, kept.memory, kept.regs, hothers, kept.arrays, kept.shared⟩

theorem State.ctx_status (s : State) (prio : Nat) (v : W64) :
    (s.status prio v).ctx s.key = { s.cur with live := { s.cur.live with flights := s.cur.live.flights ++ [statusFlight s prio v] } } := s.cur_updLive _

theorem State.work_status (s : State) (prio : Nat) (v : W64) : ((s.status prio v).ctx s.key).work = s.cur.work := by rw [s.ctx_status]

theorem State.ctx_status_other (s : State) (prio : Nat) (v : W64) : SameOthers s.key s (s.status prio v) := fun _ h => State.ctx_updCtx_other _ _ h

/-- A word that answers with a status changes nothing else. -/
theorem State.onlyStatus_status (s : State) (prio : Nat) (v : W64) : OnlyStatus s (s.status prio v) prio v := by
  have kept := s.status_kept prio v
  exact ⟨congrArg Ctx.live (s.ctx_status prio v), kept.memory, s.ctx_status_other prio v, kept.arrays, kept.shared⟩

end Sys2Proof.Machine

/-! PROOF. O42: entries of pipes. -/

namespace Sys2Proof.Machine

open Sys2Proof.Cert

/-! ### Placing an entry -/

/-- R25: an entry joins the others of its pipe. -/
def Pipe.joined (v : W64) (ids : List Nat) (p : Pipe) : Pipe := { p with wait := p.wait ++ [(v, ids)] }

/-- R25: the producer's writes of bundles before cycle `t` that an entry follows. -/
def State.pipeWrites (s : State) (k t : Nat) : List Nat :=
  (s.msgs.filter (fun m => m.dest == k && decide (m.at_ < t) && m.kind != .load && m.stage != .done)).map (fun m => m.id)

theorem State.mem_pipeWrites {s : State} {k t : Nat} {m : Msg} (hm : m ∈ s.msgs) (hk : m.dest = k) (ht : m.at_ < t) (hs : m.kind = .store)
    (hd : m.stage ≠ .done) : m.id ∈ s.pipeWrites k t :=
  List.mem_map_of_mem (List.mem_filter.mpr ⟨hm, by simp [hk, ht, hs, hd]⟩)

theorem State.outPipe_congr {s t : State} {k : Nat} (hw : (t.ctx k).work = (s.ctx k).work) (hp : t.pipes = s.pipes) (n : Nat) :
    t.outPipe k n = s.outPipe k n := by
  unfold State.outPipe; rw [hw, hp]

theorem State.outPipe_status (s : State) (prio : Nat) (v : W64) (n : Nat) : (s.status prio v).outPipe s.key n = s.outPipe s.key n :=
  State.outPipe_congr (s := s) (t := s.status prio v) (s.work_status prio v) rfl n

/-- The pipe of a producer after an entry was placed in it. -/
theorem State.outPipe_updPipe {s : State} {k n : Nat} {p : Pipe} (hp : s.outPipe k n = some p) (v : W64) (ids : List Nat) :
    (s.updPipe p (Pipe.joined v ids)).outPipe k n = some (p.joined v ids) := by
  unfold State.outPipe at hp ⊢
  show (match (s.ctx k).work with | some w => _ | none => _) = _
  cases hw : (s.ctx k).work with
  | none => simp [hw] at hp
  | some w =>
    simp only [hw, State.updPipe] at hp ⊢
    rw [List.find?_map]
    have hpred : ((fun q : Pipe => q.point == w.point && q.index == n && q.prod == k) ∘
        fun q => if q.point = p.point ∧ q.index = p.index then q.joined v ids else q) = fun q => q.point == w.point && q.index == n && q.prod == k := by
      funext q
      simp only [Function.comp]
      split <;> rfl
    rw [hpred, hp, Option.map_some, if_pos ⟨rfl, rfl⟩]

theorem State.tryPut_full {s : State} {k n : Nat} {p : Pipe} (hp : s.outPipe k n = some p) (hc : p.consDone = false) (hl : 64 ≤ s.pipeLoad p) (v : W64)
    (t : Nat) : s.tryPut k n v t = none := by
  simp [State.tryPut, hp, hc, hl]

theorem State.tryPut_gone {s : State} {k n : Nat} {p : Pipe} (hp : s.outPipe k n = some p) (hc : p.consDone = true) (v : W64)
    (t : Nat) : s.tryPut k n v t = some (1, s) := by
  simp [State.tryPut, hp, hc]

theorem State.tryPut_room {s : State} {k n : Nat} {p : Pipe} (hp : s.outPipe k n = some p) (hc : p.consDone = false) (hl : s.pipeLoad p < 64) (v : W64)
    (t : Nat) : s.tryPut k n v t = some (0, s.updPipe p (Pipe.joined v (s.pipeWrites k t))) := by
  simp only [State.tryPut, hp, hc, Bool.false_eq_true, if_false, if_neg (Nat.not_le.mpr hl)]
  rfl

/-! ### The word -/

theorem exec_qPut_none {s : State} {f : TQ} (he : Executes (.qPut f) f.g s) (hp : s.outPipe s.key f.sub.toNat = none) :
    exec (.qPut f) s = s.illegalHere := by
  show execQPut f s = _
  rw [execQPut, State.word_executes he, hp]
  rfl

theorem exec_qPut_some {s : State} {f : TQ} (hs : Settled s) (he : Executes (.qPut f) f.g s) {p : Pipe} (hp : s.outPipe s.key f.sub.toNat = some p) :
    exec (.qPut f) s = .next (performQPut f (s.value f.sp) [] s) := by
  show execQPut f s = _
  rw [execQPut, State.word_executes he, hp]
  exact State.act_now hs _ _ _ _

/-- R198: the status of a put that held the Q slot, two cycles after its entry was placed (log 62). -/
def putFlight (w : PutW) (st : W64) : Flight := { rem := 2, dst := .none, latch := if w.sec then none else some 5, val := st, prio := prioQ }

/-- The producer's context when its held entry is placed: the Q slot is free, the status on its way. -/
def Ctx.letGo (fl : Flight) (c : Ctx) : Ctx := { { c.mapArch (fun a => { a with flights := a.flights ++ [fl] }) with put := none } with rest := [] }

theorem exec_pipeSpaceFreed {s : State} {k : Nat} {w : PutW} {p : Pipe} (hw : (s.ctx k).put = some w) (hr : (s.ctx k).rest = [])
    (hp : s.outPipe k w.pipe = some p) (hc : p.consDone = false) (hl : s.pipeLoad p < 64) :
    exec (.pipeSpaceFreed k) s = .next ((s.updPipe p (Pipe.joined w.val (s.pipeWrites k w.at_))).updCtx k (Ctx.letGo (putFlight w 0))) := by
  show execPipeSpaceFreed k s = _
  simp only [execPipeSpaceFreed, hw, State.tryPut_room hp hc hl, State.goOn, State.ctx_updCtx_same]
  rw [State.updCtx_updCtx]
  exact congrArg (fun hs => Host.Outcome.next (State.releaseAll k hs _)) hr

/-- Settles O42: by the three answers of `State.tryPut`, for the word and for the word that held the Q slot. -/
theorem pipes : Obligations.Pipes := by
  refine ⟨fun s f hs he => ⟨fun hp hu => ?_, fun p hp hc => ?_, fun p hp hc hl => ?_, fun p hp hc hl => ?_⟩, ?_, ?_⟩
  · exact trapsWith_of_raise hs hu (exec_qPut_none he hp)
  · refine ⟨_, exec_qPut_some hs he hp, ?_⟩
    rw [performQPut, State.tryPut_gone hp hc]
    exact s.onlyStatus_status 2 1
  · refine ⟨_, p.joined (s.value f.sp) (s.pipeWrites s.key s.iss.when_), s.pipeWrites s.key s.iss.when_, exec_qPut_some hs he hp, ?_⟩
    rw [performQPut, State.tryPut_room hp hc hl]
    set t := s.updPipe p (Pipe.joined (s.value f.sp) (s.pipeWrites s.key s.iss.when_))
    have hctx := t.ctx_status prioQ (BitVec.ofNat 64 0)
    refine ⟨?_, rfl, fun m hm hk ha hst hd => State.mem_pipeWrites hm hk ha hst hd, congrArg Ctx.live hctx, fun _ => rfl, t.ctx_status_other _ _⟩
    exact (t.outPipe_status _ _ _).trans (State.outPipe_updPipe hp _ _)
  · refine ⟨_, exec_qPut_some hs he hp, ?_⟩
    rw [performQPut, State.tryPut_full hp hc hl]
    have hctx := s.cur_updCur (fun c => { c with put := some { pipe := f.sub.toNat, val := s.value f.sp, sec := s.iss.sec, at_ := s.iss.when_ } })
    refine ⟨(congrArg Ctx.put hctx :), (congrArg Ctx.live hctx :), rfl, fun _ => rfl, fun _ h => State.ctx_updCtx_other _ _ h⟩
  · intro s k w p hw hr hp hc _ hl
    refine ⟨_, p.joined w.val (s.pipeWrites k w.at_), s.pipeWrites k w.at_, exec_pipeSpaceFreed hw hr hp hc hl, ?_⟩
    set t := s.updPipe p (Pipe.joined w.val (s.pipeWrites k w.at_))
    have hctx := t.ctx_updCtx_same k (Ctx.letGo (putFlight w 0))
    refine ⟨congrArg Ctx.put hctx, ?_, rfl, ?_, fun _ => rfl, fun j hj => State.ctx_updCtx_other _ _ hj⟩
    · exact (State.outPipe_congr (s := t) (t := t.updCtx k (Ctx.letGo (putFlight w 0))) (by rw [hctx]; rfl) rfl _).trans (State.outPipe_updPipe hp _ _)
    · exact congrArg (fun c => c.live.flights) hctx
  · intro s p hsn hk
    have : p.cons < shelfKey 0 := hk
    simp [State.pipeLoad, this, Ctx.oldest, hsn]

end Sys2Proof.Machine

/-! PROOF. O24: handler stores at their target. -/

namespace Sys2Proof.Machine

open Sys2Proof.Cert

/-! ### The access that a handler store is -/

theorem State.msg?_updMsg {s : State} {id : Nat} {m : Msg} (hm : s.msg? id = some m) {f : Msg → Msg} (hf : ∀ x : Msg, x.id = id → (f x).id = id) :
    (s.updMsg id f).msg? id = some (f m) := by
  have hid : m.id = id := by simpa using List.find?_some hm
  unfold State.msg? State.updMsg at *
  have hpred : ((fun x : Msg => x.id == id) ∘ fun x => if x.id = id then f x else x) = fun x => x.id == id := by
    funext x
    simp only [Function.comp]
    split
    case isTrue h => rw [hf x h, h]
    case isFalse => rfl
  rw [List.find?_map, hpred, hm, Option.map_some, if_pos hid]

theorem State.msg?_congr {s t : State} (h : t.msgs = s.msgs) (id : Nat) : t.msg? id = s.msg? id := by
  unfold State.msg?; rw [h]

theorem State.ctx_congr {s t : State} (h : t.ctxs = s.ctxs) (k : Nat) : t.ctx k = s.ctx k := by
  unfold State.ctx; rw [h]

theorem State.core_congr {s t : State} (h : t.cores = s.cores) (c : Nat) : t.core c = s.core c := by
  unfold State.core; rw [h]

/-- R315: an access that has performed on its own die is on its way back. -/
theorem State.respond_near (s : State) {m : Msg} (hd : dieOf (gsaCore m.addr) = dieOf m.core) :
    ∃ x : Msg, s.respond m = s.updMsg m.id (fun _ => x) ∧ x.id = m.id ∧ x.stage = .done ∧ x.noHandler = m.noHandler := by
  have haway : (dieOf (gsaCore m.addr) != dieOf m.core) = false := by simp [hd]
  unfold State.respond
  simp only [haway, Bool.false_eq_true, if_false]
  exact ⟨_, rfl, rfl, rfl, rfl⟩

theorem length_bytesOf (n x : Nat) : (bytesOf n x).length = n := by
  induction n generalizing x with
  | zero => rfl
  | succ n ih => simp [bytesOf, ih]

theorem getElem_bytesOf {n j : Nat} (x : Nat) (h : j < (bytesOf n x).length) : (bytesOf n x)[j] = BitVec.ofNat 8 (x / 2 ^ (8 * j)) := by
  induction n generalizing x j with
  | zero => simp [bytesOf] at h
  | succ n ih =>
    cases j with
    | zero => simp [bytesOf]
    | succ j =>
      have hpow : 256 * 2 ^ (8 * j) = 2 ^ (8 * (j + 1)) := by rw [Nat.mul_succ, Nat.pow_add, Nat.mul_comm]
      simp only [bytesOf, List.getElem_cons_succ, ih, Nat.div_div_eq_div_mul, hpow]

/-- The payload of a store stands in the store, and every other byte is as before. -/
def Wrote (m : Msg) (s t : State) : Prop :=
  (∀ j < m.size, t.mem.read (m.addr + j) = BitVec.ofNat 8 (m.data.toNat / 2 ^ (8 * j))) ∧
    ∀ c, c < m.addr ∨ m.addr + m.size ≤ c → t.mem.read c = s.mem.read c

theorem Wrote.of_mem {m : Msg} {s t u : State} (h : Wrote m s t) (hm : u.mem = t.mem) : Wrote m s u := by
  unfold Wrote; rw [hm]; exact h

/-- R182: a handler store performs as a store: bytes change, contexts and cores do not. -/
theorem State.performLocal_sth {s : State} {m : Msg} {pc : Nat} (hk : m.kind = .sth pc) (hq : Quiet s) (ho : gsaOff m.addr < 0x400000)
    (hw : s.mem.wf = true) (view : Memory) (fmt : Nat → Nat) :
    ∃ t, s.performLocal m view fmt = (t, { m with stage := .done }) ∧ Wrote m s t ∧ t.ctxs = s.ctxs ∧ t.cores = s.cores ∧ t.msgs = s.msgs := by
  have hp : s.performStore m.addr m.size m.data m.cov = s.writeAt m.addr (bytesOf m.size m.data.toNat) m.cov := if_neg (by omega)
  obtain ⟨hmem, hctxs, hcores, hmsgs⟩ := State.writeAt_quiet hq m.addr (bytesOf m.size m.data.toNat) m.cov
  refine ⟨_, by simp only [State.performLocal, hk, hp], ⟨fun j hj => ?_, fun c hc => ?_⟩, hctxs, hcores, hmsgs⟩
  · rw [hmem, Memory.read_writeN_at _ _ _ hw (by rwa [length_bytesOf]), getElem_bytesOf]
  · rw [hmem, Memory.read_writeN_other _ _ (by rwa [length_bytesOf])]

/-! ### Starting a handler -/

/-- R30, R182: what a handler store brings to its handler: where to start, the offset it wrote, its sender. -/
def Msg.arrival (m : Msg) (pc : Nat) : Arrival := { pc := pc, off := gsaOff m.addr, sender := m.core + m.h * 512 }

/-- R30: a dormant context that has started for an arrival. -/
structure HandlerStarted (x : Arrival) (s t : State) (k : Nat) : Prop where
  role : (t.ctx k).role = .handler
  pc : (t.ctx k).live.pc = BitVec.ofNat 32 x.pc
  g1 : (t.ctx k).live.readG 1 = BitVec.ofNat 64 x.off
  g2 : (t.ctx k).live.readG 2 = BitVec.ofNat 64 x.sender
  coin : (t.ctx k).live.coin = (s.ctx k).live.coin
  others : SameOthers k s t

theorem State.startHandler_started (s : State) (k : Nat) (x : Arrival) : HandlerStarted x s (s.startHandler k x) k := by
  unfold State.startHandler
  refine ⟨?_, ?_, ?_, ?_, ?_, fun j hj => State.ctx_setCtx_other _ _ hj⟩ <;> simp only [State.ctx_setCtx_same]
  · rfl
  · rfl

theorem HandlerStarted.of_ctxs {x : Arrival} {s s' t : State} {k : Nat} (h : HandlerStarted x s t k) (hc : s.ctxs = s'.ctxs) : HandlerStarted x s' t k :=
  ⟨h.role, h.pc, h.g1, h.g2, h.coin.trans (by rw [State.ctx_congr hc]), fun j hj => (h.others j hj).trans (State.ctx_congr hc j)⟩

/-! ### The four answers -/

/-- The contexts set aside at the target of a handler store whose units run (log 95). -/
def State.asideAt (s : State) (m : Msg) : List Nat := (s.handlerCtxs (gsaCore m.addr)).filter s.assignerRuns

/-- R182: the access performs, unless its payload was written before (log 85). -/
def State.performSth (s : State) (m : Msg) : State × Msg := if m.paid then (s, m) else s.performLocal m s.mem (fun _ => 0)

/-- No arrival may start at once. -/
theorem State.waits {s : State} {ks : List Nat} {old : List Arrival} (hw : old ≠ [] ∨ ∀ k ∈ ks, (s.ctx k).role ≠ .dormant) :
    (old.isEmpty && ks.any (fun k => (s.ctx k).role == .dormant)) = false := by
  rcases hw with hw | hw
  · simp [hw]
  · rw [Bool.and_eq_false_iff, List.any_eq_false]
    exact .inr fun k hk => by simpa using hw k hk

section
variable {s : State} {m : Msg} {pc : Nat} (hm : s.msg? m.id = some m) (hk : m.kind = .sth pc) (hr : s.sthReady m = true)
include hm hk hr

theorem exec_handlerArrival_none (hks : s.asideAt m = []) :
    exec (.handlerArrival m.id) s = .next ((s.performSth m).1.respond { (s.performSth m).2 with noHandler := true }) := by
  unfold State.asideAt at hks
  show execHandlerArrival m.id s = _
  simp only [execHandlerArrival, hm, hk, hr, Bool.not_true, Bool.false_eq_true, if_false, hks, List.isEmpty_nil, if_true]
  rfl

theorem exec_handlerArrival_starts {k : Nat} (hks : (s.asideAt m).find? (fun k => (s.ctx k).role == .dormant) = some k)
    (ha : (s.core (gsaCore m.addr)).arrivals = []) (hc : ((s.performSth m).1.respond (s.performSth m).2).ctxs = s.ctxs) :
    exec (.handlerArrival m.id) s = .next (((s.performSth m).1.respond (s.performSth m).2).startHandler k (m.arrival pc)) := by
  have hne : (s.asideAt m).isEmpty = false := by
    cases h : s.asideAt m with
    | nil => rw [h] at hks; cases hks
    | cons => rfl
  have hk' := List.find?_some hks
  have hany : (s.asideAt m).any (fun k => (s.ctx k).role == .dormant) = true := List.any_eq_true.mpr ⟨k, List.mem_of_find?_eq_some hks, hk'⟩
  have hks' : (s.asideAt m).find? (fun k => (((s.performSth m).1.respond (s.performSth m).2).ctx k).role == .dormant) = some k := by
    simpa only [State.ctx_congr hc] using hks
  unfold State.asideAt at hne hany hks'
  unfold State.performSth at hks' ⊢
  show execHandlerArrival m.id s = _
  simp only [execHandlerArrival, hm, hk, hr, Bool.not_true, Bool.false_eq_true, if_false, hne, ha, List.isEmpty_nil, hany, Bool.and_self, if_true, hks']
  rfl

theorem exec_handlerArrival_waits (hks : s.asideAt m ≠ [])
    (hw : (s.core (gsaCore m.addr)).arrivals ≠ [] ∨ ∀ k ∈ s.asideAt m, (s.ctx k).role ≠ .dormant) (hl : (s.core (gsaCore m.addr)).arrivals.length < 16) :
    exec (.handlerArrival m.id) s = .next (((s.performSth m).1.respond (s.performSth m).2).updCore (gsaCore m.addr)
      (fun c => { c with arrivals := c.arrivals ++ [m.arrival pc] })) := by
  have hne : (s.asideAt m).isEmpty = false := by simpa using hks
  have hw' := State.waits hw
  unfold State.asideAt at hne hw'
  show execHandlerArrival m.id s = _
  simp only [execHandlerArrival, hm, hk, hr, Bool.not_true, Bool.false_eq_true, if_false, hne, hw', if_pos hl]
  rfl

theorem exec_handlerArrival_full (hks : s.asideAt m ≠ [])
    (hw : (s.core (gsaCore m.addr)).arrivals ≠ [] ∨ ∀ k ∈ s.asideAt m, (s.ctx k).role ≠ .dormant) (hl : 16 ≤ (s.core (gsaCore m.addr)).arrivals.length) :
    exec (.handlerArrival m.id) s = .next (s.freeNat.2.updMsg m.id (fun m => { m with due := s.now + 1 + s.freeNat.1 })) := by
  have hne : (s.asideAt m).isEmpty = false := by simpa using hks
  have hw' := State.waits hw
  unfold State.asideAt at hne hw'
  show execHandlerArrival m.id s = _
  simp only [execHandlerArrival, hm, hk, hr, Bool.not_true, Bool.false_eq_true, if_false, hne, hw', if_neg (Nat.not_lt.mpr hl)]
  rfl

end

/-- R182, R315: the payload is written, and the acknowledgement of the access is on its way, with its report of whether any context is set aside. -/
theorem State.performSth_responds {s : State} {m : Msg} {pc : Nat} (hm : s.msg? m.id = some m) (hq : Quiet s) (hk : m.kind = .sth pc)
    (ho : gsaOff m.addr < 0x400000) (hp : m.paid = false) (hd : dieOf (gsaCore m.addr) = dieOf m.core) (hw : s.mem.wf = true) (b : Bool) :
    let t := (s.performSth m).1.respond { (s.performSth m).2 with noHandler := b }
    Wrote m s t ∧ t.ctxs = s.ctxs ∧ t.cores = s.cores ∧ ∃ x, t.msg? m.id = some x ∧ x.stage = .done ∧ x.noHandler = b := by
  obtain ⟨u, hu, hwrote, hctxs, hcores, hmsgs⟩ := State.performLocal_sth hk hq ho hw s.mem (fun _ => 0)
  have hsth : s.performSth m = (u, { m with stage := .done }) := (if_neg (by rw [hp]; decide)).trans hu
  obtain ⟨x, hx, hid, hstage, hno⟩ := u.respond_near (m := { m with stage := .done, noHandler := b }) hd
  simp only [hsth, hx]
  exact ⟨hwrote.of_mem rfl, hctxs, hcores, x, State.msg?_updMsg ((State.msg?_congr hmsgs _).trans hm) (fun _ _ => hid), hstage, hno⟩

/-- Settles O24: one lemma for each answer of the target; what the payload and the response change is said once. -/
theorem handlers : Obligations.Handlers := by
  refine ⟨?_, ?_, ?_, ?_⟩
  · intro s m pc k hm hq hk hr ho _ hp hd hw hks ha
    obtain ⟨hwrote, hctxs, -, x, hx, hstage, -⟩ := State.performSth_responds hm hq hk ho hp hd hw (s.performSth m).2.noHandler
    have hstart := (State.startHandler_started _ k (m.arrival pc)).of_ctxs hctxs
    refine ⟨_, exec_handlerArrival_starts hm hk hr hks ha hctxs, hwrote.1, hwrote.2, hstart.role, hstart.pc, hstart.g1, hstart.g2, hstart.coin, x, hx, hstage⟩
  · intro s m pc k hm hk hp hd hr hks ha
    have hready : s.sthReady m = true := by simp [State.sthReady, hr, hp]
    have hsth : s.performSth m = (s, m) := if_pos hp
    obtain ⟨x, hx, hid, hstage, -⟩ := s.respond_near (m := m) (by rw [hd])
    have hctxs : ((s.performSth m).1.respond (s.performSth m).2).ctxs = s.ctxs := by rw [hsth, hx]; rfl
    have hstart := (State.startHandler_started ((s.performSth m).1.respond (s.performSth m).2) k (m.arrival pc)).of_ctxs hctxs
    refine ⟨_, exec_handlerArrival_starts hm hk hready (by rw [State.asideAt, hd]; exact hks) (by rw [hd]; exact ha) hctxs, hstart.role, hstart.pc, hstart.g1,
      hstart.g2, fun a => ?_, hstart.others, x, ?_, hstage⟩
    · rw [hsth, hx]; rfl
    · rw [hsth, hx]; exact State.msg?_updMsg hm (fun _ _ => hid)
  · intro s m pc hm hq hk hr ho _ hp hd hw
    refine ⟨fun hks => ?_, fun hks hwait => ⟨fun hl => ?_, fun hl => ?_⟩⟩
    · obtain ⟨hwrote, hctxs, hcores, x, hx, hstage, hno⟩ := State.performSth_responds hm hq hk ho hp hd hw true
      exact ⟨_, x, exec_handlerArrival_none hm hk hr hks, hwrote, hctxs, by rw [State.core_congr hcores], hx, hstage, hno⟩
    · obtain ⟨hwrote, hctxs, hcores, x, hx, hstage, -⟩ := State.performSth_responds hm hq hk ho hp hd hw (s.performSth m).2.noHandler
      refine ⟨_, x, exec_handlerArrival_waits hm hk hr hks hwait hl, hwrote, hctxs, ?_, hx, hstage⟩
      rw [State.core_updCore_same]
      exact congrArg (fun c => c.arrivals ++ [m.arrival pc]) (State.core_congr hcores _)
    · refine ⟨_, _, exec_handlerArrival_full hm hk hr hks hwait hl, fun _ => rfl, rfl, rfl, State.msg?_updMsg (s := s.freeNat.2) hm (fun _ h => h), rfl, ?_⟩
      show s.now < s.now + 1 + _
      omega
  · intro s c k x xs ha hks
    have hstart := State.startHandler_started (s.updCore c (fun y => { y with arrivals := xs })) k x
    refine ⟨(s.updCore c (fun y => { y with arrivals := xs })).startHandler k x, ?_, ?_, hstart.role, hstart.pc, hstart.g1, hstart.g2, fun _ => rfl, hstart.others⟩
    · show execHandlerQueueStart c s = _
      simp only [execHandlerQueueStart, ha, hks]
    · exact congrArg Core.arrivals (s.core_updCore_same c (fun y => { y with arrivals := xs }))

end Sys2Proof.Machine

/-! PROOF. O47: units complete and count in their launches. -/

namespace Sys2Proof.Machine

open Sys2Proof.Cert

section
variable {α : Type}

theorem has_of_allAbove {m : SMap α} {k b : Nat} (hk : k ≤ b) (h : allAbove b m) : has m k = false := by
  induction m with
  | nil => rfl
  | cons e m ih =>
    have hne : k ≠ e.1 := by have := h.1; omega
    simp [has, hne, ih h.2]

theorem has_drop1_same {m : SMap α} (k : Nat) (h : sortedKeys m = true) : has (drop1 m k) k = false := by
  induction m with
  | nil => rfl
  | cons e m ih =>
    have h' := sortedKeys_cons.mp h
    rw [drop1]
    split
    case isTrue hk => subst hk; exact has_of_allAbove le_rfl h'.1
    case isFalse hk => simp [has, hk, ih h'.2]

theorem has_map (m : SMap α) (g : α → α) (k : Nat) : has (m.map (fun e => (e.1, g e.2))) k = has m k := by
  induction m with
  | nil => rfl
  | cons e m ih => simp [has, ih]

theorem look_map {d : α} {m : SMap α} (g : α → α) {k : Nat} (h : has m k = true) : look d (m.map (fun e => (e.1, g e.2))) k = g (look d m k) := by
  induction m with
  | nil => cases h
  | cons e m ih =>
    by_cases hk : k = e.1
    · simp [look, hk]
    · simp only [has, Bool.or_eq_true, beq_iff_eq, hk, false_or] at h
      simp [look, hk, ih h]

end

theorem State.level?_map {s t : State} {g : Level → Level} (ht : t.levels = s.levels.map (fun e => (e.1, g e.2))) (h : Nat) :
    t.level? h = (s.level? h).map g := by
  unfold State.level?
  rw [ht, has_map]
  split
  case isTrue hh => rw [look_map g hh]; rfl
  case isFalse => rfl

theorem State.unit?_drop1 {s t : State} {n : Nat} (hs : sortedKeys s.units = true) (ht : t.units = drop1 s.units n) : t.unit? n = none := by
  unfold State.unit?
  rw [ht, has_drop1_same n hs]
  rfl

/-! ### A context is freed -/

/-- The end of a command changes the tokens of one context. -/
theorem State.ctx_endTok (s : State) (key k : Nat) (p n e : Bool) (j : Nat) : ∃ tk, (s.endTok key k p n e).ctx j = { s.ctx j with tok := tk } := by
  by_cases hj : j = key
  · subst hj; exact ⟨_, s.ctx_updCtx_same j _⟩
  · exact ⟨(s.ctx j).tok, State.ctx_updCtx_other _ _ hj⟩

theorem State.ctx_endTok_other (s : State) {key j : Nat} (k : Nat) (p n e : Bool) (h : j ≠ key) : (s.endTok key k p n e).ctx j = s.ctx j :=
  State.ctx_updCtx_other _ _ h

/-- What a context leaves behind when it is freed (R19, R332). -/
def Ctx.freed (c : Ctx) : Ctx := { live := { c.live with flights := [], q := [] }, xpat := c.xpat, cpat := c.cpat }

/-- A level but for the tokens it ends. -/
def Level.bare (l : Level) : Level := { l with toks := [] }

/-- What freeing contexts keeps: what every context leaves behind, units, memory, and levels but for tokens. -/
structure Frees (s t : State) : Prop where
  freed : ∀ j, (t.ctx j).freed = (s.ctx j).freed
  units : t.units = s.units
  mem : t.mem = s.mem
  levels : ∀ h, (t.level? h).map Level.bare = (s.level? h).map Level.bare

theorem Frees.refl (s : State) : Frees s s := ⟨fun _ => rfl, rfl, rfl, fun _ => rfl⟩

theorem Frees.trans {s t u : State} (h : Frees s t) (h' : Frees t u) : Frees s u :=
  ⟨fun j => (h'.freed j).trans (h.freed j), h'.units.trans h.units, h'.mem.trans h.mem, fun x => (h'.levels x).trans (h.levels x)⟩

theorem Frees.updCtx (s : State) (k : Nat) (f : Ctx → Ctx) (hf : (f (s.ctx k)).freed = (s.ctx k).freed) : Frees s (s.updCtx k f) :=
  ⟨fun j => by
    by_cases hj : j = k
    · subst hj; rw [State.ctx_updCtx_same, hf]
    · rw [State.ctx_updCtx_other _ _ hj], rfl, rfl, fun _ => rfl⟩

theorem State.endPmt_frees (s : State) (k : Nat) (ended : Nat × Nat → Bool) : Frees s (s.endPmt k ended) := by
  unfold State.endPmt
  refine (Frees.updCtx s k (fun c => { c with pmtWait := c.pmtWait.filter (fun w => !ended w) }) rfl).trans
    (foldl_related Frees Frees.refl Frees.trans _ (fun t w => ?_) _ _)
  split
  · exact .refl t
  · exact Frees.updCtx t _ _ rfl

theorem State.forget_frees (s : State) (k : Nat) : Frees s (s.forget k) :=
  ⟨fun _ => rfl, rfl, rfl, fun h => by
    rw [State.level?_map (s := s) (t := s.forget k) (g := fun l => { l with toks := l.toks.filter (fun t => t.1 != k) }) rfl h, Option.map_map]
    rfl⟩

theorem State.freeCtx_frees (s : State) (k : Nat) : Frees s (s.freeCtx k) := by
  have h := (s.endPmt_frees k (fun _ => true)).trans (State.forget_frees _ k)
  refine h.trans ⟨fun j => ?_, rfl, rfl, fun _ => rfl⟩
  unfold State.freeCtx
  by_cases hj : j = k
  · subst hj
    rw [State.ctx_setCtx_same, h.freed]
    rfl
  · rw [State.ctx_setCtx_other _ _ hj]

/-- No level ends a token of the context. -/
def NoTokens (k : Nat) (s : State) : Prop := ∀ h l, s.level? h = some l → ∀ x ∈ l.toks, x.1 ≠ k

theorem NoTokens.of_toks {k : Nat} {s t : State} (hk : NoTokens k s) (ht : ∀ h, (t.level? h).map Level.toks = (s.level? h).map Level.toks) : NoTokens k t := by
  intro j x hx y hy
  have hj := ht j
  rw [hx] at hj
  obtain ⟨z, hz, hzx⟩ := Option.map_eq_some_iff.mp hj.symm
  exact hk j z hz y (by rw [hzx]; exact hy)

theorem State.freeCtx_noTokens (s : State) (k : Nat) : NoTokens k (s.freeCtx k) := by
  intro h l hl x hx
  have hl' : (s.freeCtx k).level? h = ((s.endPmt k (fun _ => true)).level? h).map (fun l => { l with toks := l.toks.filter (fun t => t.1 != k) }) :=
    State.level?_map rfl h
  rw [hl] at hl'
  obtain ⟨m, -, rfl⟩ := Option.map_eq_some_iff.mp hl'.symm
  simpa using (List.mem_filter.mp hx).2

theorem State.ctx_freeCtx_same (s : State) (k : Nat) : (s.freeCtx k).ctx k = (s.ctx k).freed := State.ctx_setCtx_same _ _ _

/-- R17, R32: what is left of a unit's routine when it has ended. -/
structure Ended (s t : State) (uid k : Nat) (u : Unit) : Prop where
  ctx : t.ctx k = (s.ctx k).freed
  noTokens : NoTokens k t
  units : t.units = put s.units uid { u with open_ := u.open_.filter (· != k) }
  mem : t.mem = s.mem
  levels : ∀ h, (t.level? h).map Level.bare = (s.level? h).map Level.bare

theorem State.endRoutine_ended {s : State} {uid : Nat} {u : Unit} (hu : s.unit? uid = some u) (k : Nat) : Ended s (s.endRoutine uid k) uid k u := by
  unfold State.endRoutine
  simp only
  generalize (((s.ctx k).work.getD {}).resv.map (ctxKey (keyCore k))) ++ ((List.range 8).map (ctxKey (keyCore k))).filter (fun x => (s.ctx x).asg == some k) = ks
  have hks : Frees s (ks.foldl State.freeCtx s) := foldl_related Frees Frees.refl Frees.trans _ State.freeCtx_frees ks s
  generalize ks.foldl State.freeCtx s = s1 at hks
  generalize (s1.pipes.map _) = ps
  have h2 : Frees s { s1 with pipes := ps } := hks.trans ⟨fun _ => rfl, rfl, rfl, fun _ => rfl⟩
  have h3 := h2.trans (State.freeCtx_frees { s1 with pipes := ps } k)
  have hu3 : (({ s1 with pipes := ps } : State).freeCtx k).unit? uid = some u := (State.unit?_congr h3.units uid).trans hu
  rw [State.updUnit_of_some hu3]
  exact ⟨(State.ctx_freeCtx_same _ k).trans (h2.freed k), State.freeCtx_noTokens _ k, by rw [← h3.units], h3.mem, h3.levels⟩

/-! ### A unit counts -/

/-- R17: the counts of a level, and how its units ended. -/
def Level.tally (l : Level) : Nat × Nat × Bool × Bool := (l.ndone, l.total, l.err, l.pres)

/-- R17: a level that is over is reported: its tokens end, and it counts at its parent. -/
def State.reported (s : State) (h : Nat) (l : Level) : State :=
  (l.toks.foldl (fun s t => s.endTok t.1 t.2 false false false) (s.updLevel h (fun l => { l with reported := true, doneAt := s.now }))).updLevel l.parent
    (fun p => if l.cncl && l.ndone == 0 && l.total != 0 then { p with ncncl := p.ncncl + 1 } else { p with ndone := p.ndone + 1 })

theorem State.settle_cases (n h : Nat) (s : State) : State.settle n h s = s ∨
    ∃ m l, n = m + 1 ∧ s.level? h = some l ∧ handleKind h ≤ 2 ∧ State.settle n h s = State.settle m l.parent (s.reported h l) := by
  cases n with
  | zero => exact .inl rfl
  | succ n =>
    rw [State.settle]
    cases hl : s.level? h with
    | none => exact .inl rfl
    | some l =>
      simp only
      split
      case isTrue hd =>
        simp only [Bool.and_eq_true, decide_eq_true_eq] at hd
        exact .inr ⟨n, l, rfl, rfl, hd.2, rfl⟩
      case isFalse => exact .inl rfl

theorem State.updLevel_eq (s : State) (h : Nat) (f : Level → Level) : ∃ ls, s.updLevel h f = { s with levels := ls } := by
  unfold State.updLevel
  split
  · exact ⟨_, rfl⟩
  · exact ⟨s.levels, rfl⟩

theorem State.updLevel_units (s : State) (h : Nat) (f : Level → Level) : (s.updLevel h f).units = s.units := by
  obtain ⟨ls, e⟩ := s.updLevel_eq h f; rw [e]

theorem State.updLevel_ctxs (s : State) (h : Nat) (f : Level → Level) : (s.updLevel h f).ctxs = s.ctxs := by
  obtain ⟨ls, e⟩ := s.updLevel_eq h f; rw [e]

/-- What a change of a level does not touch is as before in every level. -/
theorem State.level?_updLevel_map {β : Type} {g : Level → β} (s : State) {h j : Nat} {f : Level → Level} (hf : j = h → ∀ x, g (f x) = g x) :
    ((s.updLevel h f).level? j).map g = (s.level? j).map g := by
  rw [State.level?_updLevel]
  split
  case isTrue hj =>
    subst hj
    rw [Option.map_map]
    exact congrArg (fun r => (s.level? j).map r) (funext (hf rfl))
  case isFalse => rfl

/-- The tokens that a level's end signals. -/
def State.endToks (s : State) (ts : List (Nat × Nat)) : State := ts.foldl (fun s t => s.endTok t.1 t.2 false false false) s

theorem State.endToks_levels (s : State) (ts : List (Nat × Nat)) : (s.endToks ts).levels = s.levels :=
  foldl_keeps State.levels (fun (s : State) (t : Nat × Nat) => s.endTok t.1 t.2 false false false) (fun _ _ => rfl) ts s
theorem State.ctx_endToks {k : Nat} {ts : List (Nat × Nat)} (h : ∀ x ∈ ts, x.1 ≠ k) (s : State) : (s.endToks ts).ctx k = s.ctx k := by
  induction ts generalizing s with
  | nil => rfl
  | cons t ts ih =>
    exact (ih (fun x hx => h x (List.mem_cons_of_mem _ hx)) _).trans (State.ctx_endTok_other s _ _ _ _ (h t List.mem_cons_self).symm)

/-- The end of a level is of contexts' tokens and of levels. -/
theorem State.reported_eq (s : State) (h : Nat) (l : Level) : ∃ xs ls, s.reported h l = { s with ctxs := xs, levels := ls } := by
  have endToks_eq : ∀ (ts : List (Nat × Nat)) (s : State), ∃ xs, s.endToks ts = { s with ctxs := xs } := by
    intro ts
    induction ts with
    | nil => exact fun s => ⟨s.ctxs, rfl⟩
    | cons t ts ih => exact fun s => ih (s.endTok t.1 t.2 false false false)
  obtain ⟨ls, h1⟩ := s.updLevel_eq h (fun l => { l with reported := true, doneAt := s.now })
  obtain ⟨xs, h2⟩ := endToks_eq l.toks { s with levels := ls }
  obtain ⟨ls', h3⟩ := ({ s with levels := ls, ctxs := xs } : State).updLevel_eq l.parent
    (fun p => if l.cncl && l.ndone == 0 && l.total != 0 then { p with ncncl := p.ncncl + 1 } else { p with ndone := p.ndone + 1 })
  unfold State.endToks at h2
  exact ⟨xs, ls', by unfold State.reported; rw [h1, h2, h3]⟩

/-- A property of levels that neither the report nor the count of a child changes. -/
theorem State.level?_reported {β : Type} (g : Level → β) (s : State) {h j : Nat} {l : Level} (hr : ∀ x b d, g { x with reported := b, doneAt := d } = g x)
    (hp : j = l.parent → ∀ x a b, g { x with ncncl := a, ndone := b } = g x) : ((s.reported h l).level? j).map g = (s.level? j).map g := by
  unfold State.reported
  rw [State.level?_updLevel_map (g := g) _ (fun hj x => by split <;> exact hp hj x _ _)]
  refine (congrArg (Option.map g) (State.level?_congr (State.endToks_levels _ _) j)).trans ?_
  exact State.level?_updLevel_map s (fun _ x => hr x _ _)

theorem State.reported_noTokens {s : State} {k : Nat} (hk : NoTokens k s) (h : Nat) (l : Level) : NoTokens k (s.reported h l) :=
  hk.of_toks fun _ => State.level?_reported _ s (fun _ _ _ => rfl) (fun _ _ _ _ => rfl)

theorem State.ctx_reported {s : State} {k h : Nat} {l : Level} (hk : NoTokens k s) (hl : s.level? h = some l) : (s.reported h l).ctx k = s.ctx k := by
  unfold State.reported
  rw [State.ctx_congr (State.updLevel_ctxs _ _ _)]
  exact (State.ctx_endToks (hk h l hl) _).trans (State.ctx_congr (s.updLevel_ctxs _ _) k)

/-- The levels at which the end of level `h` may count, `n` at most, are not level `j`. -/
def Avoids (s : State) (j : Nat) : Nat → Nat → Prop
  | 0, _ => True
  | n + 1, h => ∀ l, s.level? h = some l → handleKind h ≤ 2 → l.parent ≠ j ∧ Avoids s j n l.parent

theorem Avoids.of_parents {s t : State} {j : Nat} (ht : ∀ x, (t.level? x).map Level.parent = (s.level? x).map Level.parent) {n h : Nat} (ha : Avoids s j n h) :
    Avoids t j n h := by
  induction n generalizing h with
  | zero => trivial
  | succ n ih =>
    intro l hl hk
    have hp := ht h
    rw [hl] at hp
    obtain ⟨m, hm, hml⟩ := Option.map_eq_some_iff.mp hp.symm
    obtain ⟨h1, h2⟩ := ha m hm hk
    rw [← hml]
    exact ⟨h1, ih h2⟩

/-- R17: the end of a level leaves the counts of a level alone that is none of its parents. -/
theorem State.settle_tally {j n h : Nat} {s : State} (ha : Avoids s j n h) : ((State.settle n h s).level? j).map Level.tally = (s.level? j).map Level.tally := by
  induction n generalizing h s with
  | zero => rfl
  | succ n ih =>
    obtain heq | ⟨m, l, hn, hl, hk, heq⟩ := State.settle_cases (n + 1) h s
    · rw [heq]
    · obtain rfl := Nat.succ.inj hn
      obtain ⟨hne, ha'⟩ := ha l hl hk
      have hpar : ∀ x, ((s.reported h l).level? x).map Level.parent = (s.level? x).map Level.parent := fun x =>
        State.level?_reported _ s (fun _ _ _ => rfl) (fun _ _ _ _ => rfl)
      rw [heq, ih (ha'.of_parents hpar)]
      exact State.level?_reported _ s (fun _ _ _ => rfl) (fun hj => absurd hj.symm hne)

theorem State.settle_eq (n h : Nat) (s : State) : ∃ xs ls, State.settle n h s = { s with ctxs := xs, levels := ls } := by
  induction n generalizing h s with
  | zero => exact ⟨s.ctxs, s.levels, rfl⟩
  | succ n ih =>
    obtain heq | ⟨m, l, hn, -, -, heq⟩ := State.settle_cases (n + 1) h s
    · exact ⟨s.ctxs, s.levels, heq⟩
    · obtain rfl := Nat.succ.inj hn
      obtain ⟨xs, ls, h1⟩ := s.reported_eq h l
      obtain ⟨xs', ls', h2⟩ := ih l.parent (s.reported h l)
      exact ⟨xs', ls', by rw [heq, h2, h1]⟩

theorem State.settle_units (n h : Nat) (s : State) : (State.settle n h s).units = s.units := by
  obtain ⟨xs, ls, heq⟩ := State.settle_eq n h s
  rw [heq]

theorem State.ctx_settle {k n h : Nat} {s : State} (hk : NoTokens k s) : (State.settle n h s).ctx k = s.ctx k := by
  induction n generalizing h s with
  | zero => rfl
  | succ n ih =>
    obtain heq | ⟨m, l, hn, hl, -, heq⟩ := State.settle_cases (n + 1) h s
    · rw [heq]
    · obtain rfl := Nat.succ.inj hn
      rw [heq, ih (State.reported_noTokens hk h l), State.ctx_reported hk hl]

/-- The parents of a launch, as far as its completion counts: none is the launch itself. -/
theorem avoids_parents {s : State} {h : Nat} {l : Level} (hl : s.level? h = some l) (hp : l.parent ≠ h)
    (hx : ∀ x, s.level? l.parent = some x → handleKind l.parent ≤ 2 → x.parent ≠ h ∧ ∀ y, s.level? x.parent = some y → 2 < handleKind x.parent) :
    Avoids s h 4 h := by
  intro m hm _
  obtain rfl : l = m := Option.some.inj (hl.symm.trans hm)
  refine ⟨hp, fun x hxl hk => ?_⟩
  obtain ⟨hne, hy⟩ := hx x hxl hk
  exact ⟨hne, fun y hyl hk' => absurd (hy y hyl) (Nat.not_lt.mpr hk')⟩

/-- R354: a launch counts a unit. -/
def Level.counts (v : Unit) (l : Level) : Level := { l with ndone := l.ndone + 1, err := l.err || v.err, pres := l.pres || v.pres }

/-- R354: before its launch counts it, a unit leaves its scheduler. -/
theorem State.countUnit_eq {s : State} {v : Unit} (hv : s.unit? v.uid = some v) (hs : sortedKeys s.units = true) :
    ∃ s0 : State, s.countUnit v = State.settle 4 v.launch (s0.updLevel v.launch (Level.counts v)) ∧ s0.unit? v.uid = none ∧ s0.levels = s.levels ∧
      s0.ctxs = s.ctxs := by
  obtain ⟨mem, hc⟩ := State.changeUnit_of_some hv (fun u => { u with st := .complete })
  let s1 : State := { s with units := put s.units v.uid { v with st := .complete, when_ := s.now, prev := v.owner }, mem := mem }
  refine ⟨{ s1 with units := drop1 s1.units v.uid, pipes := s1.pipes.filter (fun p => p.point != v.uid) }, ?_, ?_, rfl, rfl⟩
  · unfold State.countUnit
    rw [hc]
    rfl
  · exact State.unit?_drop1 (s := s1) (sortedKeys_put _ _ hs) rfl

/-- R354: a unit that counts leaves its scheduler, and its launch counts it. -/
theorem State.countUnit_counts {s : State} {v : Unit} {l : Level} (hv : s.unit? v.uid = some v) (hs : sortedKeys s.units = true)
    (hl : s.level? v.launch = some l) (ha : Avoids s v.launch 4 v.launch) :
    (s.countUnit v).unit? v.uid = none ∧
      ((s.countUnit v).level? v.launch).map Level.tally = some (l.ndone + 1, l.total, l.err || v.err, l.pres || v.pres) ∧
      ∀ k, NoTokens k s → (s.countUnit v).ctx k = s.ctx k := by
  obtain ⟨s0, heq, hnone, hlev, hctxs⟩ := State.countUnit_eq hv hs
  have hkeep : ∀ {β : Type} (g : Level → β) (_ : ∀ x, g (x.counts v) = g x) (x : Nat),
      ((s0.updLevel v.launch (Level.counts v)).level? x).map g = (s.level? x).map g := fun g hg x => by
    rw [State.level?_updLevel_map s0 (fun _ => hg), State.level?_congr hlev]
  rw [heq]
  refine ⟨?_, ?_, fun k hk => ?_⟩
  · rw [State.unit?_congr (State.settle_units 4 _ _), State.unit?_congr (State.updLevel_units _ _ _), hnone]
  · rw [State.settle_tally (ha.of_parents (hkeep Level.parent fun _ => rfl)), State.level?_updLevel, if_pos rfl, State.level?_congr hlev, hl]
    rfl
  · rw [State.ctx_settle (hk.of_toks (hkeep Level.toks fun _ => rfl)), State.ctx_congr (State.updLevel_ctxs _ _ _), State.ctx_congr hctxs]

section
variable {s t : State} {uid k : Nat} {u : Unit} (h : Ended s t uid k u)
include h

theorem Ended.unit : t.unit? uid = some { u with open_ := u.open_.filter (· != k) } := by
  have := State.unit?_put s uid uid { u with open_ := u.open_.filter (· != k) }
  rw [if_pos rfl] at this
  exact (State.unit?_congr (s := { s with units := _ }) h.units uid).trans this

theorem Ended.sorted (hs : sortedKeys s.units = true) : sortedKeys t.units = true := by
  rw [h.units]; exact sortedKeys_put _ _ hs

theorem Ended.level_map {β : Type} {g : Level → β} (hg : ∀ l, g l.bare = g l) (x : Nat) : (t.level? x).map g = (s.level? x).map g := by
  have := congrArg (Option.map g) (h.levels x)
  simpa only [Option.map_map, Function.comp_def, hg] using this

end

theorem exec_unitCompletion {s : State} {u : Unit} {k : Nat} (hu : s.unit? u.uid = some u) (hst : u.st = .running) (hopen : u.open_ = [k])
    (hdone : s.routineDone k = true) : exec (.unitCompletion u.uid) s = .next (if handleDie u.launch = dieOf u.owner then
      (s.endRoutine u.uid k).countUnit { u with open_ := [] } else (s.endRoutine u.uid k).updUnit u.uid (fun u => { u with st := .counting })) := by
  have hv := (State.endRoutine_ended hu k).unit
  have hclosed : u.open_.filter (· != k) = [] := by simp [hopen]
  rw [hclosed] at hv
  show execUnitCompletion u.uid s = _
  simp only [execUnitCompletion, hu, hst]
  rw [if_neg (by decide), hopen, List.filter_cons_of_pos hdone, List.filter_nil, List.foldl_cons, List.foldl_nil, hv]
  rfl

/-- Settles O47: by what freeing contexts keeps, and by the chain of parents at which a launch's end counts. -/
theorem completion : Obligations.Completion := by
  refine ⟨?_, ?_⟩
  · intro s u k l hu hs hst hopen hdone hl hp hx
    have ended := State.endRoutine_ended hu k
    have hv : (s.endRoutine u.uid k).unit? u.uid = some { u with open_ := [] } := by
      rw [ended.unit, hopen]; simp
    have ha : Avoids (s.endRoutine u.uid k) u.launch 4 u.launch := (avoids_parents hl hp hx).of_parents (ended.level_map (g := Level.parent) fun _ => rfl)
    obtain ⟨m, hm, hmb⟩ := Option.map_eq_some_iff.mp ((ended.levels u.launch).trans (congrArg (Option.map Level.bare) hl))
    have bare {β : Type} (g : Level → β) (hg : ∀ x, g x.bare = g x) : g m = g l := by rw [← hg m, hmb, hg]
    have hndone := bare Level.ndone fun _ => rfl
    have hexec := exec_unitCompletion hu hst hopen hdone
    refine ⟨fun hd => ?_, fun hd => ?_⟩
    · obtain ⟨hnone, hcount, hctx⟩ := State.countUnit_counts (v := { u with open_ := [] }) hv (ended.sorted hs) hm ha
      obtain ⟨x, hx, ht⟩ := Option.map_eq_some_iff.mp hcount
      obtain ⟨hn, htot, herr, hpres⟩ : x.ndone = m.ndone + 1 ∧ x.total = m.total ∧ x.err = (m.err || u.err) ∧ x.pres = (m.pres || u.pres) := by
        simpa [Level.tally] using ht
      rw [if_pos hd] at hexec
      exact ⟨_, x, hexec, hnone, (hctx k ended.noTokens).trans ended.ctx, hx, by rw [hn, hndone], htot.trans (bare _ fun _ => rfl),
        herr.trans (by rw [bare Level.err fun _ => rfl]), hpres.trans (by rw [bare Level.pres fun _ => rfl])⟩
    · rw [if_neg hd, State.updUnit_of_some hv] at hexec
      refine ⟨_, _, hexec, (State.unit?_put _ _ _ _).trans (if_pos rfl), rfl, ended.ctx, ⟨m, hm, hndone⟩, fun a => ?_⟩
      rw [← ended.mem]
  · intro s u l hu hs hst hl hp hx
    obtain ⟨hnone, hcount, -⟩ := State.countUnit_counts hu hs hl (avoids_parents hl hp hx)
    obtain ⟨m, hm, ht⟩ := Option.map_eq_some_iff.mp hcount
    refine ⟨s.countUnit u, m, ?_, hnone, hm, congrArg Prod.fst ht⟩
    show execCompletionCountArrival u.uid s = _
    simp [execCompletionCountArrival, hu, hst]

end Sys2Proof.Machine

/-! PROOF. O46: units are dispatched, stolen, moved and cancelled; a primary is chosen; an image's data arrive. -/

namespace Sys2Proof.Machine

open Sys2Proof.Cert

/-! ### Dispatch -/

/-- A projection of the entries of a table that a change of them keeps. -/
theorem look_map_proj {α β : Type} {d : α} (m : SMap α) {g : α → α} {p : α → β} (h : ∀ x, p (g x) = p x) (k : Nat) :
    p (look d (m.map (fun e => (e.1, g e.2))) k) = p (look d m k) := by
  induction m with
  | nil => rfl
  | cons e m ih =>
    by_cases hk : k = e.1
    · simp [look, hk, h]
    · simpa [look, hk] using ih

theorem State.ctx_foldl_setCtx_other (c : Ctx) {ks : List Nat} {j : Nat} (hj : j ∉ ks) (s : State) :
    (ks.foldl (fun s y => s.setCtx y c) s).ctx j = s.ctx j := by
  induction ks generalizing s with
  | nil => rfl
  | cons k ks ih =>
    rw [List.mem_cons, not_or] at hj
    rw [List.foldl_cons, ih hj.2, State.ctx_setCtx_other _ _ hj.1]

theorem State.ctx_foldl_setCtx (c : Ctx) {ks : List Nat} {j : Nat} (hj : j ∈ ks) (s : State) :
    (ks.foldl (fun s y => s.setCtx y c) s).ctx j = c := by
  refine foldl_establishes (I := fun _ => True) (Q := fun t : State => t.ctx j = c) hj (fun _ _ _ _ => trivial) (fun t _ => t.ctx_setCtx_same j c) ?_ trivial
  intro k _ t _ ht
  by_cases hk : j = k
  · rw [hk, State.ctx_setCtx_same]
  · rw [State.ctx_setCtx_other _ _ hk, ht]

/-- R19: the context of a dispatched routine, the reserved ones, and all others. -/
theorem State.startRoutine_started {s : State} {l : Level} {u : Unit} (cores : List Nat) (stolen : Bool) (r : Nat) (task : Task) {k : Nat} {rest : List Nat}
    (hg : l.lrec.gang = false) (hn : (k :: rest).Nodup) : Cert.Started (s.startRoutine u l cores stolen (r, task, k :: rest)) l u task k rest := by
  have hk : k ∉ rest := (List.nodup_cons.mp hn).1
  unfold State.startRoutine
  simp only
  generalize hc : ({ s.dispatchState (keyCore k) with
    role := _, img := _, origin := _, wake := _, live := _, work := _, why := _, frozen := _ } : Ctx) = c
  unfold Cert.Started
  simp only [State.ctx_updCore, State.ctx_foldl_setCtx_other _ hk, State.ctx_setCtx_same]
  refine ⟨?_, ?_, ?_, ?_, ?_, ?_, ?_, ?_, ?_, fun x hx => ?_⟩
  · rw [← hc]
  · rw [← hc]
  · rw [← hc]; rfl
  · rw [← hc]; rfl
  · rw [← hc]; simp [hg, coinSeed]
  · rw [← hc]
  · rw [← hc]
  · rw [← hc]
  · rw [← hc]; exact ⟨_, rfl, by simp, rfl⟩
  · rw [State.ctx_foldl_setCtx _ hx]

theorem State.ctx_startRoutine_other {s : State} {l : Level} {u : Unit} (cores : List Nat) (stolen : Bool) (r : Nat) (task : Task) {k j : Nat} {rest : List Nat}
    (hj : j ∉ k :: rest) : (s.startRoutine u l cores stolen (r, task, k :: rest)).ctx j = s.ctx j := by
  rw [List.mem_cons, not_or] at hj
  simp only [State.startRoutine, State.ctx_updCore, State.ctx_foldl_setCtx_other _ hj.2]
  exact State.ctx_setCtx_other _ _ hj.1

/-- The claims a core has made (R371). -/
def Core.claimed (c : Core) : Nat × Nat := (c.claim, c.claims)

theorem State.startRoutine_claimed (s : State) (u : Unit) (l : Level) (cores : List Nat) (stolen : Bool) (x : Nat × Task × List Nat) (c : Nat) :
    ((s.startRoutine u l cores stolen x).core c).claimed = (s.core c).claimed := by
  obtain ⟨r, task, ks⟩ := x
  cases ks with
  | nil => rfl
  | cons k rest =>
    simp only [State.startRoutine]
    generalize ({ s.dispatchState (keyCore k) with
      role := _, img := _, origin := _, wake := _, live := _, work := _, why := _, frozen := _ } : Ctx) = x
    obtain ⟨xs, h⟩ := foldl_setCtx_eq rest { role := .reserved, img := l.img } (s.setCtx k x)
    rw [h]
    by_cases hc : c = keyCore k
    · subst hc
      rw [State.core_updCore_same]
      rfl
    · rw [State.core_updCore_other _ _ hc]
      rfl

theorem Core.untake_claimed (c : Core) : c.untake.claimed = c.claimed := by
  unfold Core.untake; split <;> rfl

theorem State.untake_claimed (s : State) (u : Unit) (c : Nat) : ((s.untake u).core c).claimed = (s.core c).claimed :=
  look_map_proj s.cores (g := fun x => if x.takes.any (fun t : Nat × Nat × Option Nat => t.1 == u.uid) then x.untake else x)
    (fun x => by split; exacts [x.untake_claimed, rfl]) c

/-- What the dispatch of one routine leaves. -/
structure Dispatched (s t : State) (u : Unit) (l : Level) (owner : Nat) (task : Task) (k : Nat) (rest : List Nat) : Prop where
  started : Cert.Started t l u task k rest
  others : ∀ j, j ∉ k :: rest → t.ctx j = s.ctx j
  unit : ∃ v, t.unit? u.uid = some v ∧ v.st = .running ∧ v.owner = owner ∧ v.open_ = [k]
  claims : ∀ c, (t.core c).claimed = (s.core c).claimed

theorem Started.congr {t t' : State} {l : Level} {u : Unit} {task : Task} {k : Nat} {rest : List Nat} (h : Cert.Started t l u task k rest)
    (hc : t'.ctxs = t.ctxs) : Cert.Started t' l u task k rest := by
  unfold Cert.Started at h ⊢
  simpa only [State.ctx_congr hc] using h

theorem State.dispatch_dispatched {s : State} {l : Level} {u : Unit} (owner : Nat) (stolen : Bool) (r : Nat) (task : Task) {k : Nat} {rest : List Nat}
    (hu : s.unit? u.uid = some u) (hl : s.level? u.launch = some l) (hg : l.lrec.gang = false) (hn : (k :: rest).Nodup) :
    Dispatched s (s.dispatch u owner stolen [(r, task, k :: rest)]) u l owner task k rest := by
  have hstart := State.startRoutine_started (s := s) (u := u) [keyCore k] stolen r task hg hn
  have hothers := fun j (hj : j ∉ k :: rest) => State.ctx_startRoutine_other (s := s) (l := l) (u := u) [keyCore k] stolen r task hj
  have hclaims := s.startRoutine_claimed u l [keyCore k] stolen (r, task, k :: rest)
  obtain ⟨xs, cs, h1⟩ := s.startRoutine_eq u l [keyCore k] stolen (r, task, k :: rest)
  obtain ⟨ps, h2⟩ := ({ s with ctxs := xs, cores := cs } : State).bindPipes_eq u l [k]
  let s2 : State := ({ s with ctxs := xs, cores := cs, pipes := ps } : State).untake u
  obtain ⟨m, h3⟩ := State.changeUnit_of_some (s := s2) hu (fun u => { u with st := .running, owner := owner, keys := [k], open_ := [k], claimed := stolen })
  have hd : s.dispatch u owner stolen [(r, task, k :: rest)] =
      s2.changeUnit u.uid (fun u => { u with st := .running, owner := owner, keys := [k], open_ := [k], claimed := stolen }) := by
    simp only [State.dispatch, hl, List.map_cons, List.map_nil, List.foldl_cons, List.foldl_nil]
    show State.changeUnit (State.untake (State.bindPipes (s.startRoutine u l [keyCore k] stolen (r, task, k :: rest)) u l [k]) u) _ _ = _
    rw [h1, h2]
    rfl
  rw [h1] at hstart hothers hclaims
  rw [hd, h3]
  refine ⟨Started.congr hstart rfl, hothers, ⟨_, (State.unit?_put s2 _ _ _).trans (if_pos rfl), rfl, rfl, rfl⟩, fun c => ?_⟩
  exact (State.untake_claimed { s with ctxs := xs, cores := cs, pipes := ps } u c).trans (hclaims c)

theorem State.die_updDie_same (s : State) (d : Nat) (f : Die → Die) : (s.updDie d f).die d = f (s.die d) := look_put_same _ _ _ _

/-! ### The primary -/

/-- R20: what becomes of a context chosen as the primary. -/
def Ctx.chosen (same : Bool) (c : Ctx) : Ctx :=
  { (if same || c.keepLatch then c else c.mapArch (fun a => { a with b := [] })) with keepLatch := false }

theorem Ctx.chosen_kept {c : Ctx} (h : c.keepLatch = true) (same : Bool) : (c.chosen same).live = c.live := by
  unfold Ctx.chosen; rw [if_pos (by simp [h])]

theorem Ctx.chosen_zeroed {c : Ctx} (h : c.keepLatch = false) (n : Nat) : (c.chosen false).live.readB n = 0 := by
  unfold Ctx.chosen; rw [if_neg (by simp [h])]; rfl

theorem State.makePrimary_eq (s : State) (core h : Nat) : s.makePrimary core h =
    (s.updCore core (fun x => { x with primary := h, choosing := false })).updCtx (ctxKey core h) (Ctx.chosen (decide (h = (s.core core).primary))) := rfl

/-! ### An image's data -/

theorem foldl_singleton {β δ : Type} (f : β → δ → β) (b : β) (x : δ) : [x].foldl f b = f b x := rfl

theorem State.writeImageData_mem (s : State) (core img : Nat) : (s.writeImageData core img).mem =
    (s.image img).data.foldl (fun (m : Memory) x => m.writeN (gsaOf core x.1) x.2)
      ((s.image img).bss.foldl (fun (m : Memory) x => m.clear (gsaOf core x.1) x.2) s.mem) := rfl

/-- R356: the data and zeros of an image with one run of each that do not meet. -/
theorem State.writeImageData_reads {s : State} {core img a n o : Nat} {bs : List Byte} (hw : s.mem.wf = true) (hb : (s.image img).bss = [(a, n)])
    (hd : (s.image img).data = [(o, bs)]) (hdis : a + n ≤ o ∨ o + bs.length ≤ a) :
    let t := s.writeImageData core img
    (∀ j < n, t.mem.read (gsaOf core (a + j)) = 0) ∧ (∀ j < bs.length, t.mem.read (gsaOf core (o + j)) = bs.getD j 0) ∧
      ∀ c, (c < gsaOf core a ∨ gsaOf core a + n ≤ c) → (c < gsaOf core o ∨ gsaOf core o + bs.length ≤ c) → t.mem.read c = s.mem.read c := by
  have hmem : (s.writeImageData core img).mem = (s.mem.clear (gsaOf core a) n).writeN (gsaOf core o) bs := by
    rw [State.writeImageData_mem, hb, hd, foldl_singleton, foldl_singleton]
  have hoff : ∀ x j, gsaOf core (x + j) = gsaOf core x + j := fun x j => (Nat.add_assoc _ _ _).symm
  have hdis' : gsaOf core a + n ≤ gsaOf core o ∨ gsaOf core o + bs.length ≤ gsaOf core a := by unfold gsaOf; omega
  simp only [hmem]
  refine ⟨fun j hj => ?_, fun j hj => ?_, fun c ha ho => ?_⟩
  · rw [hoff, Memory.read_writeN_other _ _ (by omega), Memory.read_clear, if_pos ⟨by omega, by omega⟩]
    rfl
  · rw [hoff, Memory.read_writeN_at _ _ _ (Memory.wf_clear _ _ hw) hj, List.getD_eq_getElem _ _ hj]
  · rw [Memory.read_writeN_other _ _ ho, Memory.read_clear, if_neg (by omega)]

theorem exec_imageDataLoad_ends {s : State} {core img at_ : Nat} (hc : coreExists core = true) (hl : (s.core core).loading = some (img, at_))
    (ht : at_ ≤ s.now + 1) (ha : ∀ n < 4, look false s.selfRef (4 * dieOf core + n) = false) :
    exec (.imageDataLoad core) s = .next ((s.writeImageData core img).updCore core (fun c => { c with
      image := some img, loading := none, takes := c.takes.filter (fun x => ((s.writeImageData core img).unit? x.1).any (fun u => u.st == .queued)) })) := by
  have hwake := ha (Config.imageStack img (dieOf core) % 4) (Nat.mod_lt _ (by decide))
  show execImageDataLoad core s = _
  simp only [execImageDataLoad, hc, Bool.not_true, Bool.false_eq_true, if_false, hl, hwake, and_false, or_false, if_neg (Nat.not_lt.mpr ht)]
  rfl

/-! ### Cancels -/

theorem has_drop1_of_not {α : Type} {m : SMap α} (n : Nat) {x : Nat} (h : has m x = false) : has (drop1 m n) x = false := by
  induction m with
  | nil => rfl
  | cons e m ih =>
    simp only [has, Bool.or_eq_false_iff] at h
    rw [drop1]
    split
    · exact h.2
    · simp [has, h.1, ih h.2]

theorem State.unit?_eq_none_iff (s : State) (x : Nat) : s.unit? x = none ↔ has s.units x = false := by
  unfold State.unit?; split <;> simp_all

/-- What freeing contexts leaves to cancels and units. -/
theorem State.freeCtx_cancels (s : State) (k : Nat) : (s.freeCtx k).cancels = s.cancels := by
  show (s.endPmt k (fun _ => true)).cancels = s.cancels
  unfold State.endPmt
  exact foldl_keeps State.cancels _ (fun t w => by split <;> rfl) _ _

/-- Cancelling a unit removes it, brings back none, and leaves the cancels that are on their way. -/
theorem State.cancelUnit_removes {s : State} (u : Unit) (hs : sortedKeys s.units = true) :
    sortedKeys (s.cancelUnit u).units = true ∧ (s.cancelUnit u).unit? u.uid = none ∧ (∀ x, s.unit? x = none → (s.cancelUnit u).unit? x = none) ∧
      (s.cancelUnit u).cancels = s.cancels := by
  -- the unit's state changes, where there is a unit
  obtain ⟨us, m, hc, hsu, hnone⟩ : ∃ us m, s.changeUnit u.uid (fun u => { u with st := .cancelled }) = { s with units := us, mem := m } ∧
      sortedKeys us = true ∧ ∀ x, has s.units x = false → has us x = false := by
    cases hu : s.unit? u.uid with
    | none => exact ⟨s.units, s.mem, State.changeUnit_of_none hu _, hs, fun _ h => h⟩
    | some v =>
      obtain ⟨m, hm⟩ := State.changeUnit_of_some hu (fun u => { u with st := .cancelled })
      refine ⟨_, m, hm, sortedKeys_put _ _ hs, fun x hx => ?_⟩
      have hne : x ≠ u.uid := by
        rintro rfl
        rw [(s.unit?_eq_none_iff _).mpr hx] at hu
        cases hu
      simp [has_put, hne, hx]
  let s1 : State := u.keys.foldl State.freeCtx { s with units := us, mem := m }
  have h1 : Frees { s with units := us, mem := m } s1 := foldl_related Frees Frees.refl Frees.trans _ State.freeCtx_frees _ _
  obtain ⟨ls, h2⟩ := ({ s1 with units := drop1 s1.units u.uid } : State).updLevel_eq u.launch (fun l => { l with ncncl := l.ncncl + 1 })
  obtain ⟨xs, ls', h3⟩ := State.settle_eq 4 u.launch { s1 with units := drop1 s1.units u.uid, levels := ls }
  have heq : s.cancelUnit u = { s1 with units := drop1 us u.uid, ctxs := xs, levels := ls' } := by
    have hsu : s1.units = us := h1.units
    unfold State.cancelUnit
    rw [hc]
    simp only
    rw [h2, h3, hsu]
  rw [heq]
  refine ⟨sortedKeys_drop1 _ hsu, (State.unit?_eq_none_iff _ _).mpr (has_drop1_same _ hsu), fun x hx => ?_, ?_⟩
  · exact (State.unit?_eq_none_iff _ _).mpr (has_drop1_of_not _ (hnone x ((s.unit?_eq_none_iff x).mp hx)))
  · exact foldl_keeps State.cancels State.freeCtx State.freeCtx_cancels u.keys { s with units := us, mem := m }

/-- R370: the units of a launch that have not started, at the scheduler of a die. -/
def State.openUnits (s : State) (d h : Nat) : List Unit :=
  (s.units.map Prod.snd).filter (fun u => u.launch == h && dieOf u.owner == d && (u.st == .queued || u.st == .reserving || u.st == .reserved))

/-- R370: cancelling a list of units removes each of them. -/
theorem State.foldl_cancelUnit {us : List Unit} {s : State} (hs : sortedKeys s.units = true) :
    (us.foldl State.cancelUnit s).cancels = s.cancels ∧ ∀ u ∈ us, (us.foldl State.cancelUnit s).unit? u.uid = none := by
  have one : ∀ u ∈ us, ∀ t : State, sortedKeys t.units = true ∧ t.cancels = s.cancels →
      sortedKeys (t.cancelUnit u).units = true ∧ (t.cancelUnit u).cancels = s.cancels := by
    rintro u - t ⟨hsort, hc⟩
    obtain ⟨hsort', -, -, hc'⟩ := State.cancelUnit_removes u hsort
    exact ⟨hsort', hc'.trans hc⟩
  refine ⟨(List.foldlRecOn us _ (motive := fun t : State => sortedKeys t.units = true ∧ t.cancels = s.cancels) ⟨hs, rfl⟩
    fun t ht u hu => one u hu t ht).2, fun u hu => ?_⟩
  refine foldl_establishes (Q := fun t : State => t.unit? u.uid = none) hu one (fun t ht => ?_) (fun v _ t ht hq => ?_) ⟨hs, rfl⟩
  · exact (State.cancelUnit_removes u ht.1).2.1
  · exact (State.cancelUnit_removes v ht.1).2.2.1 _ hq

/-- R354: the unit that sets out first of its launch is queued, or waits for its contexts, when it arrives. -/
theorem exec_unitTransfer {s : State} {u : Unit} {l : Level} (hu : s.unit? u.uid = some u) (hst : u.st = .moving) (hl : s.level? u.launch = some l)
    (hc : l.cncl = false) (hf : s.units.all (fun e => e.2.launch != u.launch || decide (u.idx ≤ e.2.idx)) = true) :
    exec (.unitTransfer u.uid) s = .next (s.updUnit u.uid (fun x => { x with st := if l.lrec.sync.isSome then .reserving else .queued, when_ := s.now })) := by
  have hfirst : s.units.any (fun e => e.2.launch == u.launch && e.2.st == .moving && dieOf e.2.owner == dieOf u.owner && decide (e.2.idx < u.idx)) = false := by
    refine List.any_eq_false.mpr fun e he => ?_
    have := List.all_eq_true.mp hf e he
    simp only [Bool.or_eq_true, bne_iff_ne, decide_eq_true_eq] at this
    rcases this with h | h
    · simp [h]
    · simp [Nat.not_lt.mpr h]
  have hmoving : (u.st != .moving) = false := by rw [hst]; rfl
  have hrec : s.recOf u = l.lrec := by unfold State.recOf; rw [hl]
  show execUnitTransfer u.uid s = _
  simp only [execUnitTransfer, hu, hfirst, hmoving, hl, hc, hrec, Bool.or_self, Bool.false_and, Bool.false_eq_true, if_false]

/-- Settles O46: what a dispatch leaves is said once for a pick and for a claim; a cancel removes each unit it finds and brings back none. -/
theorem dispatch : Obligations.Dispatch := by
  refine ⟨?_, ?_, ?_, ?_, ?_, ?_⟩
  · intro s core u p q k r task rest l hc hpick hplace hn hu hl hg
    obtain ⟨hstart, hothers, ⟨v, hv, hst, howner, hopen⟩, -⟩ := State.dispatch_dispatched core false r task hu hl hg hn
    refine ⟨(s.dispatch u core false [(r, task, k :: rest)]).updDie (dieOf core) (fun d => { d with rr := put d.rr (8 * core + p) ((q + 1) % 32) }), v,
      ?_, Started.congr hstart rfl, hv, hst, howner, hopen, hothers, ?_⟩
    · show execDispatchDecision core s = _
      simp only [execDispatchDecision, hc, Bool.not_true, Bool.false_eq_true, if_false, hpick, hplace]
    · rw [State.die_updDie_same]
      exact look_put_same _ _ _ _
  · intro s core u k r task rest l hc hfree hown hpick hhold hplaced hst hplace hn hu hl hg
    obtain ⟨hstart, -, ⟨v, hv, hrun, howner, -⟩, hclaims⟩ := State.dispatch_dispatched core true r task hu hl hg hn
    refine ⟨(s.dispatch u core true [(r, task, k :: rest)]).noteClaim core 0, v, ?_, Started.congr hstart rfl, hv, hrun, howner, ?_, ?_⟩
    · show execStealClaim core s = _
      have hfree' : (s.atStart.freeCtxs core).isEmpty = false := by simpa using hfree
      have hplaced' : (s.atStart.placement u core).isNone = false := by simpa using hplaced
      have hst' : (u.st == .running) = false := by rw [hst]; rfl
      simp only [execStealClaim, hc, hfree', hown, hpick, hhold, hplaced', hu, hst', hplace, Bool.not_true, Bool.false_eq_true, if_false, List.isEmpty_nil,
        Bool.or_self]
    · rw [State.noteClaim, State.core_updCore_same]
    · rw [State.noteClaim, State.core_updCore_same]
      exact congrArg (fun x => x.2 + 1) (hclaims core)
  · intro s core h hc hch hnext
    refine ⟨s.makePrimary core h, ?_, ?_⟩
    · show execNextPrimaryChoice core s = _
      simp [execNextPrimaryChoice, hc, hch, hnext]
    · rw [State.makePrimary_eq]
      refine ⟨?_, ?_, fun hne hk n => ?_, fun hk => ?_, fun _ => rfl, fun j hj => State.ctx_updCtx_other _ _ hj⟩
      · rw [State.core_updCtx, State.core_updCore_same]
      · rw [State.core_updCtx, State.core_updCore_same]
      · rw [State.ctx_updCtx_same, decide_eq_false hne]
        exact Ctx.chosen_zeroed hk n
      · rw [State.ctx_updCtx_same]
        exact Ctx.chosen_kept hk _
  · intro s u l hu hst hl hcn hfirst
    have hexec := exec_unitTransfer hu hst hl hcn hfirst
    rw [State.updUnit_of_some hu] at hexec
    exact ⟨_, _, hexec, (State.unit?_put _ _ _ _).trans (if_pos rfl), rfl, rfl, rfl, fun _ => rfl, rfl⟩
  · intro s core img hc
    refine ⟨fun hl u l hw hlev => ?_, fun at_ hl ht => ?_, fun at_ hl ht ha hw a n o bs hb hd _ _ hdis => ?_⟩
    · refine ⟨s.updCore core (fun c => { c with
        loading := (s.level? u.launch).map (fun l => (l.img, s.now + loadTime (s.image l.img))), image := none,
        takes := (s.loadsFor core u).map (fun d => (u.uid, d, c.image)) }), ?_, ?_, ?_, fun _ => rfl, rfl⟩
      · show execImageDataLoad core s = _
        simp only [execImageDataLoad, hc, Bool.not_true, Bool.false_eq_true, if_false, hl, hw]
      · rw [State.core_updCore_same]
        exact congrArg (Option.map _) hlev
      · rw [State.core_updCore_same]
    · show execImageDataLoad core s = _
      simp only [execImageDataLoad, hc, Bool.not_true, Bool.false_eq_true, if_false, hl, if_pos (Or.inl ht)]
    · refine ⟨_, exec_imageDataLoad_ends hc hl ht ha, ?_, ?_, State.writeImageData_reads hw hb hd hdis⟩
      · rw [State.core_updCore_same]
      · rw [State.core_updCore_same]
  · intro s d h hd hm hs
    obtain ⟨hcancels, hgone⟩ := State.foldl_cancelUnit (us := s.openUnits d h) (s := { s with cancels := s.cancels.filter (fun x => x != (d, h)) }) hs
    refine ⟨_, ?_, ?_, fun u hu hl ho hst => hgone u ?_⟩
    · show execCancelArrival d h s = _
      have hm' : s.cancels.contains (d, h) = true := by simpa using hm
      simp only [execCancelArrival, if_neg (Nat.not_le.mpr hd), hm', Bool.not_true, Bool.false_eq_true, if_false]
      rfl
    · rw [hcancels]
      simp
    · refine List.mem_filter.mpr ⟨List.mem_map_of_mem (f := Prod.snd) (State.mem_units hu), ?_⟩
      simp [hl, ho, hst]

end Sys2Proof.Machine

/-! PROOF. O45: levels are cancelled, runs end, handlers are set aside, records are read. -/

namespace Sys2Proof.Machine

open Sys2Proof.Cert

/-! ### What a cancel reaches -/

theorem State.mem_below {s : State} {x : Nat} (n : Nat) {hs : List Nat} (hx : x ∈ hs) : x ∈ s.below n hs := by
  induction n generalizing hs with
  | zero => exact hx
  | succ n ih =>
    simp only [State.below]
    split
    · exact hx
    · exact ih (List.mem_append_left _ hx)

/-- R29: what is below a level includes the levels of it that are not complete. -/
theorem State.child_mem_below {s : State} {h x : Nat} {y : Level} (hx : s.level? x = some y) (hp : y.parent = h) (hd : y.isDone = false) (n : Nat) :
    x ∈ s.below (n + 1) [h] := by
  simp only [State.below]
  by_cases hxh : x = h
  · split
    · simp [hxh]
    · exact State.mem_below n (List.mem_append_left _ (by simp [hxh]))
  · have hmem : x ∈ (s.levels.filter (fun e => !List.contains [h] e.1 && !e.2.isDone && (List.contains [h] e.2.parent || e.2.deps.any (List.contains [h])))).map Prod.fst := by
      refine List.mem_map.mpr ⟨(x, y), List.mem_filter.mpr ⟨State.mem_levels hx, ?_⟩, rfl⟩
      simp [hxh, hd, hp]
    split
    case isTrue he => rw [List.isEmpty_iff.mp he] at hmem; cases hmem
    case isFalse => exact State.mem_below n (List.mem_append_right _ hmem)

/-! ### The state that a cancel leaves -/

/-- A write to a partition's virtual space is of memory. -/
theorem State.virtWrite_eq (s : State) (part va : Nat) (bs : List Byte) : ∃ m, s.virtWrite part va bs = { s with mem := m } := by
  unfold State.virtWrite
  refine List.foldlRecOn _ _ (motive := fun t : State => ∃ m : Memory, t = { s with mem := m }) ⟨s.mem, rfl⟩ ?_
  rintro t ⟨m, rfl⟩ x -
  split
  · split
    · exact ⟨_, rfl⟩
    · exact ⟨m, rfl⟩
  · exact ⟨m, rfl⟩

theorem State.settleJob_eq (s : State) (h : Nat) : ∃ m ls, s.settleJob h = { s with mem := m, levels := ls } := by
  unfold State.settleJob
  split
  · split
    · obtain ⟨ls, hl⟩ := s.updLevel_eq h (fun l => { l with reported := true, doneAt := s.now })
      rw [hl]
      obtain ⟨m, hm⟩ := ({ s with levels := ls } : State).virtWrite_eq _ _ _
      exact ⟨m, ls, hm⟩
    · exact ⟨s.mem, s.levels, rfl⟩
  · exact ⟨s.mem, s.levels, rfl⟩

/-- The end of a job changes no other level, and no mark of a cancel. -/
theorem State.level?_settleJob {β : Type} (g : Level → β) (s : State) {h x : Nat} (hg : x = h → ∀ l b d, g { l with reported := b, doneAt := d } = g l) :
    ((s.settleJob h).level? x).map g = (s.level? x).map g := by
  unfold State.settleJob
  split
  · split
    · obtain ⟨m, hm⟩ := (s.updLevel h (fun l => { l with reported := true, doneAt := s.now })).virtWrite_eq _ _ _
      rw [hm]
      exact State.level?_updLevel_map s (fun hx l => hg hx l _ _)
    · rfl
  · rfl

/-- What dropping a job's tokens leaves alone. -/
structure DropsTokens (s t : State) : Prop where
  ctxs : t.ctxs = s.ctxs
  iss : t.iss = s.iss
  cancels : t.cancels = s.cancels
  agenda : t.agenda = s.agenda
  cncl : ∀ x, (t.level? x).map Level.cncl = (s.level? x).map Level.cncl
  other : ∀ x, handleKind x ≠ 4 → t.level? x = s.level? x

theorem DropsTokens.refl (s : State) : DropsTokens s s := ⟨rfl, rfl, rfl, rfl, fun _ => rfl, fun _ _ => rfl⟩

theorem DropsTokens.trans {s t u : State} (h : DropsTokens s t) (h' : DropsTokens t u) : DropsTokens s u :=
  ⟨h'.ctxs.trans h.ctxs, h'.iss.trans h.iss, h'.cancels.trans h.cancels, h'.agenda.trans h.agenda, fun x => (h'.cncl x).trans (h.cncl x),
    fun x hx => (h'.other x hx).trans (h.other x hx)⟩

theorem State.dropTokens_drops (s : State) {job : Nat} (hj : handleKind job = 4) : DropsTokens s (s.dropTokens job) := by
  unfold State.dropTokens
  simp only
  generalize hs0 : ({ s with dies := _, mbs := _ } : State) = s0
  generalize hf : (fun l : Level => ({ l with ncncl := l.ncncl + _ } : Level)) = f
  have h0 : DropsTokens s s0 := by subst hs0; exact ⟨rfl, rfl, rfl, rfl, fun _ => rfl, fun _ _ => rfl⟩
  refine h0.trans ?_
  obtain ⟨ls, h1⟩ := s0.updLevel_eq job f
  obtain ⟨m, ls', h2⟩ := ({ s0 with levels := ls } : State).settleJob_eq job
  have hlevel : ∀ {β : Type} (g : Level → β) (x : Nat), (x = job → ∀ l b d n, g { l with reported := b, doneAt := d, ncncl := n } = g l) →
      (((s0.updLevel job f).settleJob job).level? x).map g = (s0.level? x).map g := fun g x hg => by
    rw [State.level?_settleJob g _ (fun hx l b d => hg hx l b d l.ncncl),
      State.level?_updLevel_map s0 (fun hx l => by subst hf; exact hg hx l l.reported l.doneAt _)]
  refine ⟨?_, ?_, ?_, ?_, fun x => hlevel Level.cncl x (fun _ _ _ _ _ => rfl), fun x hx => ?_⟩
  · rw [h1, h2]
  · rw [h1, h2]
  · rw [h1, h2]
  · rw [h1, h2]
  · simpa using hlevel id x (fun he => absurd (he ▸ hj) hx)

/-- R29, R370: the levels a cancel reaches. -/
def State.reach (s : State) (h : Nat) : List Nat := s.below (s.levels.length + 1) [h]

/-- R204, R370: what a cancel of a level does. -/
structure Cancelled (s t : State) (h : Nat) : Prop where
  ctxs : t.ctxs = s.ctxs
  iss : t.iss = s.iss
  marked : ∀ x l, x ∈ s.reach h → s.level? x = some l → ∃ m, t.level? x = some m ∧ m.cncl = true
  counts : ∀ x l, handleKind x ≠ 4 → s.level? x = some l → ∃ m, t.level? x = some m ∧ m.ncncl = l.ncncl
  sent : ∀ x ∈ s.reach h, handleKind x = 1 → (∀ d < 4, (d, x) ∈ t.cancels) ∧ .cancelArrival (handleDie x) x ∈ t.agenda
  mem : (s.reach h).all (fun x => handleKind x != 4) = true → t.mem = s.mem

/-- R370: the levels of a list are marked. -/
def State.mark (s : State) (xs : List Nat) : State := xs.foldl (fun s x => s.updLevel x (fun l => { l with cncl := true })) s

/-- R370, log 90: the cancels of the launches of a list set out for every die, and are at once at the schedulers of their records. -/
def State.announce (s : State) (xs : List Nat) : State :=
  { s with
    agenda := (xs.filter (fun x => handleKind x == 1)).map (fun x => Instr.cancelArrival (handleDie x) x) ++ s.agenda,
    cancels := s.cancels ++ ((xs.filter (fun x => handleKind x == 1)).flatMap (fun x => (List.range 4).map (fun d => (d, x)))) }

theorem State.cancel_eq (s : State) (h : Nat) : s.cancel h =
    ((s.reach h).filter (fun x => handleKind x == 4)).foldl (fun s x => s.dropTokens x) ((s.mark (s.reach h)).announce (s.reach h)) := rfl

/-- Marking levels cancelled is of levels. -/
theorem State.marks_eq (xs : List Nat) (s : State) : ∃ ls, s.mark xs = { s with levels := ls } := by
  refine List.foldlRecOn _ _ (motive := fun t : State => ∃ ls, t = { s with levels := ls }) ⟨s.levels, rfl⟩ ?_
  rintro t ⟨ls, rfl⟩ x -
  obtain ⟨ls', h⟩ := ({ s with levels := ls } : State).updLevel_eq x (fun l => { l with cncl := true })
  exact ⟨ls', h⟩

theorem State.level?_marks_map {β : Type} (g : Level → β) (hg : ∀ l, g { l with cncl := true } = g l) (xs : List Nat) (s : State) (x : Nat) :
    ((s.mark xs).level? x).map g = (s.level? x).map g :=
  foldl_keeps (fun t : State => (t.level? x).map g) _ (fun t _ => State.level?_updLevel_map t (fun _ => hg)) xs s

theorem State.level?_marks {xs : List Nat} {x : Nat} (hx : x ∈ xs) {s : State} (hl : (s.level? x).isSome = true) :
    ((s.mark xs).level? x).map Level.cncl = some true := by
  refine foldl_establishes (I := fun t : State => (t.level? x).isSome = true) (Q := fun t : State => (t.level? x).map Level.cncl = some true) hx ?_ ?_ ?_ hl
  · intro y _ t ht
    rw [State.level?_updLevel]
    split
    · simp_all
    · exact ht
  · intro t ht
    obtain ⟨l, hl⟩ := Option.isSome_iff_exists.mp ht
    rw [State.level?_updLevel, if_pos rfl, hl]
    rfl
  · intro y _ t _ ht
    obtain ⟨l, hl, -⟩ := Option.map_eq_some_iff.mp ht
    rw [State.level?_updLevel]
    split
    case isTrue hxy => subst hxy; rw [hl]; rfl
    case isFalse => exact ht

theorem State.cancel_cancelled (s : State) (h : Nat) : Cancelled s (s.cancel h) h := by
  obtain ⟨ls, h1⟩ := State.marks_eq (s.reach h) s
  let s1 := (s.mark (s.reach h)).announce (s.reach h)
  have hctxs : s1.ctxs = s.ctxs := (congrArg State.ctxs h1 :)
  have hiss : s1.iss = s.iss := (congrArg State.iss h1 :)
  have hmem : s1.mem = s.mem := (congrArg State.mem h1 :)
  have drops : DropsTokens s1 (s.cancel h) :=
    List.foldlRecOn _ _ (motive := DropsTokens s1) (.refl s1) fun t ht x hx => ht.trans (t.dropTokens_drops (by simpa using (List.mem_filter.mp hx).2))
  refine ⟨drops.ctxs.trans hctxs, drops.iss.trans hiss, fun x l hx hl => ?_, fun x l hx hl => ?_, fun x hx hk => ?_, fun hall => ?_⟩
  · exact Option.map_eq_some_iff.mp ((drops.cncl x).trans (State.level?_marks hx (by rw [hl]; rfl)))
  · obtain ⟨m, hm, hn⟩ := Option.map_eq_some_iff.mp ((State.level?_marks_map Level.ncncl (fun _ => rfl) (s.reach h) s x).trans (congrArg _ hl))
    exact ⟨m, (drops.other x hx).trans hm, hn⟩
  · have hx' : x ∈ (s.reach h).filter (fun x => handleKind x == 1) := List.mem_filter.mpr ⟨hx, by simp [hk]⟩
    refine ⟨fun d hd => ?_, ?_⟩
    · rw [drops.cancels]
      exact List.mem_append_right _ (List.mem_flatMap.mpr ⟨x, hx', List.mem_map.mpr ⟨d, List.mem_range.mpr hd, rfl⟩⟩)
    · rw [drops.agenda]
      exact List.mem_append_left _ (List.mem_map.mpr ⟨x, hx', rfl⟩)
  · have hnone : (s.reach h).filter (fun x => handleKind x == 4) = [] :=
      List.filter_eq_nil_iff.mpr fun x hx => by simpa using List.all_eq_true.mp hall x hx
    rw [State.cancel_eq, hnone]
    exact hmem

/-! ### Words that answer with a status after a change of tables -/

/-- The status of a word that has not changed the contexts. -/
theorem State.status_after {s u : State} (hc : u.ctxs = s.ctxs) (hi : u.iss = s.iss) (prio : Nat) (v : W64) :
    ((u.status prio v).ctx s.key).live = { s.cur.live with flights := s.cur.live.flights ++ [statusFlight s prio v] } ∧ SameOthers s.key s (u.status prio v) := by
  have hk : u.key = s.key := by unfold State.key; rw [hi]
  have hcur : u.cur = s.cur := by unfold State.cur; rw [hk]; exact State.ctx_congr hc _
  have hfl : statusFlight u prio v = statusFlight s prio v := by unfold statusFlight; rw [hi]
  refine ⟨?_, fun j hj => ?_⟩
  · rw [← hk, u.ctx_status, hcur, hfl]
  · exact (u.ctx_status_other prio v j (by rw [hk]; exact hj)).trans (State.ctx_congr hc j)

/-! ### `q.cancel` -/

theorem State.level?_of_nameable {s : State} {k h : Nat} {l : Level} (hn : s.nameable k h = some l) : s.level? h = some l := by
  unfold State.nameable at hn
  split at hn
  case h_1 x hx =>
    split at hn
    · exact hx.trans hn
    · cases hn
  case h_2 => cases hn

theorem Level.isDone_iff {l : Level} : l.isDone = true ↔ l.total - l.ncncl - l.ndone = 0 := by simp [Level.isDone, Level.nout]

/-- The level a `q.cancel` names. -/
def State.cancelled (s : State) (f : TQ) : Nat := (s.value f.sp).toNat % 2 ^ 32

section
variable {s : State} {f : TQ} (hs : Settled s) (he : Executes (.qCancel f) f.g s)
include hs he

theorem exec_qCancel : exec (.qCancel f) s = .next (performQCancel f (s.value f.sp) [] s) := by
  show execQCancel f s = _
  rw [execQCancel, State.word_executes he]
  exact State.act_now hs _ _ _ _

theorem exec_qCancel_unknown (hn : s.nameable s.key (s.cancelled f) = none) : exec (.qCancel f) s = .next (s.status prioQ 2) := by
  rw [exec_qCancel hs he]
  unfold State.cancelled at hn
  simp only [performQCancel, hn]

theorem exec_qCancel_refused {l : Level} (hn : s.nameable s.key (s.cancelled f) = some l) (hk : 3 ≤ handleKind (s.cancelled f))
    (hu : s.isSuper s.key = false) : exec (.qCancel f) s = .next (s.status prioQ 3) := by
  rw [exec_qCancel hs he]
  unfold State.cancelled at hn hk
  simp only [performQCancel, hn]
  rw [if_pos ⟨hk, by simp [hu]⟩]

theorem exec_qCancel_finished {l : Level} (hn : s.nameable s.key (s.cancelled f) = some l) (hk : handleKind (s.cancelled f) ≤ 2) (hd : l.isDone = true) :
    exec (.qCancel f) s = .next (s.status prioQ 1) := by
  rw [exec_qCancel hs he]
  unfold State.cancelled at hn hk
  have hk' : ¬ (3 ≤ handleKind ((s.value f.sp).toNat % 2 ^ 32) ∧ (!s.isSuper s.key) = true) := by omega
  simp only [performQCancel, hn, if_neg hk', hd, if_true]

theorem exec_qCancel_cancels {l : Level} (hn : s.nameable s.key (s.cancelled f) = some l) (hk : handleKind (s.cancelled f) ≤ 2) (hd : l.isDone = false) :
    exec (.qCancel f) s = .next ((s.cancel (s.cancelled f)).status prioQ 0) := by
  rw [exec_qCancel hs he]
  unfold State.cancelled at hn hk ⊢
  have hk' : ¬ (3 ≤ handleKind ((s.value f.sp).toNat % 2 ^ 32) ∧ (!s.isSuper s.key) = true) := by omega
  simp only [performQCancel, hn, if_neg hk', hd, Bool.false_eq_true, if_false]

end

/-- A level that is cancelled is marked and keeps its count of cancelled parts. -/
theorem Cancelled.self {s t : State} {h : Nat} {l : Level} (hc : Cancelled s t h) (hl : s.level? h = some l) (hk : handleKind h ≠ 4) :
    ∃ m, t.level? h = some m ∧ m.cncl = true ∧ m.ncncl = l.ncncl := by
  obtain ⟨m, hm, hm1⟩ := hc.marked h l (State.mem_below _ List.mem_cons_self) hl
  obtain ⟨m', hm', hm2⟩ := hc.counts h l hk hl
  obtain rfl := Option.some.inj (hm.symm.trans hm')
  exact ⟨m, hm, hm1, hm2⟩

/-! ### `q.exit` -/

theorem State.updUnit_eq (s : State) (n : Nat) (f : Unit → Unit) : ∃ us, s.updUnit n f = { s with units := us } := by
  unfold State.updUnit
  split
  · exact ⟨_, rfl⟩
  · exact ⟨s.units, rfl⟩

/-- Leaving lines and pipes is of lines, cores, pipes, units and levels. -/
theorem State.leave_eq (s : State) (k : Nat) :
    ∃ ln cs ps us ls, s.leave k = { s with lines := ln, cores := cs, pipes := ps, units := us, levels := ls } := by
  unfold State.leave
  simp only
  generalize hs1 : ({ State.updCore _ _ _ with pipes := _ } : State) = s1
  have h1 : ∃ ln cs ps, s1 = { s with lines := ln, cores := cs, pipes := ps } := ⟨_, _, _, hs1.symm⟩
  obtain ⟨ln, cs, ps, rfl⟩ := h1
  split
  case h_1 w _ =>
    split
    · obtain ⟨us, hu⟩ := ({ s with lines := ln, cores := cs, pipes := ps } : State).updUnit_eq w.uid (fun u => { u with pres := true })
      obtain ⟨ls, hl⟩ := ({ s with lines := ln, cores := cs, pipes := ps, units := us } : State).updLevel_eq w.launch (fun l => { l with pres := true })
      exact ⟨ln, cs, ps, us, ls, by rw [hu, hl]⟩
    · exact ⟨ln, cs, ps, s.units, s.levels, rfl⟩
  case h_2 => exact ⟨ln, cs, ps, s.units, s.levels, rfl⟩

theorem exec_qExit {s : State} {f : TQ} (hs : Settled s) (he : Executes (.qExit f) f.g s) : exec (.qExit f) s = .next (s.exitRun s.key) := by
  have hsn : s.cur.snaps = [] := by
    have h : (!s.cur.snaps.isEmpty) = false := hs
    simpa using h
  have hu : s.underBranch = false := by
    unfold State.underBranch
    split
    · simp [hsn]
    · exact hs
  show execQExit f s = _
  rw [execQExit, State.word_executes he]
  simp only [hu, Bool.not_false, if_true, performQExit]

/-- The core of a context that has left the issue: another context may be chosen as the primary. -/
def State.yields (s : State) (k : Nat) : State :=
  s.updCore (keyCore k) (fun x => if x.primary = keyCtx k then { x with choosing := true } else x)

/-- R205: a unit's run has ended. -/
def Ctx.exited (c : Ctx) : Ctx :=
  { c with
    exiting := true, frozen := none, drain := none, waitk := none, rest := [], later := none, snaps := [], trapHold := none, pend := none,
    live := { c.live with flights := [], q := c.live.q.filter (fun e => decide (e.1 < 4)) } }

/-- R205: the run of a unit ends: its context exits, its unit is looked at for completion at once. -/
theorem State.exitRun_unit {s : State} {k : Nat} {w : Work} (hr : (s.ctx k).role = .unit) (hw : (s.ctx k).work = some w) :
    ∃ ln cs ps us ls, s.exitRun k = ({ s with lines := ln, cores := cs, pipes := ps, units := us, levels := ls,
                                              agenda := .unitCompletion w.uid :: s.agenda } : State).updCtx k Ctx.exited := by
  obtain ⟨ln, cs, ps, us, ls, hl⟩ := (s.yields k).leave_eq k
  refine ⟨ln, cs, ps, us, ls, ?_⟩
  have hr' : (((s.yields k).ctx k).role == .handler) = false := by
    show ((s.ctx k).role == .handler) = false
    rw [hr]; rfl
  have hw' : (((s.yields k).leave k).ctx k).work = some w := by rw [hl]; exact hw
  unfold State.exitRun
  simp only
  unfold State.yields at hr' hw' hl
  rw [hr', if_neg (by decide), hw', hl]
  rfl

/-- R194: a context whose prefetches are over. -/
def Ctx.waitless (c : Ctx) : Ctx := { c with pmtWait := c.pmtWait.filter (fun _ => !true) }

/-- R205: the run of a handler ends: its context is dormant, its coin kept. -/
theorem State.exitRun_handler {s : State} {k : Nat} (hr : (s.ctx k).role = .handler) (hp : (s.ctx k).pmtWait = []) :
    let t := s.exitRun k
    (t.ctx k).role = .dormant ∧ (t.ctx k).live.coin = (s.ctx k).live.coin ∧ (t.ctx k).live.g = [] ∧ (t.ctx k).asg = (s.ctx k).asg ∧
      t.mem = s.mem ∧ SameOthers k s t := by
  have hr' : (((s.yields k).ctx k).role == .handler) = true := by
    show ((s.ctx k).role == .handler) = true
    rw [hr]; rfl
  have heq : s.exitRun k = (s.yields k).rest k := by
    unfold State.exitRun
    simp only
    unfold State.yields at hr' ⊢
    rw [hr', if_pos rfl]
  have hpmt : (s.yields k).endPmt k (fun _ => true) = (s.yields k).updCtx k Ctx.waitless := by
    have hp' : ((s.yields k).ctx k).pmtWait = [] := hp
    unfold State.endPmt
    rw [hp']
    rfl
  have hrest : ∃ w, (s.yields k).rest k = (((s.yields k).updCtx k Ctx.waitless).forget k).setCtx k
      { role := .dormant, asg := (s.ctx k).asg, img := (s.ctx k).img, live := { coin := (s.ctx k).live.coin }, why := w,
        frozen := if w = 0 then none else some 15 } := by
    refine ⟨(s.yields k).heldAtStart (keyCore k), ?_⟩
    rw [State.rest, hpmt]
    rfl
  obtain ⟨w, hrest⟩ := hrest
  rw [heq, hrest]
  simp only [State.ctx_setCtx_same]
  refine ⟨trivial, trivial, trivial, trivial, rfl, fun j hj => ?_⟩
  rw [State.ctx_setCtx_other _ _ hj]
  exact (State.ctx_updCtx_other (s.yields k) Ctx.waitless hj :)

/-! ### `q.hset` and `q.srec` -/

/-- Which bits a mask of indices has. -/
theorem testBit_maskOf (is : List Nat) (n : Nat) : (maskOf is).testBit n = is.contains n := by
  have h : ∀ (is : List Nat) (m : Nat), (is.foldl (fun m i => m ||| 2 ^ i) m).testBit n = (m.testBit n || is.contains n) := by
    intro is
    induction is with
    | nil => simp
    | cons i is ih =>
      intro m
      rw [List.foldl_cons, ih, Nat.testBit_or, Nat.testBit_two_pow, List.contains_cons, Bool.or_assoc]
      congr 2
      rw [Bool.eq_iff_iff, decide_eq_true_iff, beq_iff_eq]
      exact eq_comm
  simpa [maskOf] using h is 0

/-- R207: a context set aside for handlers, with the coin it starts from. -/
def Ctx.setAside (key img : Nat) (coin : W64) : Ctx := { role := .dormant, asg := some key, img := img, live := { coin := coin } }

/-- R207: contexts of the core at hand are set aside, the one of index `i` in the list with the coin advanced `i + 1` times. -/
def State.setAside (s : State) (hs : List Nat) (key img : Nat) (coin : W64) (n : Nat) : State :=
  (List.range n).foldl (fun s i => s.setCtx (ctxKey s.iss.core (nth0 hs i)) (Ctx.setAside key img (coinAfter (i + 1) coin))) s

section
variable {s : State} {key img : Nat} {hs : List Nat} {coin : W64}

theorem State.setAside_eq (n : Nat) : ∃ xs, s.setAside hs key img coin n = { s with ctxs := xs } := by
  refine List.foldlRecOn _ _ (motive := fun t : State => ∃ xs, t = { s with ctxs := xs }) ⟨s.ctxs, rfl⟩ ?_
  rintro t ⟨xs, rfl⟩ i -
  exact ⟨_, rfl⟩

theorem State.setAside_succ (n : Nat) : s.setAside hs key img coin (n + 1) =
    (s.setAside hs key img coin n).setCtx (ctxKey s.iss.core (nth0 hs n)) (Ctx.setAside key img (coinAfter (n + 1) coin)) := by
  obtain ⟨xs, h⟩ := State.setAside_eq (s := s) (key := key) (img := img) (hs := hs) (coin := coin) n
  have hi : (s.setAside hs key img coin n).iss = s.iss := by rw [h]
  rw [← hi]
  simp [State.setAside, List.range_succ]

theorem State.ctx_setAside_other {j n : Nat} (hj : ∀ i < n, j ≠ ctxKey s.iss.core (nth0 hs i)) : (s.setAside hs key img coin n).ctx j = s.ctx j := by
  induction n with
  | zero => rfl
  | succ n ih => rw [State.setAside_succ, State.ctx_setCtx_other _ _ (hj n (Nat.lt_succ_self n)), ih fun i hi => hj i (Nat.lt_succ_of_lt hi)]

theorem State.ctx_setAside {i n : Nat} (hi : i < n) (hd : ∀ j < n, j ≠ i → ctxKey s.iss.core (nth0 hs i) ≠ ctxKey s.iss.core (nth0 hs j)) :
    (s.setAside hs key img coin n).ctx (ctxKey s.iss.core (nth0 hs i)) = Ctx.setAside key img (coinAfter (i + 1) coin) := by
  induction n with
  | zero => omega
  | succ n ih =>
    rw [State.setAside_succ]
    by_cases hn : i = n
    · rw [hn, State.ctx_setCtx_same]
    · rw [State.ctx_setCtx_other _ _ (hd n (Nat.lt_succ_self n) (Ne.symm hn)), ih (by omega) fun j hj => hd j (Nat.lt_succ_of_lt hj)]

end

/-- R207: a context that has set handlers aside. -/
def Ctx.assigned (n : Nat) (c : Ctx) : Ctx := { c with work := c.work.map (fun w => { w with hset := some n, resv := w.resv.drop n }) }

/-- R207: the contexts set aside and the one that sets them aside. -/
theorem State.setsAside {s : State} {n : Nat} {hs : List Nat} (hk : ∀ i < n, nth0 hs i ≠ s.iss.h) (hd : ∀ i < n, ∀ j < n, j ≠ i → nth0 hs i ≠ nth0 hs j)
    (img : Nat) (coin v : W64) :
    let t := ((s.setAside hs s.key img coin n).updCur (Ctx.assigned n)).status prioQ v
    (∀ i < n, t.ctx (ctxKey s.iss.core (nth0 hs i)) = Ctx.setAside s.key img (coinAfter (i + 1) coin)) ∧
      (t.ctx s.key).work = (s.cur.assigned n).work ∧
      (t.ctx s.key).live = { s.cur.live with flights := s.cur.live.flights ++ [statusFlight s 2 v] } ∧ t.mem = s.mem := by
  have hkey : ∀ i < n, ctxKey s.iss.core (nth0 hs i) ≠ s.key := fun i hi => by
    have := hk i hi
    unfold State.key ctxKey
    omega
  have haside : ∀ i < n, (s.setAside hs s.key img coin n).ctx (ctxKey s.iss.core (nth0 hs i)) = Ctx.setAside s.key img (coinAfter (i + 1) coin) :=
    fun i hi => State.ctx_setAside hi fun j hj hne => by
      have := hd i hi j hj hne
      unfold ctxKey
      omega
  have hself : (s.setAside hs s.key img coin n).ctx s.key = s.cur := State.ctx_setAside_other fun i hi => (hkey i hi).symm
  obtain ⟨xs, hxs⟩ := State.setAside_eq (s := s) (key := s.key) (img := img) (hs := hs) (coin := coin) n
  rw [hxs] at haside hself ⊢
  let s1 : State := { s with ctxs := xs }
  have hcur : (s1.updCur (Ctx.assigned n)).cur = s.cur.assigned n := (s1.cur_updCur _).trans (congrArg (Ctx.assigned n) hself)
  refine ⟨fun i hi => ?_, ?_, ?_, rfl⟩
  · have h1 := (s1.updCur (Ctx.assigned n)).ctx_status_other prioQ v _ (hkey i hi)
    have h2 := State.ctx_updCtx_other s1 (Ctx.assigned n) (hkey i hi)
    exact (h1.trans h2).trans (haside i hi)
  · have h : (((s1.updCur (Ctx.assigned n)).status prioQ v).ctx s.key).work = (s1.updCur (Ctx.assigned n)).cur.work :=
      (s1.updCur (Ctx.assigned n)).work_status prioQ v
    rw [h, hcur]
  · refine (congrArg Ctx.live ((s1.updCur (Ctx.assigned n)).ctx_status prioQ v) :).trans ?_
    simp only [hcur]
    rfl

theorem exec_qHset {s : State} {f : TQ} (hs : Settled s) (he : Executes (.qHset f) f.g s) :
    exec (.qHset f) s = .next (performQHset f s.cur.live.coin [] s) := by
  show execQHset f s = _
  rw [execQHset, State.word_executes he]
  exact State.act_now hs _ _ _ _

theorem performQHset_sets {s : State} {f : TQ} {w : Work} (hw : s.cur.work = some w) (hn : f.sub.toNat ≤ w.resv.length) (hh : w.hset = none) (coin : W64) :
    performQHset f coin [] s = ((s.setAside (w.resv.take f.sub.toNat) s.key s.cur.img coin f.sub.toNat).updCur (Ctx.assigned f.sub.toNat)).status prioQ
      (BitVec.ofNat 64 (maskOf (w.resv.take f.sub.toNat))) := by
  simp only [performQHset, hw, Option.getD_some, hh, Option.getD_none, Nat.add_zero, if_neg (Nat.not_lt.mpr hn), Option.isSome_none, Bool.false_eq_true, if_false]
  rfl

theorem exec_qSrec {s : State} {f : TQ} (hs : Settled s) (he : Executes (.qSrec f) f.g s) :
    exec (.qSrec f) s = .next (s.status prioQ (s.recordRead f)) := by
  show execQSrec f s = _
  rw [execQSrec, State.word_executes he]
  exact State.act_now hs _ _ _ _

theorem performQHset_few {s : State} {f : TQ} {w : Work} (hw : s.cur.work = some w) (hn : w.resv.length + w.hset.getD 0 < f.sub.toNat) (coin : W64) :
    performQHset f coin [] s = s.status prioQ (BitVec.ofNat 64 (2 ^ 32)) := by
  simp only [performQHset, hw, Option.getD_some, if_pos hn]

theorem performQHset_again {s : State} {f : TQ} {w : Work} (hw : s.cur.work = some w) (hn : f.sub.toNat ≤ w.resv.length + w.hset.getD 0)
    (hh : w.hset.isSome = true) (coin : W64) : performQHset f coin [] s = s.status prioQ (BitVec.ofNat 64 (2 * 2 ^ 32)) := by
  simp only [performQHset, hw, Option.getD_some, if_neg (Nat.not_lt.mpr hn), hh, if_true]

/-- R206: a record as the words that read it see it. -/
theorem Level.record_eq (l : Level) (hi : Bool) : l.record hi = if hi then BitVec.ofNat 64 (l.ncncl * 2 ^ 32 + l.ndone)
    else BitVec.ofNat 64 ((l.total - l.ncncl - l.ndone) * 2 ^ 32 + (if l.pres then 8 else 0) + (if l.err then 4 else 0) + (if l.cncl then 2 else 0) +
      (if l.total - l.ncncl - l.ndone = 0 then 1 else 0)) := by
  unfold Level.record
  simp only [Level.isDone_iff]
  rfl

/-- Settles O45: by what a cancel leaves (`Cancelled`), what the end of a run leaves, and what setting contexts aside leaves. -/
theorem levelWords : Obligations.LevelWords := by
  intro s f hs
  refine ⟨?_, ?_, ?_, ?_⟩
  · rintro h rfl he
    refine ⟨fun hn => ?_, fun l hn hk hu => ?_, fun l hn hk hd => ?_, fun l hn hk hd => ?_, fun l hn hk hd => ?_⟩
    · exact ⟨_, exec_qCancel_unknown hs he hn, rfl, s.onlyStatus_status 2 2⟩
    · exact ⟨_, exec_qCancel_refused hs he hn hk hu, rfl, s.onlyStatus_status 2 3⟩
    · exact ⟨_, exec_qCancel_finished hs he hn hk (Level.isDone_iff.mpr (by omega)), rfl, s.onlyStatus_status 2 1⟩
    · have hc := s.cancel_cancelled (s.cancelled f)
      obtain ⟨m, hm, hm1, hm2⟩ := hc.self (State.level?_of_nameable hn) (by rw [show handleKind (s.cancelled f) = 1 from hk]; decide)
      obtain ⟨hsent, hagenda⟩ := hc.sent _ (State.mem_below _ List.mem_cons_self) hk
      obtain ⟨hlive, hothers⟩ := State.status_after hc.ctxs hc.iss prioQ 0
      exact ⟨_, m, exec_qCancel_cancels hs he hn (by rw [show handleKind (s.cancelled f) = 1 from hk]; decide)
        (by rw [← Bool.not_eq_true, Level.isDone_iff]; omega), hm, hm1, hm2, hsent, hlive, hothers, List.contains_iff_mem.mpr hagenda, fun hall a => congrArg (Memory.read · a) (hc.mem hall)⟩
    · have hc := s.cancel_cancelled (s.cancelled f)
      obtain ⟨m, hm, hm1, hm2⟩ := hc.self (State.level?_of_nameable hn) (by rw [show handleKind (s.cancelled f) = 2 from hk]; decide)
      obtain ⟨hlive, hothers⟩ := State.status_after hc.ctxs hc.iss prioQ 0
      refine ⟨_, m, exec_qCancel_cancels hs he hn (by rw [show handleKind (s.cancelled f) = 2 from hk]) (by rw [← Bool.not_eq_true, Level.isDone_iff]; omega),
        hm, hm1, hm2, fun x y hx hp hkx hdx => ?_, hlive, hothers, fun hall a => congrArg (Memory.read · a) (hc.mem hall)⟩
      have hmem := State.child_mem_below hx hp (by rw [← Bool.not_eq_true, Level.isDone_iff]; omega) s.levels.length
      obtain ⟨hsent, hagenda⟩ := hc.sent x hmem hkx
      exact ⟨hc.marked x y hmem hx, hsent, List.contains_iff_mem.mpr hagenda⟩
  · intro he
    refine ⟨fun w hr hw => ?_, fun hr hp => ?_⟩
    · obtain ⟨ln, cs, ps, us, ls, heq⟩ := State.exitRun_unit hr hw
      refine ⟨_, (exec_qExit hs he).trans (by rw [heq]), ?_⟩
      rw [State.ctx_updCtx_same]
      exact ⟨rfl, hr, rfl, rfl, fun _ => rfl, fun j hj => State.ctx_updCtx_other _ _ hj, rfl, rfl⟩
    · obtain ⟨hrole, hcoin, hg, hasg, hmem, hothers⟩ := State.exitRun_handler hr hp
      exact ⟨_, exec_qExit hs he, hrole, hcoin, hg, hasg, fun a => by rw [hmem], hothers⟩
  · intro w hw he
    refine ⟨fun hn => ?_, fun hn hh => ?_, fun hn hh hnd hlt hh8 => ?_⟩
    · exact ⟨_, (exec_qHset hs he).trans (congrArg Host.Outcome.next (performQHset_few hw hn _)), s.onlyStatus_status prioQ _⟩
    · exact ⟨_, (exec_qHset hs he).trans (congrArg Host.Outcome.next (performQHset_again hw hn hh _)), s.onlyStatus_status prioQ _⟩
    · have hget : ∀ i < f.sub.toNat, ∃ x, w.resv[i]? = some x ∧ nth0 (w.resv.take f.sub.toNat) i = x := fun i hi => by
        refine ⟨_, List.getElem?_eq_getElem (by omega), ?_⟩
        rw [nth0, List.getD_eq_getElem?_getD, List.getElem?_take_of_lt hi, List.getElem?_eq_getElem (by omega), Option.getD_some]
      obtain ⟨haside, hwork, hlive, hmem⟩ := State.setsAside (s := s) (n := f.sub.toNat) (hs := w.resv.take f.sub.toNat)
        (fun i hi => by
          obtain ⟨x, hx, hxi⟩ := hget i hi
          rw [hxi]
          exact (hlt x (List.mem_of_getElem? hx)).2)
        (fun i hi j hj hne => by
          obtain ⟨x, hx, hxi⟩ := hget i hi
          obtain ⟨y, hy, hyj⟩ := hget j hj
          rw [hxi, hyj]
          rintro rfl
          exact hne ((List.getElem?_inj (by omega) hnd).mp (hy.trans hx.symm)))
        s.cur.img s.cur.live.coin (BitVec.ofNat 64 (maskOf (w.resv.take f.sub.toNat)))
      refine ⟨_, _, _, (exec_qHset hs he).trans (congrArg Host.Outcome.next (performQHset_sets hw hn hh _)), fun n hn64 => ?_, fun i hi => ?_,
        hwork.trans (congrArg (Option.map _) hw), rfl, rfl, hlive, fun a => by rw [hmem]⟩
      · rw [BitVec.getLsbD_ofNat, testBit_maskOf, decide_eq_true hn64, Bool.true_and]
      · obtain ⟨x, hx, hxi⟩ := hget i hi
        have hc := haside i hi
        rw [hxi] at hc
        refine ⟨x, hx, ?_⟩
        rw [hc]
        exact ⟨rfl, rfl, rfl⟩
  · intro he
    refine ⟨fun hsub _ => ?_, fun l hsub hn => ?_, fun hsub hn => ?_⟩
    · refine ⟨_, exec_qSrec hs he, ?_⟩
      rw [State.recordRead, if_pos hsub]
      exact s.onlyStatus_status 2 _
    · refine ⟨_, exec_qSrec hs he, ?_⟩
      rw [State.recordRead, if_neg (by rintro h; rw [h] at hsub; exact absurd hsub (by decide)), hn]
      show OnlyStatus s (s.status prioQ (l.record (f.sub == 1))) 2 _
      rw [l.record_eq]
      simp only [beq_iff_eq]
      exact s.onlyStatus_status 2 _
    · refine ⟨_, exec_qSrec hs he, ?_⟩
      rw [State.recordRead, if_neg (by rintro h; rw [h] at hsub; exact absurd hsub (by decide)), hn]
      exact s.onlyStatus_status 2 _

end Sys2Proof.Machine

/-! PROOF. The time: every operation of a cycle leaves the cycle count as it was; only the end of a cycle adds one (for O6). One equation
per operation of the model, in the order of their definitions. -/

set_option Elab.async false

namespace Sys2Proof.Machine

/-- A fold over states keeps the time when each of its steps does. -/
@[simp] theorem foldl_now {α : Type} (f : State → α → State) (hf : ∀ t a, (f t a).now = t.now) (l : List α) (s : State) :
    (l.foldl f s).now = s.now :=
  foldl_keeps State.now f hf l s

/-- What both branches of a choice keep, the choice keeps. -/
theorem ite_keeps {α β : Type} (g : α → β) {p : Prop} [Decidable p] {x y : α} {z : β} (hx : g x = z) (hy : g y = z) :
    g (if p then x else y) = z := by
  split
  · exact hx
  · exact hy

/-! ### Parts of the state, free choices, tokens -/

@[simp] theorem State.updLevel_now (s : State) (h : Nat) (f : Level → Level) : (s.updLevel h f).now = s.now := by
  unfold State.updLevel
  split <;> rfl

@[simp] theorem State.updUnit_now (s : State) (u : Nat) (f : Unit → Unit) : (s.updUnit u f).now = s.now := by
  unfold State.updUnit
  split <;> rfl

@[simp] theorem State.freshId_now (s : State) : s.freshId.2.now = s.now := rfl

@[simp] theorem State.freeNat_now (s : State) : s.freeNat.2.now = s.now := rfl

@[simp] theorem State.freeBit_now (s : State) : s.freeBit.2.now = s.now := rfl

@[simp] theorem State.armTok_now (s : State) (key k : Nat) : (s.armTok key k).now = s.now := rfl

@[simp] theorem State.endTok_now (s : State) (key k : Nat) (part nres err : Bool) : (s.endTok key k part nres err).now = s.now := rfl

@[simp] theorem State.armIf_now (s : State) (key : Nat) (kw : Bool) (k : Nat) : (s.armIf key kw k).now = s.now := by
  unfold State.armIf
  split <;> rfl

@[simp] theorem State.rejectTok_now (s : State) (key : Nat) (kw : Bool) (k : Nat) : (s.rejectTok key kw k).now = s.now := by
  unfold State.rejectTok
  split <;> rfl

@[simp] theorem State.endCmdTok_now (s : State) (c : Cmd) (nres err : Bool) : (s.endCmdTok c nres err).now = s.now := by
  unfold State.endCmdTok
  split <;> rfl

@[simp] theorem State.raiseFlags_now (s : State) (fls : List (Nat × Flags)) : (s.raiseFlags fls).now = s.now := by
  obtain ⟨xs, h⟩ := s.raiseFlags_rest fls
  rw [h]

/-! ### Bytes written, remote accesses -/

@[simp] theorem State.takeUnit_now (c : Cmd) (s : State) (u : Nat × Nat) : (State.takeUnit c s u).now = s.now := by
  unfold State.takeUnit
  dsimp only
  split <;> simp

@[simp] theorem State.beforeWrite_now (s : State) (a n : Nat) : (s.beforeWrite a n).now = s.now := by
  unfold State.beforeWrite
  split <;> simp

@[simp] theorem State.tagBytes_now (s : State) (a n : Nat) (cov : List (Nat × Nat)) : (s.tagBytes a n cov).now = s.now := by
  unfold State.tagBytes
  split <;> rfl

@[simp] theorem State.writeAt_now (s : State) (a : Nat) (bs : List Byte) (cov : List (Nat × Nat)) :
    (s.writeAt a bs cov).now = s.now := by
  simp [State.writeAt]

@[simp] theorem State.performStore_now (s : State) (a n : Nat) (v : W64) (cov : List (Nat × Nat)) :
    (s.performStore a n v cov).now = s.now := by
  unfold State.performStore
  split <;> simp

@[simp] theorem State.enterStage_now (s : State) (m : Msg) (st : Stage) (t : Nat) : (s.enterStage m st t).now = s.now := rfl

@[simp] theorem State.performLocal_now (s : State) (m : Msg) (view : Memory) (fmt : Nat → Nat) :
    (s.performLocal m view fmt).1.now = s.now := by
  unfold State.performLocal
  split <;> simp

@[simp] theorem State.send_now (s : State) (m : Msg) : (s.send m).now = s.now := by
  unfold State.send
  dsimp only
  repeat' split
  all_goals simp

/-! ### Translations, commands accepted and ended -/

@[simp] theorem State.translate_now (s : State) (part die va : Nat) (read write : Bool) :
    (s.translate part die va read write).2.now = s.now := by
  unfold State.translate
  dsimp only
  repeat' split
  all_goals simp

@[simp] theorem State.writePhys_now (s : State) (host : Bool) (pa : Nat) (cz : Bool) (b : Byte) :
    (s.writePhys host pa cz b).now = s.now := rfl

@[simp] theorem State.locate_now (s : State) (part die va n : Nat) (rd wr : Bool) : (s.locate part die va n rd wr).2.now = s.now := by
  unfold State.locate
  dsimp only
  repeat' split
  all_goals simp

@[simp] theorem State.writeLocs_now (s : State) (ls : List (Bool × Nat × Bool)) (bs : List Byte) : (s.writeLocs ls bs).now = s.now :=
  foldl_now _ (fun _ _ => State.writePhys_now _ _ _ _ _) _ _

@[simp] theorem State.reject_now (s : State) (f : TQ) (prio status : Nat) : (s.reject f prio status).now = s.now := by
  simp [State.reject]

@[simp] theorem State.accept_now (s : State) (f : TQ) (prio : Nat) (kind : CmdKind) (bar : Option Nat) (reads : Bool) (raw : List Byte) :
    (s.accept f prio kind bar reads raw).now = s.now := by
  unfold State.accept
  dsimp only
  split <;> simp

@[simp] theorem State.engineRead_now (s : State) (core off n : Nat) : (s.engineRead core off n).2.now = s.now := by
  simp [State.engineRead]

@[simp] theorem State.publish_now (s : State) (id : Nat) (ws : List ElemW) : (s.publish id ws).now = s.now := rfl

@[simp] theorem State.flush_now (s : State) (id : Nat) : (s.flush id).now = s.now := by
  unfold State.flush
  repeat' split
  all_goals simp

@[simp] theorem State.complete_now (s : State) (id : Nat) : (s.complete id).now = s.now := by
  unfold State.complete
  dsimp only
  split <;> simp

/-! ### Packets and tokens between dies -/

@[simp] theorem State.putPacket_now (s : State) (vc : Nat) (rsp : Bool) (id d n : Nat) : (s.putPacket vc rsp id d n).now = s.now := rfl

@[simp] theorem State.tokenOn_now (s : State) (m : MbMove) (d : Nat) : (s.tokenOn m d).now = s.now := by
  unfold State.tokenOn
  dsimp only
  repeat' split
  all_goals simp

@[simp] theorem State.pktOn_now (s : State) (p : Packet) (d : Nat) : (s.pktOn p d).now = s.now := by
  unfold State.pktOn
  dsimp only
  repeat' split
  all_goals simp

@[simp] theorem State.sendPacket_now (s : State) (vc : Nat) (rsp : Bool) (src to_ : Nat) : (s.sendPacket vc rsp src to_).now = s.now := by
  unfold State.sendPacket
  split <;> simp

@[simp] theorem State.retryToken_now (s : State) (m : MbMove) : (s.retryToken m).now = s.now := by
  unfold State.retryToken
  split <;> simp

@[simp] theorem State.retryPacket_now (s : State) (p : Packet) : (s.retryPacket p).now = s.now := by
  unfold State.retryPacket
  split <;> simp

/-! ### Array commands -/

@[simp] theorem State.updPair_now (s : State) (core p : Nat) (f : Pair → Pair) : (s.updPair core p f).now = s.now := rfl

@[simp] theorem State.updAdc_now (s : State) (core g : Nat) (f : Adc → Adc) : (s.updAdc core g f).now = s.now := rfl

@[simp] theorem State.takenRead_now (s : State) (id core off n : Nat) : (s.takenRead id core off n).2.now = s.now := by
  unfold State.takenRead
  dsimp only
  repeat' split
  all_goals simp

@[simp] theorem State.sampleInputs_now (s : State) (id core : Nat) (e : AEntry) (t : Nat) : (s.sampleInputs id core e t).2.now = s.now :=
  foldl_keeps (fun acc : List (List Byte) × State => acc.2.now) _ (fun _ _ => State.takenRead_now _ _ _ _ _) _ _

@[simp] theorem State.ckptRow_now (c : Cmd) (part : Nat) : ∀ (xs : List (Nat × List Byte)) (s : State), (s.ckptRow c part xs).1.now = s.now
  | [], _ => rfl
  | (va, bs) :: rest, s => by
    have hl := s.locate_now part (dieOf c.core) va bs.length false true
    unfold State.ckptRow
    split <;> rename_i heq <;> rw [heq] at hl
    · exact hl
    · exact (State.ckptRow_now c part rest _).trans ((State.writeLocs_now _ _ _).trans hl)
    · exact (State.ckptRow_now c part rest _).trans hl

@[simp] theorem State.aEffect_now (s : State) (c : Cmd) (n : Nat) (e : AEntry) (t : Nat) (ins : List (List Byte)) :
    (s.aEffect c n e t ins).now = s.now := by
  unfold State.aEffect
  dsimp only
  split
  · exact ite_keeps State.now (State.takenRead_now _ _ _ _ _) (State.takenRead_now _ _ _ _ _)
  · refine ite_keeps State.now ?_ ?_ <;> exact ite_keeps State.now rfl rfl
  · rfl
  · rfl
  · rfl
  · rfl
  · have hk := s.ckptRow_now c ((s.partOf c.core).getD 16) (s.ckptCells c.core e t)
    split <;> rename_i heq <;> rw [heq] at hk
    · exact ite_keeps State.now hk hk
    · exact hk
  · rfl
  · rfl

@[simp] theorem State.aStop_now (s : State) (c : Cmd) (n : Nat) (e : AEntry) : (s.aStop c n e).now = s.now := by
  unfold State.aStop
  dsimp only
  repeat' split
  all_goals simp

@[simp] theorem State.aCycle_now (s : State) (c : Cmd) (n : Nat) (e : AEntry) : (s.aCycle c n e).now = s.now := by
  unfold State.aCycle
  dsimp only
  repeat' split
  all_goals simp

@[simp] theorem State.arrays_now (s : State) : s.arrays.now = s.now := by
  refine foldl_now _ (fun t c => foldl_now _ (fun u x => ?_) _ _) _ _
  dsimp only
  split <;> simp

@[simp] theorem State.acceptA_now (s : State) (f : TQ) (es : List AEntry) (bar : Option Nat) (raw : List Byte) :
    (s.acceptA f es bar raw).now = s.now := by
  unfold State.acceptA
  repeat' split
  all_goals simp

@[simp] theorem performA_now (f : TQ) (recs : List (List Byte)) (ok : List Byte → Bool) (bar : Nat) (entry : List Byte → List Nat → State → AEntry)
    (s : State) : (performA f recs ok bar entry s).now = s.now := by
  unfold performA
  dsimp only
  split <;> simp

@[simp] theorem performGrouped_now (k : Grouped) (f : TQ) (recs : List (List Byte)) (s : State) :
    (performGrouped k f recs s).now = s.now := by
  unfold performGrouped
  dsimp only
  repeat' split
  all_goals simp

@[simp] theorem performAScl_now (f : TQ) (v : W64) (recs : List (List Byte)) (s : State) : (performAScl f v recs s).now = s.now := by
  unfold performAScl
  dsimp only
  split <;> simp

@[simp] theorem performAStat_now (f : TQ) (v : W64) (rs : List (List Byte)) (s : State) : (performAStat f v rs s).now = s.now := by
  unfold performAStat
  split <;> rfl

/-! ### Copies -/

@[simp] theorem State.spot_now (s : State) (core space a n : Nat) (rd wr : Bool) : (s.spot core space a n rd wr).2.now = s.now := by
  unfold State.spot
  split
  · have hl := s.locate_now ((s.partOf core).getD 16) (dieOf core) a n rd wr
    split <;> (rename_i _ heq; rw [heq] at hl; exact hl)
  · rfl

@[simp] theorem State.spots_now (core space n : Nat) (rd wr : Bool) : ∀ (k : Nat) (s : State) (a : Nat),
    (s.spots core space n rd wr k a).2.now = s.now
  | 0, _, _ => rfl
  | k + 1, _, _ => (State.spots_now core space n rd wr k _ _).trans (State.spot_now _ _ _ _ _ _ _)

@[simp] theorem State.getSpot_now (s : State) (p : Spot) (n : Nat) : (s.getSpot p n).2.now = s.now := by
  unfold State.getSpot
  split <;> simp

@[simp] theorem State.getSpots_now (n : Nat) : ∀ (ps : List Spot) (s : State), (s.getSpots n ps).2.now = s.now
  | [], _ => rfl
  | _ :: ps, _ => (State.getSpots_now n ps _).trans (State.getSpot_now _ _ _)

@[simp] theorem State.putSpot_now (s : State) (cov : List (Nat × Nat)) (p : Spot) (bs : List Byte) : (s.putSpot cov p bs).now = s.now := by
  unfold State.putSpot
  split <;> simp

@[simp] theorem State.markElems_now (s : State) (c : Cmd) (r : CopyRec) (js : List Nat) : (s.markElems c r js).now = s.now := by
  unfold State.markElems
  repeat' split
  all_goals simp

@[simp] theorem State.planUnits_now (core : Nat) (r : CopyRec) (sf df sa da : Nat) : ∀ (n u : Nat) (s : State),
    (s.planUnits core r sf df sa da u n).2.2.now = s.now
  | 0, _, _ => rfl
  | n + 1, u, s => by
    unfold State.planUnits
    dsimp only
    split
    · simp
    · split <;> simp [State.planUnits_now core r sf df sa da n]

@[simp] theorem State.readUnits_now (n : Nat) : ∀ (us : List UnitMove) (s : State), (s.readUnits n us).2.now = s.now
  | [], _ => rfl
  | _ :: us, _ => (State.readUnits_now n us _).trans (State.getSpots_now _ _ _)

@[simp] theorem State.writePieces_now (c : Cmd) (r : CopyRec) (sf df : Nat) (bs : List Byte) (cov : List (Nat × Nat)) :
    ∀ (ps : List Spot) (i : Nat) (s : State), (s.writePieces c r sf df bs cov i ps).now = s.now
  | [], _, _ => rfl
  | p :: ps, i, s => by
    unfold State.writePieces
    dsimp only
    split
    · rfl
    · refine (State.writePieces_now c r sf df bs cov ps _ _).trans ((State.putSpot_now _ _ _ _).trans ?_)
      split
      · rfl
      · exact State.getSpot_now _ _ _

@[simp] theorem State.finishUnit_now (s : State) (c : Cmd) (r : CopyRec) (sf df j : Nat) (u : UnitMove) :
    (s.finishUnit c r sf df j u).now = s.now := by
  unfold State.finishUnit
  dsimp only
  split <;> simp

@[simp] theorem State.finishUnits_now (c : Cmd) (r : CopyRec) (sf df : Nat) : ∀ (us : List UnitMove) (j : Nat) (s : State),
    (s.finishUnits c r sf df us j).now = s.now
  | [], _, _ => rfl
  | _ :: us, _, _ => (State.finishUnits_now c r sf df us _ _).trans (State.finishUnit_now _ _ _ _ _ _ _)

@[simp] theorem State.mergeUnit_now (s : State) (c : Cmd) (r : CopyRec) (sa da j : Nat) : (s.mergeUnit c r sa da j).now = s.now := by
  have hs := s.spot_now c.core r.sspc sa 1 true false
  unfold State.mergeUnit
  dsimp only
  split <;> rename_i heq <;> rw [heq] at hs
  · exact hs
  · exact hs
  · simpa using hs
  · rename_i p t _ _ _ _
    dsimp only at hs
    split
    · simpa using hs
    · split
      · simpa using hs
      · repeat' split
        all_goals simpa using hs

@[simp] theorem State.copySome_now (s : State) (id n : Nat) : (s.copySome id n).now = s.now := by
  unfold State.copySome
  dsimp only
  repeat' split
  all_goals simp

@[simp] theorem State.moveTime_now (s : State) (c : Cmd) (quiet : Bool) : (s.moveTime c quiet).now = s.now := by
  unfold State.moveTime
  dsimp only
  repeat' split
  all_goals simp

@[simp] theorem State.copyCycle_now (s : State) (c : Cmd) : (s.copyCycle c).now = s.now := by
  unfold State.copyCycle
  dsimp only
  repeat' split
  all_goals simp

@[simp] theorem State.filled_now (s : State) (r : CopyRec) : (s.filled r).now = s.now :=
  foldl_now _ (fun t (b : Nat × Nat) => t.updCore_now b.1 _) _ _

@[simp] theorem performQCopy_now (f : TQ) (v : W64) (recs : List (List Byte)) (s : State) : (performQCopy f v recs s).now = s.now := by
  unfold performQCopy
  dsimp only
  repeat' split
  all_goals simp

@[simp] theorem State.engineEvent_now (s : State) (die : Nat) (e : PendEv) : (s.engineEvent die e).now = s.now := rfl

@[simp] theorem State.filledBy_now (s : State) (c : Cmd) : (s.filledBy c).now = s.now := by
  unfold State.filledBy
  split <;> simp

/-! ### Tokens, pipes, events, collectives -/

@[simp] theorem performQKclr_now (f : TQ) (v : W64) (rs : List (List Byte)) (s : State) : (performQKclr f v rs s).now = s.now := rfl

@[simp] theorem performQWaitk_now (f : TQ) (v : W64) (rs : List (List Byte)) (s : State) : (performQWaitk f v rs s).now = s.now := rfl

@[simp] theorem performQDrain_now (f : TQ) (v : W64) (rs : List (List Byte)) (s : State) : (performQDrain f v rs s).now = s.now := rfl

@[simp] theorem performQFence_now (f : TQ) (v : W64) (rs : List (List Byte)) (s : State) : (performQFence f v rs s).now = s.now := rfl

@[simp] theorem State.updPipe_now (s : State) (p : Pipe) (f : Pipe → Pipe) : (s.updPipe p f).now = s.now := rfl

/-- A put that finds a pipe. -/
theorem State.tryPut_now {s t : State} {k n st u : Nat} {v : W64} (h : s.tryPut k n v u = some (st, t)) : t.now = s.now := by
  revert h
  unfold State.tryPut
  repeat' split
  all_goals intro h; cases h
  all_goals rfl

@[simp] theorem performQPut_now (f : TQ) (v : W64) (rs : List (List Byte)) (s : State) : (performQPut f v rs s).now = s.now := by
  unfold performQPut
  split
  · rename_i heq
    exact (State.status_now _ _ _).trans (State.tryPut_now heq)
  · rfl

@[simp] theorem State.deliverPipe_now (s : State) (p : Pipe) : (s.deliverPipe p).now = s.now := by
  unfold State.deliverPipe
  repeat' split
  all_goals rfl

@[simp] theorem performQPgreq_now (f : TQ) (va : W64) (rs : List (List Byte)) (s : State) : (performQPgreq f va rs s).now = s.now := by
  unfold performQPgreq
  dsimp only
  repeat' split
  all_goals simp

@[simp] theorem performQOffer_now (f : TQ) (v : W64) (rs : List (List Byte)) (s : State) : (performQOffer f v rs s).now = s.now := rfl

@[simp] theorem State.signalAll_now (s : State) (ts : List (Nat × Nat)) (part nres err : Bool) :
    (s.signalAll ts part nres err).now = s.now :=
  foldl_now _ (fun t (x : Nat × Nat) => t.endTok_now x.1 x.2 part nres err) _ _

@[simp] theorem State.idleSlot_now (s : State) (n : Nat) : (s.idleSlot n).now = s.now := by
  simp [State.idleSlot]

@[simp] theorem performQCarm_now (f : TQ) (v : W64) (recs : List (List Byte)) (s : State) : (performQCarm f v recs s).now = s.now := by
  unfold performQCarm
  dsimp only
  repeat' split
  all_goals simp

@[simp] theorem performQCtrig_now (f : TQ) (v : W64) (rs : List (List Byte)) (s : State) : (performQCtrig f v rs s).now = s.now := by
  unfold performQCtrig
  dsimp only
  split <;> simp

@[simp] theorem State.refuse_now (s : State) (slot p : Nat) : (s.refuse slot p).now = s.now := rfl

/-! ### Tiles and sorts -/

@[simp] theorem State.setTileRow_now (s : State) (core z r : Nat) (vs : List W32) : (s.setTileRow core z r vs).now = s.now := rfl

@[simp] theorem performProduct_now (f : TQ) (grouped : Bool) (recs : List (List Byte)) (s : State) :
    (performProduct f grouped recs s).now = s.now := by
  unfold performProduct
  dsimp only
  repeat' split
  all_goals simp

@[simp] theorem performMove_now (op : TileOp) (f : TQ) (recs : List (List Byte)) (s : State) : (performMove op f recs s).now = s.now := by
  unfold performMove
  dsimp only
  split <;> simp

@[simp] theorem performTCop_now (f : TQ) (v : W64) (recs : List (List Byte)) (s : State) : (performTCop f v recs s).now = s.now := by
  unfold performTCop
  dsimp only
  split <;> simp

@[simp] theorem State.productStep_now (s : State) (core : Nat) (p : Product) (g : Nat × Nat × Nat) (c : Nat) :
    (s.productStep core p g c).1.now = s.now :=
  foldl_keeps (fun acc : State × Flags => acc.1.now) _ (fun acc _ => acc.1.engineRead_now core _ _) _ _

@[simp] theorem State.moveStep_now (s : State) (core : Nat) (m : TileMove) (r : Nat) : (s.moveStep core m r).1.now = s.now := by
  unfold State.moveStep
  split <;> simp

@[simp] theorem State.tStep_now (s : State) (c : Cmd) : (s.tStep c).now = s.now := by
  unfold State.tStep
  dsimp only
  repeat' split
  all_goals simp

@[simp] theorem State.tStop_now (s : State) (c : Cmd) : (s.tStop c).now = s.now := by
  unfold State.tStop
  repeat' split
  all_goals simp

@[simp] theorem State.sortSample_now (s : State) (id : Nat) : (s.sortSample id).now = s.now := by
  unfold State.sortSample
  dsimp only
  repeat' split
  all_goals simp

@[simp] theorem State.sortCycle_now (s : State) (c : Cmd) : (s.sortCycle c).now = s.now := by
  unfold State.sortCycle
  dsimp only
  repeat' split
  all_goals simp

@[simp] theorem performQSortc_now (f : TQ) (v : W64) (recs : List (List Byte)) (s : State) : (performQSortc f v recs s).now = s.now := by
  unfold performQSortc
  dsimp only
  split <;> simp

/-! ### Levels, launches, graphs -/

@[simp] theorem State.virtWrite_now (s : State) (part va : Nat) (bs : List Byte) : (s.virtWrite part va bs).now = s.now := by
  refine foldl_now _ (fun t x => ?_) _ _
  repeat' split
  all_goals simp

@[simp] theorem State.newHandle_now (s : State) (kind die : Nat) : (s.newHandle kind die).2.now = s.now := rfl

@[simp] theorem State.settle_now (n h : Nat) (s : State) : (State.settle n h s).now = s.now := by
  obtain ⟨ls, xs, e⟩ := settle_eq n h s
  rw [e]

@[simp] theorem State.settleJob_now (s : State) (h : Nat) : (s.settleJob h).now = s.now := by
  unfold State.settleJob
  repeat' split
  all_goals simp

@[simp] theorem State.writeUnitRecord_now (s : State) (u : Unit) : (s.writeUnitRecord u).now = s.now := by
  unfold State.writeUnitRecord
  split <;> rfl

@[simp] theorem State.addUnits_now (h die : Nat) (e : List Nat) (ptr : Nat) (sync : Bool) : ∀ (n i : Nat) (s : State),
    (s.addUnits h die e ptr sync n i).now = s.now
  | 0, _, _ => rfl
  | n + 1, _, _ => (State.addUnits_now h die e ptr sync n _ _).trans (State.writeUnitRecord_now _ _)

@[simp] theorem State.createLaunch_now (s : State) (die part img parent : Nat) (super : Bool) (deps : List Nat) (b : List Byte) :
    (s.createLaunch die part img parent super deps b).2.2.now = s.now := by
  unfold State.createLaunch
  iterate 7 refine ite_keeps (fun r : Nat × Nat × State => r.2.2.now) rfl ?_
  refine (State.addUnits_now _ _ _ _ _ _ _ _).trans ?_
  dsimp only
  split
  · exact ite_keeps State.now rfl rfl
  · rfl

@[simp] theorem State.attach_now (s : State) (f : TQ) (h : Nat) : (s.attach f h).now = s.now := by
  unfold State.attach
  split <;> simp

@[simp] theorem State.addChild_now (s : State) (parent : Nat) : (s.addChild parent).now = s.now := by
  simp [State.addChild]

@[simp] theorem performQLaunch_now (f : TQ) (v : W64) (recs : List (List Byte)) (s : State) : (performQLaunch f v recs s).now = s.now :=
  (State.status_now _ _ _).trans (ite_keeps State.now
    ((State.attach_now _ _ _).trans ((State.addChild_now _ _).trans (s.createLaunch_now _ _ _ _ _ _ _)))
    (s.createLaunch_now _ _ _ _ _ _ _))

@[simp] theorem State.createAll_now (die part img graph : Nat) (super : Bool) :
    ∀ (bs : List (List Byte)) (made : List (Nat × List (Nat × Nat × Nat × Nat))) (s : State),
      (s.createAll die part img graph super bs made).2.now = s.now
  | [], _, _ => rfl
  | b :: bs, made, s => by
    unfold State.createAll
    dsimp only
    split
    · rename_i heq
      have hc := congrArg (fun r : Nat × Nat × State => r.2.2.now) heq
      exact (State.createAll_now die part img graph super bs _ _).trans (hc.symm.trans (s.createLaunch_now _ _ _ _ _ _ _))
    · rfl

@[simp] theorem performQGlaunch_now (f : TQ) (v : W64) (recs : List (List Byte)) (s : State) :
    (performQGlaunch f v recs s).now = s.now := by
  unfold performQGlaunch
  dsimp only
  repeat' split
  all_goals simp

/-! ### Units that end, cancels, claims -/

@[simp] theorem State.forget_now (s : State) (k : Nat) : (s.forget k).now = s.now := rfl

@[simp] theorem State.endPmt_now (s : State) (k : Nat) (ended : Nat × Nat → Bool) : (s.endPmt k ended).now = s.now := by
  refine (foldl_now _ (fun t w => ?_) _ _).trans (State.updCtx_now _ _ _)
  split <;> rfl

@[simp] theorem State.rest_now (s : State) (k : Nat) : (s.rest k).now = s.now := by
  unfold State.rest
  dsimp only
  split <;> simp

@[simp] theorem State.leave_now (s : State) (k : Nat) : (s.leave k).now = s.now := by
  unfold State.leave
  dsimp only
  repeat' split
  all_goals simp

@[simp] theorem State.exitRun_now (s : State) (k : Nat) : (s.exitRun k).now = s.now := by
  unfold State.exitRun
  dsimp only
  repeat' split
  all_goals simp

@[simp] theorem State.dropTokens_now (s : State) (job : Nat) : (s.dropTokens job).now = s.now := by
  simp [State.dropTokens]

@[simp] theorem State.cancel_now (s : State) (h : Nat) : (s.cancel h).now = s.now := by
  simp [State.cancel]

@[simp] theorem performQCancel_now (f : TQ) (v : W64) (rs : List (List Byte)) (s : State) : (performQCancel f v rs s).now = s.now := by
  unfold performQCancel
  dsimp only
  repeat' split
  all_goals simp

@[simp] theorem State.dropTakes_now (s : State) : s.dropTakes.now = s.now := by
  refine foldl_now _ (fun t e => ?_) _ _
  repeat' split
  all_goals rfl

@[simp] theorem performQHset_now (f : TQ) (coin : W64) (rs : List (List Byte)) (s : State) : (performQHset f coin rs s).now = s.now := by
  unfold performQHset
  dsimp only
  split
  · rfl
  · split
    · rfl
    · exact foldl_now _ (fun t (i : Nat) => t.setCtx_now _ _) _ _

@[simp] theorem State.noteClaim_now (s : State) (core code : Nat) : (s.noteClaim core code).now = s.now := rfl

@[simp] theorem State.loseClaims_now (s : State) : s.loseClaims.now = s.now := by
  refine foldl_now _ (fun t e => ?_) _ _
  split <;> rfl

/-! ### Words performed when their bundle is released -/

@[simp] theorem State.performWord_now (s : State) (i : Instr) (v : W64) (rs : List (List Byte)) (iss : Iss) :
    (s.performWord i v rs iss).now = s.now := by
  unfold State.performWord
  split <;> simp [performAFwd, performABwd, performAUpd, performAXfer, performASymw, performASymr, performAProg, performACkpt,
    performAGfwd, performAGbwd, performAGupd, performASeed, performTMm, performTMmg, performTLdb, performTZclr,
    performTZld, performTZst, performTZadd, performQExit, performQTokst, performQSrec, performQCstat]

@[simp] theorem State.release_now (s : State) (k : Nat) (h : Held) : (s.release k h).now = s.now := by
  unfold State.release
  repeat' split
  all_goals simp

@[simp] theorem State.releaseAll_now (k : Nat) : ∀ (hs : List Held) (s : State), (State.releaseAll k hs s).now = s.now
  | [], _ => rfl
  | h :: hs, s => by
    unfold State.releaseAll
    split
    · exact foldl_keeps State.now _ (fun t h => t.release_now k h) _ s
    · exact (State.releaseAll_now k hs _).trans (State.release_now _ _ _)

@[simp] theorem State.goOn_now (s : State) (k : Nat) : (s.goOn k).now = s.now := by
  simp [State.goOn]

@[simp] theorem State.goOnWalks_now (s : State) : s.goOnWalks.now = s.now := by
  simp [State.goOnWalks]

/-! ### Streaming commands, engines, the host -/

@[simp] theorem State.freeLevels_now (s : State) : s.freeLevels.now = s.now := rfl

@[simp] theorem State.computeStream_now (s : State) (id : Nat) : (s.computeStream id).now = s.now := by
  unfold State.computeStream
  repeat' split
  all_goals rfl

@[simp] theorem State.sampleStream_now (s : State) (id : Nat) : (s.sampleStream id).now = s.now := by
  unfold State.sampleStream
  repeat' split
  all_goals simp

@[simp] theorem State.performElem_now (s : State) (cov : List (Nat × Nat)) (w : ElemW) :
    (s.performElem cov w).now = s.now := by
  simp [State.performElem]

@[simp] theorem State.performElems_now (s : State) (cov : List (Nat × Nat)) (ws : List ElemW) :
    (s.performElems cov ws).now = s.now := by
  simp [State.performElems]

@[simp] theorem State.runAhead_now (s : State) (c : Cmd) (n : Nat) (more : Flags) :
    (s.runAhead c n more).now = s.now := by
  simp [State.runAhead]

@[simp] theorem State.settle384_now (s : State) (c : Cmd) : (s.settle384 c).now = s.now := by
  unfold State.settle384
  dsimp only
  repeat' split
  all_goals simp

@[simp] theorem State.endCopies_now (s : State) (d : Nat) : (s.endCopies d).now = s.now := by
  simp [State.endCopies]

@[simp] theorem State.denyTransfers_now (s : State) (d : Nat) : (s.denyTransfers d).now = s.now :=
  foldl_now _ (fun _ _ => State.refuse_now _ _ _) _ _

@[simp] theorem State.finishService_now (s : State) (st : Nat) (resp : List Byte) : (s.finishService st resp).now = s.now := rfl

@[simp] theorem State.undefinedService_now (s : State) (code : Nat) : (s.undefinedService code).now = s.now := rfl

@[simp] theorem State.hostWrite_now (s : State) (x : HostWrite) : (s.hostWrite x).now = s.now := by
  unfold State.hostWrite
  dsimp only
  repeat' split
  all_goals simp

@[simp] theorem State.hostWrites_now (s : State) : s.hostWrites.now = s.now := by
  simp [State.hostWrites]

@[simp] theorem State.streamCycle_now (s : State) (c : Cmd) : (s.streamCycle c).now = s.now := by
  unfold State.streamCycle
  dsimp only
  repeat' split
  all_goals simp

@[simp] theorem State.matrixCycle_now (s : State) (c : Cmd) : (s.matrixCycle c).now = s.now := by
  unfold State.matrixCycle
  dsimp only
  repeat' split
  all_goals simp

@[simp] theorem State.otherCycle_now (s : State) (c : Cmd) : (s.otherCycle c).now = s.now := by
  unfold State.otherCycle
  repeat' split
  all_goals simp

@[simp] theorem State.endLost_now (s : State) : s.endLost.now = s.now := by
  simp [State.endLost]

@[simp] theorem State.engines_now (s : State) : s.engines.now = s.now := by
  simp [State.engines]

@[simp] theorem State.barriers_now (s : State) : s.barriers.now = s.now := rfl

/-! ### A cycle -/

/-- The end of a cycle adds one to the cycle count. -/
theorem State.advance_now (s : State) : s.advance.now = s.now + 1 := by
  refine congrArg (· + 1) ((foldl_now _ State.deliverPipe_now _ _).trans ?_)
  exact (State.barriers_now _).trans ((State.engines_now _).trans ((State.dropTakes_now _).trans s.loseClaims_now))

@[simp] theorem State.sometimes_now : ∀ (es : List Instr) (s : State), (State.sometimes es s).2.now = s.now
  | [], _ => rfl
  | _ :: es, _ => State.sometimes_now es _

@[simp] theorem State.onTheWay_now : ∀ (es : List (Instr × Bool)) (s : State), (State.onTheWay es s).2.now = s.now
  | [], _ => rfl
  | (_, q) :: es, _ => (State.onTheWay_now es _).trans (by cases q <;> rfl)

@[simp] theorem State.receptions_now : ∀ (es : List Flying) (s : State), (State.receptions es s).2.now = s.now
  | [], _ => rfl
  | _ :: es, _ => State.receptions_now es _

@[simp] theorem State.imageEvents_now (s : State) : s.imageEvents.2.now = s.now := by
  simp [State.imageEvents]

@[simp] theorem State.bulkFlits_now (s : State) : s.bulkFlits.now = s.now := by
  refine foldl_now _ (fun t x => ?_) _ _
  dsimp only
  repeat' split
  all_goals simp

@[simp] theorem State.planEvents_now (s : State) : s.planEvents.now = s.now := by
  simp [State.planEvents]

/-- A cycle of a package that is not frozen for debug takes one cycle. -/
theorem State.tick_now {s : State} (h : s.mon.frozen = false) : s.tick.now = s.now + 1 := by
  unfold State.tick
  rw [if_neg (by simp [h])]
  refine (State.planEvents_now _).trans ((State.bulkFlits_now _).trans ((foldl_now _ State.retryPacket_now _ _).trans ?_))
  exact (foldl_now _ State.retryToken_now _ _).trans ((State.goOnWalks_now _).trans ((State.hostWrites_now _).trans s.advance_now))

end Sys2Proof.Machine

/-! PROOF. O6. An event that is due is run; with nothing left to do the cycle ends, and the cycle count rises by one. -/

set_option Elab.async false

namespace Sys2Proof.Machine

/-- A write of the host to the service registers changes the list of inputs and the service registers alone. -/
theorem State.hostWrite_eq (s : State) (x : HostWrite) : ∃ is m, s.hostWrite x = { s with inputs := is, mon := m } := by
  unfold State.hostWrite
  split
  · dsimp only
    repeat' split
    all_goals exact ⟨_, _, rfl⟩
  all_goals exact ⟨_, _, rfl⟩

/-- R413: the parts of the package that stand still while it is frozen for debug, and the time. -/
def State.still (s : State) : Nat × Memory × SMap Ctx × List Cmd × List Msg × SMap LinkEnd :=
  (s.now, s.mem, s.ctxs, s.cmds, s.msgs, s.links)

theorem State.hostWrites_still (s : State) : s.hostWrites.still = s.still := by
  refine foldl_keeps State.still State.hostWrite (fun t x => ?_) _ _
  obtain ⟨is, m, h⟩ := t.hostWrite_eq x
  rw [h]
  rfl

/-- R413: a cycle of a frozen package. -/
theorem State.tick_frozen {s : State} (h : s.mon.frozen = true) :
    s.tick.still = ({ s with now := s.now + 1 } : State).still ∧ s.tick.turn = [] := by
  unfold State.tick
  rw [if_pos h]
  exact ⟨State.hostWrites_still { s with now := s.now + 1 }, rfl⟩

/-- With nothing left to do, a step ends the cycle. -/
theorem step_ends_cycle {s : State} (ha : s.agenda = []) (ht : s.turn = []) : step s = .next s.tick := by
  unfold step
  rw [ha, ht]

/-- With an event of the start of a cycle due, or no core left to issue, a step runs the oldest event. -/
theorem step_runs_event {s : State} {e : Instr} {es : List Instr} (ha : s.agenda = e :: es) (h : startsCycle e = true ∨ s.turn = []) :
    step s = exec e { s with agenda := es } := by
  unfold step
  rw [ha]
  dsimp only
  by_cases hs : startsCycle e = true
  · rw [if_pos hs]
  · rw [if_neg hs, h.resolve_left hs]

/-- Settles O6: with nothing left to do the step is `State.tick`, which adds one to the time because no operation of a cycle sets it. -/
theorem stepRunsEvents : Obligations.StepRunsEvents := by
  refine ⟨fun s e es ha h => step_runs_event ha h, fun s ha ht => ⟨s.tick, step_ends_cycle ha ht, ?_⟩⟩
  cases hf : s.mon.frozen with
  | true =>
    obtain ⟨hstill, hturn⟩ := State.tick_frozen hf
    simp only [State.still, Prod.mk.injEq] at hstill
    obtain ⟨hnow, hmem, hctxs, hcmds, hmsgs, hlinks⟩ := hstill
    exact ⟨hnow, fun _ => ⟨hmem, hctxs, hcmds, hmsgs, hlinks, hturn⟩⟩
  | false => exact ⟨State.tick_now hf, fun h => absurd h (by simp)⟩

end Sys2Proof.Machine

/-! PROOF. Words that are held, and writes where no command is writing: what each changes, and what it leaves alone (R91, R118, R215). -/

namespace Sys2Proof.Machine

/-! ### Held words (R118) -/

theorem State.ctx_hold (s : State) (h : Held) : (s.hold h).ctx s.key = { s.cur with snaps := addHeld h s.cur.snaps } := s.cur_updCur _

theorem State.hold_others (s : State) (h : Held) : SameOthers s.key s (s.hold h) := fun _ hj => s.ctx_updCtx_other _ hj

/-! ### Writes -/

/-- R216: a command but for the elements that it read before they were written. -/
def Cmd.untaken (c : Cmd) : Cmd := { c with taken := [] }

theorem State.takeUnit_untaken (c : Cmd) (s : State) (u : Nat × Nat) :
    (State.takeUnit c s u).cmds.map Cmd.untaken = s.cmds.map Cmd.untaken := by
  unfold State.takeUnit State.freeBit
  dsimp only
  split
  · rw [State.updCmd, List.map_map]
    refine List.map_congr_left fun x _ => ?_
    simp only [Function.comp]
    split <;> rfl
  · rfl

/-- R216: before a write, a command may read the elements it covers, and it is else as before. -/
theorem State.beforeWrite_untaken (s : State) (a n : Nat) : (s.beforeWrite a n).cmds.map Cmd.untaken = s.cmds.map Cmd.untaken := by
  unfold State.beforeWrite
  split
  · exact foldl_keeps (fun t => t.cmds.map Cmd.untaken) _
      (fun t c => foldl_keeps (fun t => t.cmds.map Cmd.untaken) _ (fun t u => State.takeUnit_untaken c t u) _ t) _ s
  · rfl

theorem State.tagBytes_eq (s : State) (a n : Nat) (cov : List (Nat × Nat)) : ∃ tg, s.tagBytes a n cov = { s with tags := tg } := by
  unfold State.tagBytes
  split
  · exact ⟨s.tags, rfl⟩
  · exact ⟨_, rfl⟩

/-- R91: a write over a store no command is writing puts its bytes there, and else only changes what commands have read and what writes have covered. -/
theorem State.writeAt_eq {s : State} (hq : Quiet s) (a : Nat) (bs : List Byte) (cov : List (Nat × Nat)) :
    ∃ tg cs fr, s.writeAt a bs cov = { s with mem := s.mem.writeN a bs, tags := tg, cmds := cs, free := fr } ∧
      cs.map Cmd.untaken = s.cmds.map Cmd.untaken := by
  have hcmds := s.beforeWrite_untaken a bs.length
  obtain ⟨cs, fr, hb⟩ := s.beforeWrite_rest a bs.length
  obtain ⟨tg, ht⟩ := State.tagBytes_eq { s with mem := s.mem.writeN a bs, cmds := cs, free := fr } a bs.length cov
  rw [hb] at hcmds
  refine ⟨tg, cs, fr, ?_, hcmds⟩
  unfold State.writeAt
  simp only [s.touch_quiet hq, hb]
  exact ht

/-- What holds of every command whatever it has read stays so when commands only read. -/
theorem all_of_untaken {p : Cmd → Bool} (hp : ∀ c, p c.untaken = p c) {cs ds : List Cmd} (h : cs.map Cmd.untaken = ds.map Cmd.untaken) :
    cs.all p = ds.all p := by
  have hall : ∀ xs : List Cmd, (xs.map Cmd.untaken).all p = xs.all p := fun xs => by
    rw [List.all_map]
    exact congrArg xs.all (funext hp)
  rw [← hall cs, h, hall ds]

theorem quiet_of_untaken {s t : State} (h : t.cmds.map Cmd.untaken = s.cmds.map Cmd.untaken) (hq : Quiet s) : Quiet t :=
  (all_of_untaken (fun _ => rfl) h).trans hq

end Sys2Proof.Machine

/-! PROOF. Local stores, stores to format registers, and handler stores to the own core (O19). -/

namespace Sys2Proof

open Machine

theorem SameSpecial.refl (c : Ctx) : SameSpecial c c := ⟨⟨rfl, rfl, rfl, rfl, rfl, rfl, rfl, rfl⟩, rfl, rfl, rfl, rfl, rfl, rfl⟩

end Sys2Proof

namespace Sys2Proof.Machine

open Sys2Proof.Cert

/-! ### Addresses -/

/-- R151: the low bits of a field are sign-extended as the field is. -/
theorem sextLow_toNat {n : Nat} (hn : n ≤ 64) (x : BitVec n) : sextLow (BitVec.ofNat 64 x.toNat) n = x.signExtend 64 := by
  have hlt : x.toNat < 2 ^ n := x.isLt
  have hpow : 2 ^ n ≤ 2 ^ 64 := Nat.pow_le_pow_right (by omega) hn
  have hmod : (BitVec.ofNat 64 x.toNat).toNat % 2 ^ n = x.toNat := by
    rw [BitVec.toNat_ofNat, Nat.mod_eq_of_lt (hlt.trans_le hpow), Nat.mod_eq_of_lt hlt]
  rw [sextLow, hmod, BitVec.signExtend, BitVec.toInt_eq_toNat_cond]
  cases n with
  | zero => simp [BitVec.of_length_zero]
  | succ n =>
    rw [if_neg (Nat.succ_ne_zero n), Nat.add_sub_cancel, Nat.pow_succ]
    by_cases h : x.toNat < 2 ^ n
    · rw [if_pos h, if_pos (by omega)]
      rfl
    · rw [if_neg h, if_neg (by omega)]
      push_cast
      rw [pow_succ]

/-- R70, R109: an effective address with at most one EXT word. -/
theorem State.effAddr_eq {s : State} (h : s.iss.ext.length ≤ 1) (f : MM) : s.effAddr f = address s f := by
  unfold State.effAddr address accessBytes
  rw [BitVec.mul_comm]
  congr 2
  match hx : s.iss.ext, h with
  | [], _ => exact sextLow_toNat (by omega) f.off
  | [p], _ =>
    show sextLow (BitVec.ofNat 64 (f.off.toNat + p.toNat * 2 ^ 5)) 32 = (p ++ f.off).signExtend 64
    have happ : (p ++ f.off).toNat = f.off.toNat + p.toNat * 2 ^ 5 := by
      rw [BitVec.toNat_append, ← Nat.shiftLeft_add_eq_or_of_lt f.off.isLt, Nat.shiftLeft_eq, Nat.add_comm]
    rw [← happ]
    exact sextLow_toNat (by omega) (p ++ f.off)

theorem core_lt_of_exists {c : Nat} (h : coreExists c = true) : c < 512 := by
  simp only [coreExists, Bool.and_eq_true, decide_eq_true_eq] at h
  exact h.1

/-- R68: a global address names its core and its offset. -/
theorem gsaCore_gsaOf {c a : Nat} (hc : c < 512) (ha : a < 2 ^ 23) : gsaCore (gsaOf c a) = c := by
  unfold gsaCore gsaOf; omega

theorem gsaOff_gsaOf {c a : Nat} (ha : a < 2 ^ 23) : gsaOff (gsaOf c a) = a := by
  unfold gsaOff gsaOf; omega

/-! ### Checks of an address (R70, R180) -/

theorem State.sameParts_self (s : State) (c : Nat) : s.sameParts c c = true := beq_self_eq_true _

section
variable {s : State} {core n : Nat} {a v : W64} (hc : coreExists core = true) (hn : a.toNat % n = 0)
include hc hn

/-- R70: an aligned access to the own core below its window passes. -/
theorem State.accessCause_local (ha : a.toNat < 0x700000) (op : AccessOp) : s.accessCause false core a n op v = none := by
  have hoff : gsaOff a.toNat < 0x700000 := by unfold gsaOff; omega
  unfold State.accessCause
  simp only [Bool.false_eq_true, if_false]
  rw [if_neg (by omega), if_neg (by simp [hc]), if_neg (by simp), if_neg (by simp; omega), if_neg (by simp [State.sameParts_self])]

/-- R52: an 8-byte store of a defined code to a format register passes. -/
theorem State.accessCause_format {b : Nat} (hb : b < 16) (ha : a.toNat = 0x7FD000 + 8 * b) (h8 : n = 8) (hv : v.toNat % 16 ≤ 10) :
    s.accessCause false core a n .store v = none := by
  have hoff : gsaOff a.toNat = 0x7FD000 + 8 * b := by unfold gsaOff; omega
  have hw : windowStoreOk true (gsaOff a.toNat) n .store v = true := by
    unfold windowStoreOk
    rw [hoff, h8]
    simp only [Bool.true_and, Bool.and_eq_true, decide_eq_true_eq, beq_self_eq_true]
    omega
  unfold State.accessCause
  simp only [Bool.false_eq_true, if_false, beq_self_eq_true]
  rw [if_neg (by omega), if_neg (by simp [hc]), if_neg (by simp), if_neg (by simp [hw]), if_neg (by simp [State.sameParts_self])]

/-- R68, R70: an aligned access by a global address to the own core below its accumulators passes. -/
theorem State.accessCause_own (ha : a.toNat < 2 ^ 32) (hcore : gsaCore a.toNat = core) (ho : gsaOff a.toNat < 0x400000) (op : AccessOp) :
    s.accessCause true core a n op v = none := by
  unfold State.accessCause
  simp only [if_true, hcore]
  rw [if_neg (by omega), if_neg (by simp [hc]), if_neg (by simp), if_neg (by simp; omega), if_neg (by simp [State.sameParts_self])]

end

/-! ### What a store leaves in the store -/

theorem extractLsb'_byte (v : W64) (j : Nat) : BitVec.ofNat 8 (v.toNat / 2 ^ (8 * j)) = v.extractLsb' (8 * j) 8 := by
  rw [← Nat.shiftRight_eq_div_pow]
  rfl

/-- R1, R179: the bytes of a store, least significant first. -/
theorem Memory.read_writeN_bytesOf {m : Memory} (hw : m.wf = true) (a : Nat) {n j : Nat} (hj : j < n) (v : W64) :
    (m.writeN a (bytesOf n v.toNat)).read (a + j) = v.extractLsb' (8 * j) 8 := by
  rw [Memory.read_writeN_at _ _ _ hw (by rwa [length_bytesOf]), getElem_bytesOf, extractLsb'_byte]

theorem Memory.read_writeN_bytesOf_other (m : Memory) {a n c : Nat} (hc : c < a ∨ a + n ≤ c) (v : W64) :
    (m.writeN a (bytesOf n v.toNat)).read c = m.read c :=
  Memory.read_writeN_other _ _ (by rwa [length_bytesOf])

/-- R182: the payload of an access of `n` bytes is the low bytes of its register. -/
theorem zextLow_byte (v : W64) {n j : Nat} (hj : j < n) (hn : n ≤ 8) : (zextLow v (8 * n)).extractLsb' (8 * j) 8 = v.extractLsb' (8 * j) 8 := by
  refine BitVec.eq_of_getLsbD_eq fun i hi => ?_
  have h64 : 8 * j + i < 64 := by omega
  have hin : 8 * j + i < 8 * n := by omega
  simp only [zextLow, BitVec.getLsbD_extractLsb', BitVec.getLsbD_ofNat, Nat.testBit_mod_two_pow, h64, hin, decide_true, Bool.true_and, BitVec.testBit_toNat]

/-- R179: a store over a store no command is writing puts its bytes there, and else only changes what commands have read and what writes have covered. -/
theorem State.performStore_eq {s : State} (hq : Quiet s) {a : Nat} (ha : gsaOff a < 0x700000) (n : Nat) (v : W64) (cov : List (Nat × Nat)) :
    ∃ tg cs fr, s.performStore a n v cov = { s with mem := s.mem.writeN a (bytesOf n v.toNat), tags := tg, cmds := cs, free := fr } := by
  obtain ⟨tg, cs, fr, h, -⟩ := State.writeAt_eq hq a (bytesOf n v.toNat) cov
  exact ⟨tg, cs, fr, (if_neg (by omega)).trans h⟩

/-- R118: a word that is held keeps what the commit buffer of a context has no part in. -/
theorem State.hold_relates {R : Ctx → Ctx → Prop} (hrefl : ∀ c, R c c) (hsnaps : ∀ (c : Ctx) (xs : List Snap), R c { c with snaps := xs })
    (s : State) (h : Held) (k : Nat) : R (s.ctx k) ((s.hold h).ctx k) := by
  by_cases hk : k = s.key
  · subst hk
    rw [s.ctx_hold]
    exact hsnaps _ _
  · rw [s.hold_others h k hk]
    exact hrefl _

theorem State.hold_specials (s : State) (h : Held) : SameSpecials s (s.hold h) := State.hold_relates .refl (fun c _ => .refl c) s h

theorem State.hold_registers (s : State) (h : Held) : SameRegisters s (s.hold h) :=
  State.hold_relates (R := fun a b => SameRegs a.live b.live) (fun _ => .refl _) (fun _ _ => .refl _) s h

/-! ### What a context sees of its held stores (R118) -/

theorem flatMap_held_addHeld (h : Held) : ∀ {xs : List Snap}, xs ≠ [] → (addHeld h xs).flatMap Snap.held = xs.flatMap Snap.held ++ [h]
  | [x], _ => by simp [addHeld]
  | x :: y :: ys, _ => by
    have htail := flatMap_held_addHeld h (List.cons_ne_nil y ys)
    exact (congrArg (x.held ++ ·) htail).trans (List.append_assoc ..).symm

/-- R118: the view of a speculative context has the word held last performed on the view before. -/
theorem State.view_hold {s : State} (hs : s.cur.speculative = true) (h : Held) :
    (s.hold h).view s.key = heldStore (keyCore s.key) (s.view s.key) h := by
  have hne : s.cur.snaps ≠ [] := by simpa [Ctx.speculative] using hs
  have hheld : ((s.hold h).ctx s.key).held = s.cur.held ++ [h] := by
    rw [s.ctx_hold]
    exact flatMap_held_addHeld h hne
  unfold State.view
  rw [hheld, List.foldl_append]
  rfl

/-! ### The words -/

/-- R178, R179: a local store whose address passes its checks acts at once or is held. -/
theorem exec_mSt {s : State} {f : MM} (he : Executes (.mSt f) f.g s) (hx : s.iss.ext.length ≤ 1)
    (hc : s.accessCause false s.iss.core (address s f) (2 ^ f.sz.toNat) .store (s.cur.live.readG f.reg.toNat) = none) :
    exec (.mSt f) s = .next (s.localStore (gsaOf s.iss.core (address s f).toNat) (2 ^ f.sz.toNat) (s.cur.live.readG f.reg.toNat)) := by
  show execMSt f s = _
  rw [execMSt, State.word_executes he]
  simp only [State.effAddr_eq hx, State.checked, accessBytes, hc]
  rfl

/-- The access an `m.sth` of the context in hand to its own core makes: its payload, the low bytes of `v`, is written already. -/
def State.sthMsg (s : State) (pc a n : Nat) (v : W64) : Msg :=
  { (s.newMsg (.sth pc) a n v false 0).1 with cov := s.cur.released, due := s.now, stage := .far, paid := true }

/-- R85, R182 (log 85): an `m.sth` to the own core performs its payload at once; only its handler is still to start. -/
theorem exec_mSth_own {s : State} {f : MM} (he : Executes (.mSth f) f.g s) (hs : Settled s) (hq : Quiet s) {pc a n : Nat} {v : W64}
    (hc : s.accessCause true s.iss.core (s.value f.sa) n .store v = none) (hok : handlerOk (s.cur.live.readG f.off.toNat) = true)
    (ho : gsaCore a = s.iss.core) (hoff : gsaOff a < 0x700000)
    (hpc : (s.cur.live.readG f.off.toNat).toNat = pc) (ha : (s.value f.sa).toNat = a) (hn : 2 ^ f.sz.toNat = n) (hv : s.cur.live.readG f.reg.toNat = v) :
    ∃ tg cs fr, exec (.mSth f) s = .next { s with
      mem := s.mem.writeN a (bytesOf n (zextLow v (8 * n)).toNat), tags := tg, cmds := cs, free := fr, nextId := s.nextId + 1,
      msgs := s.msgs ++ [s.sthMsg pc a n v] } := by
  subst hpc ha hn hv
  obtain ⟨tg, cs, fr, hp⟩ := State.performStore_eq (s := { s with nextId := s.nextId + 1, free := s.free + 1 }) hq hoff (2 ^ f.sz.toNat)
    (zextLow (s.cur.live.readG f.reg.toNat) (8 * 2 ^ f.sz.toNat)) s.cur.released
  have hcur : State.cur { s with nextId := s.nextId + 1 } = s.cur := rfl
  have hreleased : (State.ctx { s with nextId := s.nextId + 1 } (ctxKey s.iss.core s.iss.h)).released = s.cur.released := rfl
  refine ⟨tg, cs, fr, ?_⟩
  show execMSth f s = _
  rw [execMSth, State.word_executes he]
  simp only [State.checked, accessBytes, hc, hok, Bool.not_true, Bool.false_eq_true, if_false, State.issueAccess, State.newMsg, State.freshId, hcur]
  rw [if_neg (Bool.eq_false_iff.mp hs)]
  simp only [State.send, State.freeNat, ho, if_true, hreleased, hp]
  rfl

/-! ### The statement -/

/-- Settles O19: by the ways a store goes (at once, held, to a format register, with a handler to the own core). -/
theorem localStores : Obligations.LocalStores := by
  unfold Obligations.LocalStores
  refine ⟨fun s f he hq hx ha hw => ?scratchpad, fun s f b he hs hx hc hb hsz ha hv => ?format, fun s f he hs hq hw hc => ?handler⟩
  case scratchpad =>
    obtain ⟨hc, hn, hlt⟩ := ha
    intro a n
    have hoff : gsaOff a < 0x700000 := by rw [gsaOff_gsaOf (by omega)]; exact hlt
    have hexec := exec_mSt he hx (State.accessCause_local hc hn hlt .store)
    cases hs : s.cur.speculative with
    | false =>
      obtain ⟨tg, cs, fr, hp⟩ := State.performStore_eq hq hoff n (s.cur.live.readG f.reg.toNat) s.cur.released
      rw [State.localStore, if_neg (Bool.eq_false_iff.mp hs), hp] at hexec
      exact ⟨_, hexec, .refl s, .refl s, fun _ => .refl _, fun _ => .refl _,
        fun _ => ⟨fun j hj => Memory.read_writeN_bytesOf hw a hj _, fun c hc => Memory.read_writeN_bytesOf_other _ hc _⟩, fun h => absurd hs h⟩
    | true =>
      rw [State.localStore, if_pos hs] at hexec
      refine ⟨_, hexec, .refl s, .refl s, s.hold_specials _, s.hold_registers _, fun h => absurd (hs.symm.trans h) (by decide),
        fun _ => ⟨fun _ => rfl, fun j hj hv => ?_⟩⟩
      rw [State.view_hold hs, heldStore, if_pos hoff]
      exact Memory.read_writeN_bytesOf hv a hj _
  case format =>
    have hn : (address s f).toNat % 2 ^ f.sz.toNat = 0 := by
      rw [ha, hsz]
      show (0x7FD000 + 8 * b) % 8 = 0
      omega
    have hexec := exec_mSt he hx (State.accessCause_format hc hn hb ha (by rw [hsz]; rfl) hv)
    have hoff : gsaOff (gsaOf s.iss.core (address s f).toNat) = 0x7FD000 + 8 * b := by rw [gsaOff_gsaOf (by omega), ha]
    have hreg : (0x7FD000 + 8 * b - 0x7FD000) / 8 = b := by omega
    rw [State.localStore, if_neg (Bool.eq_false_iff.mp hs), State.performStore_format (by omega), hoff, gsaCore_gsaOf (core_lt_of_exists hc) (by omega),
      hreg] at hexec
    refine ⟨_, hexec, ?_, fun c hcb => ?_, fun _ => rfl, fun _ => .refl _⟩ <;> rw [State.core_updCore_same]
    · exact look_put_same _ _ _ _
    · exact look_put_other _ _ _ hcb
  case handler =>
    intro a n ha hn hcore hoff hlt hpc
    have hok : handlerOk (s.cur.live.readG f.off.toNat) = true := by simp only [handlerOk, hlt, hpc, decide_true, beq_self_eq_true, Bool.and_self]
    have hsz : n ≤ 8 := Nat.pow_le_pow_right (n := 2) (by omega) (Nat.le_of_lt_succ f.sz.isLt)
    obtain ⟨tg, cs, fr, hexec⟩ := exec_mSth_own he hs hq (State.accessCause_own hc hn ha hcore hoff .store) hok hcore (by omega) rfl rfl rfl rfl
    refine ⟨_, _, hexec, rfl, rfl, rfl, rfl, fun j hj => ?_, fun c hc => Memory.read_writeN_bytesOf_other _ hc _, .refl s, .refl s, fun _ => .refl _,
      fun _ => .refl _⟩
    exact (Memory.read_writeN_bytesOf hw a hj _).trans (zextLow_byte _ hj hsz)

end Sys2Proof.Machine

/-! PROOF. Descriptors and the flags (O28). -/

namespace Sys2Proof.Machine

open Sys2Proof.Cert

/-! ### Packed descriptors -/

/-- R211: the packed value as a number: no field reaches into the next. -/
theorem Desc.toNat_pack (d : Desc) : d.pack.toNat = d.count.toNat * 2 ^ 39 + d.stride.toNat * 2 ^ 23 + d.base.toNat := by
  have hcount := d.count.isLt
  have hstride := d.stride.isLt
  have hbase := d.base.isLt
  rw [Desc.pack, BitVec.toNat_ofNat, Nat.mod_eq_of_lt]
  omega

/-- R211: a word whose number is made of the fields of a descriptor unpacks to it. -/
theorem Desc.unpack_eq {v : W64} {d : Desc} (h : v.toNat = d.count.toNat * 2 ^ 39 + d.stride.toNat * 2 ^ 23 + d.base.toNat) : Desc.unpack v = d := by
  have hcount := d.count.isLt
  have hstride := d.stride.isLt
  have hbase := d.base.isLt
  have hfields : v.extractLsb' 39 16 = d.count ∧ v.extractLsb' 23 16 = d.stride ∧ v.extractLsb' 0 23 = d.base := by
    simp only [BitVec.toNat_eq, BitVec.extractLsb'_toNat, Nat.shiftRight_eq_div_pow]
    omega
  obtain ⟨hc, hs, hb⟩ := hfields
  rw [Desc.unpack, hc, hs, hb]

theorem Desc.unpack_pack (d : Desc) : Desc.unpack d.pack = d := Desc.unpack_eq d.toNat_pack

theorem Arch.desc_put (a : Arch) (n m : Nat) (d : Desc) :
    ({ a with d := put a.d n d } : Arch).desc m = if m = n then d else a.desc m := look_put _ _ _ _ _

/-! ### Words whose effect is made on schedule (R118) -/

/-- R118: the entry a word takes in the commit buffer changes neither registers nor any other context. -/
theorem State.noteHeld_live (s : State) : (s.noteHeld.ctx s.key).live = s.cur.live := by
  unfold State.noteHeld
  split
  · rw [State.ctx_hold]
  · rfl

theorem State.noteHeld_others (s : State) : SameOthers s.key s s.noteHeld := by
  unfold State.noteHeld
  split
  · exact s.hold_others _
  · exact fun _ _ => rfl

@[simp] theorem State.noteHeld_mem (s : State) : s.noteHeld.mem = s.mem := by unfold State.noteHeld; split <;> rfl

theorem State.noteHeld_settled {s : State} (h : Settled s) : s.noteHeld = s := if_neg (Bool.eq_false_iff.mp h)

/-- R115: a scalar that no other meets in `b4` goes into flight for it. -/
theorem State.result_b4 {s : State} (hb : ∀ n, s.b4Busy n = false) (lat : Nat) (v : W64) :
    s.result .none lat (some 4) v = .next (s.pushFlight .none lat (some 4) v) :=
  State.result_free v rfl (fun _ => .inr (hb lat))

/-! ### `v.dset` and `v.dget` -/

/-- The state that `v.dset` leaves, but for its entry in the commit buffer: a descriptor set, and noted as set by this bundle. -/
def State.setDesc (s : State) (n : Nat) (d : Desc) : State :=
  State.updLive { s with iss := { s.iss with dsets := n :: s.iss.dsets } } (fun a => { a with d := put a.d n d })

theorem State.ctx_setDesc (s : State) (n : Nat) (d : Desc) :
    (s.setDesc n d).ctx s.key = { s.cur with live := { s.cur.live with d := put s.cur.live.d n d } } :=
  State.cur_updLive { s with iss := { s.iss with dsets := n :: s.iss.dsets } } _

theorem State.live_setDesc_noteHeld (s : State) (n : Nat) (d : Desc) :
    ((s.setDesc n d).noteHeld.ctx s.key).live = { s.cur.live with d := put s.cur.live.d n d } :=
  (s.setDesc n d).noteHeld_live.trans (congrArg Ctx.live (s.ctx_setDesc n d))

theorem State.setDesc_others (s : State) (n : Nat) (d : Desc) : SameOthers s.key s (s.setDesc n d) :=
  fun _ hj => State.ctx_updCtx_other { s with iss := { s.iss with dsets := n :: s.iss.dsets } } _ hj

theorem exec_vDset {s : State} {f : VS} (he : Executes (.vDset f) f.g s) (hd : s.iss.dsets.contains f.dd.toNat = false) :
    exec (.vDset f) s = .next (s.setDesc f.dd.toNat (Desc.unpack (s.value f.ss))).noteHeld := by
  show execVDset f s = _
  rw [execVDset, State.word_executes he]
  simp only [hd, Bool.false_eq_true, if_false]
  rfl

theorem exec_vDget {s : State} {f : VS} (he : Executes (.vDget f) f.g s) (hs : Settled s) (hb : ∀ n, s.b4Busy n = false) :
    exec (.vDget f) s = .next (s.pushFlight .none 7 (some 4) (s.cur.live.desc f.da.toNat).pack) := by
  show execVDget f s = _
  rw [execVDget, State.word_executes he, State.noteHeld_settled hs]
  exact State.result_b4 hb 7 _

/-! ### `v.rstat` -/

/-- R65: a command that raises no flag has raised none early. -/
theorem State.earlyFlag_none (k : Nat) (s : State) {c : Cmd} (h : (c.flags == 0) = true) : s.earlyFlag k c = s :=
  if_neg fun hc => hc.2.1 (beq_iff_eq.mp h)

theorem State.earlyFlags_none {s : State} (k : Nat) (h : s.cmds.all (fun c => c.flags == 0) = true) : s.earlyFlags k = s := by
  have hfold : ∀ cs : List Cmd, (∀ c ∈ cs, (c.flags == 0) = true) → cs.foldl (State.earlyFlag k) s = s := by
    intro cs hcs
    induction cs with
    | nil => rfl
    | cons c cs ih =>
      rw [List.foldl_cons, s.earlyFlag_none k (hcs c List.mem_cons_self)]
      exact ih fun x hx => hcs x (List.mem_cons_of_mem _ hx)
  exact hfold s.cmds (List.all_eq_true.mp h)

theorem State.updLive_updLive (s : State) (f g : Arch → Arch) : (s.updLive f).updLive g = s.updLive (fun a => g (f a)) :=
  s.updCtx_updCtx s.key (fun c => { c with live := f c.live }) (fun c => { c with live := g c.live })

/-- R115: a change that leaves what is in flight leaves the cycles that `b4` is taken in. -/
theorem State.b4Busy_updLive {s : State} {f : Arch → Arch} {n : Nat} (hf : (f s.cur.live).flights = s.cur.live.flights) :
    (s.updLive f).b4Busy n = s.b4Busy n := by
  unfold State.b4Busy
  rw [State.cur_updLive, hf, State.updLive_cmds, State.updLive_iss]

theorem exec_vRstat {s : State} {f : VS} (he : Executes (.vRstat f) f.g s) (hs : Settled s) (hb : ∀ n, s.b4Busy n = false)
    (hc : s.cmds.all (fun c => c.flags == 0) = true) :
    exec (.vRstat f) s = .next ((s.updLive (fun a => { a with vstat := clearFlags a.vstat (s.value f.ss) })).pushFlight .none 7 (some 4)
      (s.cur.live.vstat.zeroExtend 64)) := by
  show execVRstat f s = _
  rw [execVRstat, State.word_executes he]
  simp only [State.earlyFlags_none s.key hc, State.noteHeld_settled hs]
  refine State.result_b4 (fun n => ?_) 7 _
  rw [State.b4Busy_updLive, hb n]
  rfl

/-! ### The statement -/

/-- A change of the context in hand that depends on its registers may read them before or after. -/
theorem State.updLive_congr {s : State} {f g : Arch → Arch} (h : f s.cur.live = g s.cur.live) : s.updLive f = s.updLive g := by
  unfold State.updLive State.updCur State.updCtx
  exact congrArg (fun a => s.setCtx s.key { s.cur with live := a }) h

/-- Settles O28: packing loses no bit, and each of the three words is one update of the registers in hand. -/
theorem descriptors : Obligations.Descriptors := by
  unfold Obligations.Descriptors
  refine ⟨Desc.unpack_pack, fun s f he hd => ?dset, fun s f he hs hb => exec_vDget he hs hb, fun s f he hs hb hc => ?rstat⟩
  case dset =>
    have hlive := s.live_setDesc_noteHeld f.dd.toNat (Desc.unpack (s.value f.ss))
    refine ⟨_, exec_vDset he hd, ?_, fun n hn => ?_, ?_, ?_, ?_, fun _ => by rw [State.noteHeld_mem]; rfl, fun j hj => ?_⟩
    · rw [hlive, Arch.desc_put, if_pos rfl]
    · rw [hlive, Arch.desc_put, if_neg hn]
    · rw [hlive]
    · rw [hlive]
    · rw [hlive]
    · exact (State.noteHeld_others (s.setDesc _ _) j hj).trans (s.setDesc_others _ _ j hj)
  case rstat =>
    rw [exec_vRstat he hs hb hc, State.pushFlight, State.updLive_updLive]
    exact congrArg Host.Outcome.next (State.updLive_congr rfl)

end Sys2Proof.Machine

/-! PROOF. Streaming commands complete (O29). -/

namespace Sys2Proof.Machine

open Sys2Proof.Cert

/-! ### The commands that are left -/

theorem State.cmd?_eq_none_iff (s : State) (id : Nat) : s.cmd? id = none ↔ s.cmds.all (fun c => c.id != id) = true := by
  simp [State.cmd?]

theorem State.cmd?_dropCmd (s : State) (id : Nat) : (s.dropCmd id).cmd? id = none := by
  rw [State.cmd?_eq_none_iff, State.dropCmd]
  simp

/-- Without the one command that writes, no command is writing. -/
theorem State.quiet_dropCmd {s : State} {id : Nat} (h : s.cmds.all (fun x => x.id == id || x.out.isEmpty) = true) : Quiet (s.dropCmd id) := by
  refine List.all_eq_true.mpr fun x hx => ?_
  obtain ⟨hmem, hid⟩ := List.mem_filter.mp hx
  have hx' := List.all_eq_true.mp h x hmem
  simp only [bne_iff_ne] at hid
  simpa [hid] using hx'

/-- R215: the element writes of a command, over a store no other command is writing, change the store as they do in order, and else only what commands have
read and what writes have covered. -/
theorem State.performElems_eq (cov : List (Nat × Nat)) (ws : List ElemW) {s : State} (hq : Quiet s) :
    ∃ tg cs fr, s.performElems cov ws = { s with mem := ws.foldl (fun m w => m.writeN w.addr w.bytes) s.mem, tags := tg, cmds := cs, free := fr } ∧
      cs.map Cmd.untaken = s.cmds.map Cmd.untaken := by
  induction ws generalizing s with
  | nil => exact ⟨s.tags, s.cmds, s.free, rfl, rfl⟩
  | cons w ws ih =>
    obtain ⟨t1, c1, f1, h1, hc1⟩ := State.writeAt_eq hq w.addr w.bytes cov
    have hq1 : Quiet (s.writeAt w.addr w.bytes cov) := quiet_of_untaken (by rw [h1]; exact hc1) hq
    obtain ⟨t2, c2, f2, h2, hc2⟩ := ih hq1
    refine ⟨t2, c2, f2, h2.trans ?_, hc2.trans ?_⟩ <;> rw [h1]
    · rfl
    · exact hc1

/-! ### What a completion does -/

/-- R215, R383: the context of a command that completes: its flags set, and its scalar `v` on the way to `b4` when it has one. -/
def Ctx.streamEnd (b4 : Bool) (v : W64) (fl : Flags) (x : Ctx) : Ctx :=
  let arrive (n : Nat) (a : Arch) : Arch := { a with flights := a.flights ++ [{ rem := 1 + n, dst := .none, latch := some 4, val := v }] }
  let y := x.setFlags fl
  if b4 then { y with live := arrive y.heldFor y.live, snaps := y.snaps.map (fun z => { z with arch := arrive 0 z.arch }) } else y

theorem Ctx.streamEnd_live (b4 : Bool) (v : W64) (fl : Flags) (x : Ctx) :
    (x.streamEnd b4 v fl).live = { x.live with
      vstat := x.live.vstat ||| fl
      flights := x.live.flights ++ (if b4 then [{ rem := 1 + x.heldFor, dst := .none, latch := some 4, val := v }] else []) } := by
  cases b4
  · exact congrArg (fun fs => { x.live with vstat := x.live.vstat ||| fl, flights := fs }) (List.append_nil _).symm
  · rfl

section
variable {s : State} {c : Cmd} {sl : Nat} {j : VJob} {v : W64} (hk : c.kind = .stream sl j (some (v, [])))
include hk

/-- R215: a command that loads no lane pattern completes: it leaves, its writes perform, and its context takes its flags and its scalar. -/
theorem State.completeStream_eq : s.completeStream c =
    ((s.dropCmd c.id).performElems (s.ctx (ctxKey c.core c.h)).released c.out).updCtx (ctxKey c.core c.h) (Ctx.streamEnd j.b4 v c.flags) := by
  unfold State.completeStream
  rw [hk]
  rfl

variable (hc : s.cmd? c.id = some c)
include hc

/-- R216: a command that has computed samples no more. -/
theorem State.sampleStream_computed : s.sampleStream c.id = s := by
  unfold State.sampleStream
  rw [hc]
  dsimp only
  rw [hk]

theorem exec_streamingCommandCompletion : exec (.streamingCommandCompletion c.id) s =
    if c.st == .running && decide (c.rem ≤ 1) && !c.held && !s.patternWaits c then .next (s.completeStream c) else .next s := by
  show execStreamingCommandCompletion c.id s = _
  unfold execStreamingCommandCompletion
  rw [hc]
  dsimp only
  rw [hk]
  dsimp only
  rw [State.sampleStream_computed hk hc, hc]

end

/-! ### The statement -/

/-- Settles O29: the completion of a command that is due is `State.completeStream`, whose writes meet no other command's. -/
theorem streamsComplete : Obligations.StreamsComplete := by
  intro s c sl j v hc hk hst hrem hothers
  rw [exec_streamingCommandCompletion hk hc]
  refine ⟨fun hheld hwait => ?due, fun hwaits => ?waits⟩
  case due =>
    obtain ⟨tg, cs, fr, hp, hcs⟩ := State.performElems_eq (s.ctx (ctxKey c.core c.h)).released c.out (State.quiet_dropCmd hothers)
    refine ⟨s.completeStream c, if_pos (by simp [hst, hrem, hheld, hwait]), ?_⟩
    rw [State.completeStream_eq hk, hp]
    refine ⟨?_, rfl, ?_, ?_, ?_, fun i hi => State.ctx_updCtx_other _ _ hi, .refl s⟩
    · rw [State.cmd?_eq_none_iff]
      exact (all_of_untaken (fun _ => rfl) hcs).trans ((State.cmd?_eq_none_iff _ _).mp (s.cmd?_dropCmd c.id))
    all_goals rw [State.ctx_updCtx_same, Ctx.streamEnd_live]; rfl
  case waits => exact if_neg (by rcases hwaits with h | h <;> simp [h])

end Sys2Proof.Machine

/-! PROOF. What integer commands compute (O30). -/

namespace Sys2Proof.Machine

open Sys2Proof.Cert

/-! ### Stored numbers (R1) -/

theorem testBit_ofBytes (bs : List Byte) (j : Nat) : (ofBytes bs).testBit j = (bs.getD (j / 8) 0).getLsbD (j % 8) := by
  induction bs generalizing j with
  | nil => simp [ofBytes]
  | cons b bs ih =>
    rw [ofBytes, Nat.add_comm, show (256 : Nat) = 2 ^ 8 from rfl, Nat.testBit_two_pow_mul_add _ b.isLt]
    by_cases hj : j < 8
    · rw [if_pos hj, Nat.div_eq_of_lt hj, Nat.mod_eq_of_lt hj, List.getD_cons_zero, BitVec.testBit_toNat]
    · obtain ⟨k, rfl⟩ := Nat.exists_eq_add_of_le (Nat.le_of_not_lt hj)
      rw [if_neg hj, ih, Nat.add_sub_cancel_left, Nat.add_div_left k (by omega), Nat.add_mod_left, List.getD_cons_succ]

/-- A number that is loaded with zeros is the number that stands in the store. -/
theorem num_of_isLoaded {m : Memory} {a n : Nat} {v : W64} (hn : n ≤ 8) (h : IsLoaded m a n false v) : m.num a n = v.toNat := by
  refine Nat.eq_of_testBit_eq fun j => ?_
  rw [Memory.num, testBit_ofBytes, BitVec.testBit_toNat]
  by_cases hj : j < 8 * n
  · rw [h j (by omega), if_pos hj, Memory.readN, List.getD_eq_getElem _ _ (by simp; omega), List.getElem_map, List.getElem_range]
  · have hv : v.getLsbD j = false := by
      by_cases h64 : j < 64
      · rw [h j h64, if_neg hj, Bool.false_and]
      · exact BitVec.getLsbD_of_ge v j (by omega)
    rw [hv, Memory.readN, List.getD_eq_default _ _ (by simp; omega)]
    exact BitVec.getLsbD_zero

/-! ### Flags of a command (R65) -/

theorem orFlags_cons (x : Flags) (l : List Flags) : orFlags (x :: l) = x ||| orFlags l := by
  rw [orFlags, List.foldl_cons, BitVec.or_comm 0 x, List.foldl_assoc]
  rfl

/-- Flags that elements raise only where a test fails are raised by the command when it fails for one. -/
theorem orFlags_map_ite {α : Type} (p : α → Prop) [DecidablePred p] (fl : Flags) (l : List α) :
    orFlags (l.map (fun x => if p x then 0 else fl)) = if ∀ x ∈ l, p x then 0 else fl := by
  induction l with
  | nil => simp [orFlags]
  | cons x l ih =>
    rw [List.map_cons, orFlags_cons, ih]
    simp only [List.forall_mem_cons]
    by_cases hl : ∀ y ∈ l, p y
    · simp only [if_pos hl, and_iff_left hl]
      exact BitVec.or_zero
    · simp only [hl, and_false, if_false]
      split
      · exact BitVec.zero_or
      · exact BitVec.or_self

/-- R65: writes without flags take those of their elements. -/
theorem flagged_map {α : Type} (a : α → Nat) (b : α → List Byte) (h : α → Flags) (l : List α) :
    flagged (l.map (fun x => ElemW.mk (a x) (b x) 0)) (l.map h) = l.map (fun x => ElemW.mk (a x) (b x) (h x)) := by
  have happ : ∀ (l : List α) (r : List Flags), List.zipWith (fun w fl => { w with fl := w.fl ||| fl })
      (l.map (fun x => ElemW.mk (a x) (b x) 0)) (l.map h ++ r) = l.map (fun x => ElemW.mk (a x) (b x) (h x)) := by
    intro l r
    induction l with
    | nil => simp
    | cons x l ih =>
      simp only [List.map_cons, List.cons_append, List.zipWith_cons_cons, ih]
      exact congrArg (ElemW.mk (a x) (b x) · :: _) BitVec.zero_or
  exact happ l _

/-- R211: the writes of a region, element by element. -/
theorem Region.putBits_range (r : Region) (e n : Nat) (g : Nat → Nat) :
    r.putBits e ((List.range n).map g) = (List.range n).map (fun k => { addr := r.elem e k, bytes := bytesOf e (g k) }) := by
  rw [Region.putBits, List.length_map, List.length_range, ← List.map_prod_left_eq_zip, List.map_map]
  rfl

/-! ### `I32` regions -/

/-- R211: a region of `n` `I32` elements. -/
def i32Region (base : Nat) (stride : Int) (n : Nat) : Region := { base := base, stride := stride, count := n, fmt := 3 }

theorem i32Region_elem (base : Nat) (stride : Int) (n k : Nat) : (i32Region base stride n).elem 4 k = elemAt base stride k := rfl

/-- The elements `x` of a region stand in the store. -/
def HoldsI32 (m : Memory) (base : Nat) (stride : Int) (n : Nat) (x : Nat → BitVec 32) : Prop :=
  ∀ k < n, IsLoaded m (elemAt base stride k) 4 false ((x k).setWidth 64)

section
variable {m : Memory} {base n : Nat} {stride : Int} {x : Nat → BitVec 32} (hx : HoldsI32 m base stride n x)
include hx

theorem HoldsI32.bits : (i32Region base stride n).bits 4 m = (List.range n).map (fun k => (x k).toNat) := by
  refine List.map_congr_left fun k hk => ?_
  rw [i32Region_elem, num_of_isLoaded (by omega) (hx k (List.mem_range.mp hk)), BitVec.toNat_setWidth, Nat.mod_eq_of_lt]
  have := (x k).isLt
  omega

theorem HoldsI32.ints : (i32Region base stride n).ints m = (List.range n).map (fun k => (x k).toInt) := by
  rw [Region.ints]
  show (((i32Region base stride n).bits 4 m).map (intVal 3)) = _
  rw [hx.bits, List.map_map]
  refine List.map_congr_left fun k _ => ?_
  have := (x k).isLt
  show toSigned 32 (x k).toNat = _
  unfold toSigned
  rw [BitVec.toInt_eq_toNat_cond]
  simp only [Nat.mod_eq_of_lt this]
  split <;> split <;> omega

end

/-! ### Saturation (R60, R63) -/

/-- R63: a number brought to the limits of `I32`. -/
def limI32 (z : Int) : Int := max (-(2 ^ 31)) (min z (2 ^ 31 - 1))

theorem clampInt_eq {lo hi : Int} (h : lo ≤ hi) (z : Int) : clampInt z lo hi = max lo (min z hi) := by
  unfold clampInt
  split
  · omega
  · split <;> omega

/-- R63: a number of 64 bits is its own two's complement. -/
theorem toSigned_fromSigned {z : Int} (h : -(2 ^ 63) ≤ z ∧ z < 2 ^ 63) : toSigned 64 (fromSigned 64 z) = z := by
  obtain ⟨hlo, hhi⟩ := h
  have hu : fromSigned 64 z = (z % 2 ^ 64).toNat := rfl
  generalize fromSigned 64 z = u at hu
  simp only [toSigned]
  rw [if_neg (by omega)]
  split <;> omega

theorem satInt_i32 (z : Int) : satInt 3 z = ((BitVec.ofInt 32 (limI32 z)).toNat, if limI32 z = z then 0 else flagOf ||| flagNx) := by
  have hclamp : clampInt z (-(2 ^ 31)) (2 ^ 31 - 1) = limI32 z := clampInt_eq (by omega) z
  show (fromSigned 32 (clampInt z (-(2 ^ 31)) (2 ^ 31 - 1)), if clampInt z (-(2 ^ 31)) (2 ^ 31 - 1) = z then (0 : Flags) else flagOf ||| flagNx) = _
  rw [hclamp, BitVec.toNat_ofInt]
  rfl

/-- R63: what a command of integers writes and the flags it sets, where `c` is what each element saturates to. -/
theorem Region.saturate_range (r : Region) (n : Nat) {z : Nat → Int} {c : Nat → Nat × Flags}
    (hc : ∀ k, satInt r.fmt (toSigned 64 (fromSigned 64 (z k))) = c k) :
    r.saturate ((List.range n).map z) =
      ((List.range n).map (fun k => { addr := r.elem (eltSize r.fmt) k, bytes := bytesOf (eltSize r.fmt) (c k).1, fl := (c k).2 }),
        orFlags ((List.range n).map (fun k => (c k).2))) := by
  simp only [Region.saturate, List.map_map, Function.comp_def, hc, Region.putBits_range, flagged_map]

/-- R63: what a command of `n` integers writes to an `I32` region, each saturated with its flags, and the flags it sets. -/
theorem saturate_i32 (d n : Nat) (sd : Int) {z : Nat → Int} (hz : ∀ k, -(2 ^ 63) ≤ z k ∧ z k < 2 ^ 63) :
    (i32Region d sd n).saturate ((List.range n).map z) =
      ((List.range n).map (fun k => { addr := elemAt d sd k, bytes := bytesOf 4 (BitVec.ofInt 32 (limI32 (z k))).toNat,
                                      fl := if limI32 (z k) = z k then 0 else flagOf ||| flagNx }),
        if ∀ k < n, limI32 (z k) = z k then 0 else flagOf ||| flagNx) := by
  have hsat : ∀ k, satInt 3 (toSigned 64 (fromSigned 64 (z k))) = _ := fun k => by rw [toSigned_fromSigned (hz k), satInt_i32]
  refine ((i32Region d sd n).saturate_range n hsat).trans ?_
  simp only [orFlags_map_ite (fun k => limI32 (z k) = z k), List.mem_range]
  rfl

/-! ### Elementwise commands (R219) -/

theorem zipCols_pair {α : Type} (n : Nat) (f g : Nat → α) :
    zipCols n [(List.range n).map f, (List.range n).map g] = (List.range n).map (fun k => [f k, g k]) := by
  have hnil : List.replicate n ([] : List α) = (List.range n).map (fun _ => []) := by simp
  simp only [zipCols, List.foldr_cons, List.foldr_nil]
  rw [hnil]
  simp only [List.zipWith_map, List.zipWith_self]

/-- R219: an elementwise command over two `I32` regions saturates the exact result of each pair. -/
theorem elementwise_i32 {m : Memory} {n d a b : Nat} {sd sa sb : Int} {x y : Nat → BitVec 32} (hx : HoldsI32 m a sa n x) (hy : HoldsI32 m b sb n y)
    {i : Instr} {z : Nat → Int} (hi : ∀ k, intOp i [(x k).toInt, (y k).toInt] = z k) (hz : ∀ k, -(2 ^ 63) ≤ z k ∧ z k < 2 ^ 63) :
    elementwise i (i32Region d sd n) n .none [i32Region a sa n, i32Region b sb n] m = {
      out := (List.range n).map (fun k => { addr := elemAt d sd k, bytes := bytesOf 4 (BitVec.ofInt 32 (limI32 (z k))).toNat,
                                            fl := if limI32 (z k) = z k then 0 else flagOf ||| flagNx }),
      flags := if ∀ k < n, limI32 (z k) = z k then 0 else flagOf ||| flagNx } := by
  have hrows : (zipCols n [(i32Region a sa n).ints m, (i32Region b sb n).ints m]).map (intOp i) = (List.range n).map z := by
    rw [hx.ints, hy.ints, zipCols_pair, List.map_map]
    exact List.map_congr_left fun k _ => hi k
  have hsat := saturate_i32 d n sd hz
  rw [← hrows] at hsat
  exact congrArg (fun r : List ElemW × Flags => ({ out := r.1, flags := r.2 } : VRes)) hsat

/-! ### Bitwise commands (R224) -/

/-- R224: a bitwise command over two `I32` regions writes what the operation makes of the stored bits. -/
theorem bitsRegion_i32 {m : Memory} {n d a b : Nat} {sd sa sb : Int} {x y : Nat → BitVec 32} (hx : HoldsI32 m a sa n x) (hy : HoldsI32 m b sb n y)
    {op : Nat → Nat → Nat} {z : Nat → BitVec 32} (hz : ∀ k, op (x k).toNat (y k).toNat = (z k).toNat) :
    bitsRegion op (i32Region d sd n) (i32Region a sa n) (i32Region b sb n) m =
      { out := (List.range n).map (fun k => { addr := elemAt d sd k, bytes := bytesOf 4 (z k).toNat }) } := by
  show ({ out := (i32Region d sd n).putBits 4 (List.zipWith op ((i32Region a sa n).bits 4 m) ((i32Region b sb n).bits 4 m)) } : VRes) = _
  rw [hx.bits, hy.bits, List.zipWith_map, List.zipWith_self, Region.putBits_range]
  simp only [hz, i32Region_elem]

/-! ### Sums (R227) -/

/-- R227: a sum saturated to 64 bits. -/
def limI64 (z : Int) : Int := max (-(2 ^ 63)) (min z (2 ^ 63 - 1))

theorem satSum_eq (z : Int) : satSum z = { b4 := BitVec.ofInt 64 (limI64 z), flags := if limI64 z = z then 0 else flagOf ||| flagNx } := by
  simp only [satSum, clampInt_eq (show (-(2 ^ 63) : Int) ≤ 2 ^ 63 - 1 by omega)]
  rfl

theorem sumRegion_i32 {m : Memory} {n a : Nat} {sa : Int} {x : Nat → BitVec 32} (hx : HoldsI32 m a sa n x) :
    sumRegion (i32Region a sa n) m = satSum ((List.range n).map (fun k => (x k).toInt)).sum := by
  rw [List.sum_eq_foldl, ← hx.ints]
  rfl

theorem dotRegion_i32 {m : Memory} {n a b : Nat} {sa sb : Int} {x y : Nat → BitVec 32} (hx : HoldsI32 m a sa n x) (hy : HoldsI32 m b sb n y) :
    dotRegion (i32Region a sa n) (i32Region b sb n) m = satSum ((List.range n).map (fun k => (x k).toInt * (y k).toInt)).sum := by
  have hprods : List.zipWith (· * ·) ((i32Region a sa n).ints m) ((i32Region b sb n).ints m) = (List.range n).map (fun k => (x k).toInt * (y k).toInt) := by
    rw [hx.ints, hy.ints, List.zipWith_map, List.zipWith_self]
  rw [List.sum_eq_foldl, ← hprods]
  rfl

/-! ### Extremes (R227) -/

theorem bestOf_concat {α : Type} (better : α → α → Bool) {l : List (Nat × α)} {b : Nat × α} (hb : bestOf better l = some b) (y : Nat × α) :
    bestOf better (l ++ [y]) = some (if better y.2 b.2 then y else b) := by
  cases l with
  | nil => cases hb
  | cons x l =>
    obtain rfl : l.foldl (fun b y => if better y.2 b.2 then y else b) x = b := Option.some.inj hb
    rw [List.cons_append, bestOf, List.foldl_append]
    rfl

/-- R227: by a strict order in which what is better than one is so than any other or the other is better than that one, the best of a list is the first of
those that none is better than. -/
theorem bestOf_range {α : Type} {better : α → α → Bool} (hasymm : ∀ u v, better u v = true → better v u = false)
    (hsplit : ∀ u v w, better u w = true → better u v = true ∨ better v w = true) (x : Nat → α) {n : Nat} (hn : 0 < n) :
    ∃ k < n, bestOf better ((List.range n).map (fun k => (k, x k))) = some (k, x k) ∧ (∀ j < n, better (x j) (x k) = false) ∧
      ∀ j < k, better (x k) (x j) = true := by
  have hirr : ∀ u, better u u = false := fun u => by
    cases h : better u u with
    | false => rfl
    | true => exact h.symm.trans (hasymm u u h)
  induction n, hn using Nat.le_induction with
  | base => exact ⟨0, by omega, rfl, fun j hj => by rw [Nat.lt_one_iff.mp hj, hirr], fun j hj => absurd hj (by omega)⟩
  | succ n hn ih =>
    obtain ⟨k, hk, hbest, hnone, hfirst⟩ := ih
    rw [List.range_succ, List.map_append, List.map_singleton, bestOf_concat better hbest]
    cases hb : better (x n) (x k) with
    | false =>
      refine ⟨k, by omega, rfl, fun j hj => ?_, hfirst⟩
      obtain hj | rfl := Nat.lt_succ_iff_lt_or_eq.mp hj
      · exact hnone j hj
      · exact hb
    | true =>
      have hbeats : ∀ j < n, better (x n) (x j) = true := fun j hj =>
        (hsplit _ (x j) _ hb).resolve_right (by rw [hnone j hj]; decide)
      refine ⟨n, by omega, rfl, fun j hj => ?_, hbeats⟩
      obtain hj | rfl := Nat.lt_succ_iff_lt_or_eq.mp hj
      · exact hasymm _ _ (hbeats j hj)
      · exact hirr _

theorem ofInt_toInt_low (v : BitVec 32) : (BitVec.ofInt 64 v.toInt).toNat % 2 ^ 32 = v.toNat := by
  have hv := v.isLt
  rw [BitVec.toNat_ofInt, BitVec.toInt_eq_toNat_cond]
  split <;> omega

/-- R227: the order of a maximum (`mx`) or minimum. -/
def extremeBetter (mx : Bool) (u v : Int) : Bool := if mx then decide (v < u) else decide (u < v)

theorem extremeBetter_asymm (mx : Bool) (u v : Int) (h : extremeBetter mx u v = true) : extremeBetter mx v u = false := by
  cases mx <;> simp [extremeBetter] at h ⊢ <;> omega

theorem extremeBetter_split (mx : Bool) (u v w : Int) (h : extremeBetter mx u w = true) : extremeBetter mx u v = true ∨ extremeBetter mx v w = true := by
  cases mx <;> simp [extremeBetter] at h ⊢ <;> omega

/-- R227: the extreme of an `I32` region that is not empty, with its index in the high half under `.idx`. -/
theorem extremeRegion_i32 {m : Memory} {n a : Nat} {sa : Int} {x : Nat → BitVec 32} (hx : HoldsI32 m a sa n x) (mx idx : Bool) (hn : 0 < n) :
    ∃ k < n, (∀ j < n, extremeBetter mx (x j).toInt (x k).toInt = false) ∧ (∀ j < k, extremeBetter mx (x k).toInt (x j).toInt = true) ∧
      extremeRegion mx idx (i32Region a sa n) m =
        { b4 := if idx then BitVec.ofNat 64 ((x k).toNat + k * 2 ^ 32) else BitVec.ofInt 64 (x k).toInt } := by
  obtain ⟨k, hk, hbest, hnone, hfirst⟩ := bestOf_range (extremeBetter_asymm mx) (extremeBetter_split mx) (fun k => (x k).toInt) hn
  have hlist : List.zip (List.range (i32Region a sa n).count) ((i32Region a sa n).ints m) = (List.range n).map (fun k => (k, (x k).toInt)) := by
    rw [hx.ints, List.map_prod_left_eq_zip]
    rfl
  have hfmt : isIntFmt (i32Region a sa n).fmt = true := rfl
  unfold extremeBetter at hbest
  refine ⟨k, hk, hnone, hfirst, ?_⟩
  unfold extremeRegion
  rw [if_pos hfmt, hlist, hbest, ← ofInt_toInt_low (x k)]

/-! ### The statement -/

theorem toInt_bounds (v : BitVec 32) : -(2 ^ 31) ≤ v.toInt ∧ v.toInt < 2 ^ 31 := by
  have hlo := v.le_toInt
  have hhi := v.two_mul_toInt_lt
  omega

theorem mul_bounds {p q : Int} (hp : -(2 ^ 31) ≤ p ∧ p < 2 ^ 31) (hq : -(2 ^ 31) ≤ q ∧ q < 2 ^ 31) : -(2 ^ 63) ≤ p * q ∧ p * q < 2 ^ 63 := by
  have habs : |p * q| ≤ 2 ^ 31 * 2 ^ 31 := by
    rw [abs_mul]
    exact mul_le_mul (abs_le.mpr (by omega)) (abs_le.mpr (by omega)) (abs_nonneg q) (by omega)
  have := abs_le.mp habs
  omega

/-- Settles O30: each command is the one lemma above about what it makes of regions that hold `x` and `y`. -/
theorem integerCommands : Obligations.IntegerCommands := by
  intro m f n d a b sd sa sb x y hx hy run lim fl gives stores sums finds
  have hbounds : ∀ k, (-(2 ^ 31) ≤ (x k).toInt ∧ (x k).toInt < 2 ^ 31) ∧ -(2 ^ 31) ≤ (y k).toInt ∧ (y k).toInt < 2 ^ 31 :=
    fun k => ⟨toInt_bounds _, toInt_bounds _⟩
  have hgives : ∀ {i : Instr} {z : Nat → Int}, run i = elementwise i (i32Region d sd n) n .none [i32Region a sa n, i32Region b sb n] m →
      (∀ k, intOp i [(x k).toInt, (y k).toInt] = z k) → (∀ k, -(2 ^ 63) ≤ z k ∧ z k < 2 ^ 63) → gives i z := by
    intro i z hrun hi hz
    have h := hrun.trans (elementwise_i32 hx hy hi hz)
    exact ⟨congrArg VRes.out h, congrArg VRes.flags h⟩
  have hstores : ∀ {i : Instr} {op : Nat → Nat → Nat} {z : Nat → BitVec 32},
      run i = bitsRegion op (i32Region d sd n) (i32Region a sa n) (i32Region b sb n) m → (∀ k, op (x k).toNat (y k).toNat = (z k).toNat) → stores i z := by
    intro i op z hrun hz
    have h := hrun.trans (bitsRegion_i32 hx hy hz)
    exact ⟨congrArg VRes.flags h, congrArg VRes.out h⟩
  have hsums : ∀ {i : Instr} {z : Nat → Int}, run i = satSum ((List.range n).map z).sum → sums i z := by
    intro i z hrun
    have h := hrun.trans (satSum_eq _)
    exact ⟨congrArg VRes.out h, congrArg VRes.b4 h, congrArg VRes.flags h⟩
  have hfinds : ∀ (mx : Bool) {i : Instr} {better : Int → Int → Prop}, run i = extremeRegion mx (f.md.getLsbD 0) (i32Region a sa n) m →
      (∀ u v, extremeBetter mx u v = true ↔ better u v) → finds i better := by
    intro mx i better hrun hb hn
    obtain ⟨k, hk, hnone, hfirst, h⟩ := extremeRegion_i32 hx mx (f.md.getLsbD 0) hn
    rw [← hrun] at h
    exact ⟨k, hk, fun j hj hbetter => Bool.false_ne_true ((hnone j hj).symm.trans ((hb _ _).mpr hbetter)), fun j hj => (hb _ _).mp (hfirst j hj),
      congrArg VRes.flags h, congrArg VRes.out h, congrArg VRes.b4 h⟩
  refine ⟨?add, ?sub, ?mul, ?max, ?min, ?and, ?or, ?xor, hsums (sumRegion_i32 hx), hsums (dotRegion_i32 hx hy), ?rmax, ?rmin⟩
  case add | sub | max | min => exact hgives rfl (fun _ => rfl) fun k => by have := hbounds k; omega
  case mul => exact hgives rfl (fun _ => rfl) fun k => mul_bounds (toInt_bounds _) (toInt_bounds _)
  case and => exact hstores (op := (· &&& ·)) rfl fun _ => (BitVec.toNat_and ..).symm
  case or => exact hstores (op := (· ||| ·)) rfl fun _ => (BitVec.toNat_or ..).symm
  case xor => exact hstores (op := (· ^^^ ·)) rfl fun _ => (BitVec.toNat_xor ..).symm
  case rmax => exact hfinds true rfl fun _ _ => decide_eq_true_iff
  case rmin => exact hfinds false rfl fun _ _ => decide_eq_true_iff

end Sys2Proof.Machine

/-! ### What every outcome of a word keeps (O59): the operations that words share -/

namespace Sys2Proof.Machine

/-- Whatever next state an outcome answers has its store in canonical form. -/
def SoundNext (o : Out) : Prop := ∀ t, o = .next t → Sound t

section
variable {s : State}

@[simp] theorem soundNext_next : SoundNext (.next s) ↔ Sound s := ⟨fun h => h s rfl, fun h t e => by cases e; exact h⟩

theorem sound_next (h : Sound s) : SoundNext (.next s) := soundNext_next.mpr h

@[simp] theorem soundNext_fault (r : Fault) : SoundNext (.fault r) := fun _ e => by cases e

@[simp] theorem soundNext_refused (r : Refusal) : SoundNext (.refused r) := fun _ e => by cases e

/-- An operation that changes no byte keeps the canonical form. -/
theorem sound_of_mem {t : State} (h : Sound s) (e : t.mem = s.mem) : Sound t := by simpa only [Sound, e] using h

/-- A fold over states changes no byte when none of its steps does. -/
theorem foldl_mem {α : Type} (f : State → α → State) (hf : ∀ s x, (f s x).mem = s.mem) : ∀ (l : List α) (s : State), (l.foldl f s).mem = s.mem
  | [], _ => rfl
  | x :: l, s => (foldl_mem f hf l (f s x)).trans (hf s x)

/-- A choice between two ways to change a state keeps what both keep. -/
theorem sound_ite {c : Prop} [Decidable c] {t u : State} (ht : Sound t) (hu : Sound u) : Sound (if c then t else u) := by
  split
  · exact ht
  · exact hu

/-- A choice between two results that hold a state. -/
theorem sound_ite_of {β : Type} (p : β → State) {c : Prop} [Decidable c] {a b : β} (ha : Sound (p a)) (hb : Sound (p b)) : Sound (p (if c then a else b)) := by
  split
  · exact ha
  · exact hb

/-- A choice between two outcomes. -/
theorem soundNext_ite {c : Prop} [Decidable c] {o p : Out} (ho : SoundNext o) (hp : SoundNext p) : SoundNext (if c then o else p) := by
  split
  · exact ho
  · exact hp

@[simp] theorem State.freshId_mem (s : State) : s.freshId.2.mem = s.mem := rfl
@[simp] theorem State.freeNat_mem (s : State) : s.freeNat.2.mem = s.mem := rfl
@[simp] theorem State.freeBit_mem (s : State) : s.freeBit.2.mem = s.mem := rfl
@[simp] theorem State.armTok_mem (s : State) (k t : Nat) : (s.armTok k t).mem = s.mem := rfl
@[simp] theorem State.endTok_mem (s : State) (k t : Nat) (p n e : Bool) : (s.endTok k t p n e).mem = s.mem := rfl
@[simp] theorem State.engineEvent_mem (s : State) (die : Nat) (e : PendEv) : (s.engineEvent die e).mem = s.mem := rfl

/-! #### Traps -/

@[simp] theorem State.giveBack_mem (s : State) (k n : Nat) : (s.giveBack k n).mem = s.mem := (s.giveBack_kept k n).mem
@[simp] theorem State.freeze_mem (s : State) (k cause : Nat) : (s.freeze k cause).mem = s.mem := (s.freeze_kept k cause).mem
@[simp] theorem State.haltFor_mem (s : State) (k reason due : Nat) : (s.haltFor k reason due).mem = s.mem := (s.haltFor_kept k reason due).mem
@[simp] theorem State.deliverTrap_mem (s : State) (k : Nat) (t : Trap) : (s.deliverTrap k t).mem = s.mem := (s.deliverTrap_kept k t).mem
@[simp] theorem State.takeTrap_mem (s : State) (t : Trap) : (s.takeTrap t).mem = s.mem := (s.takeTrap_kept t).mem

theorem State.raise_sound (hs : Sound s) {ord cause : Nat} {v : W64} : SoundNext (s.raise ord cause v) := sound_next (sound_of_mem hs (s.takeTrap_mem _))
theorem State.illegal_sound (hs : Sound s) : SoundNext s.illegal := State.raise_sound hs
theorem State.illegalHere_sound (hs : Sound s) : SoundNext s.illegalHere := State.raise_sound hs

/-! #### Results and waits -/

theorem State.result_sound (hs : Sound s) {d : Dest} {lat : Nat} {l : Option Nat} {v : W64} {p : Nat} : SoundNext (s.result d lat l v p) :=
  fun _ h => (State.result_kept h).sound hs

theorem State.sResult_sound (hs : Sound s) {d : BitVec 5} {nw : Bool} {lat : Nat} {v : W64} : SoundNext (s.sResult d nw lat v) := State.result_sound hs
theorem State.pResult_sound (hs : Sound s) {d : BitVec 3} {b : Bool} : SoundNext (s.pResult d b) := State.result_sound hs

theorem State.noteHeld_sound (hs : Sound s) : Sound s.noteHeld := sound_ite hs hs

/-! #### What words run under: the guard, the checks at issue, the record, the commit buffer -/

section
variable {body : State → Out}

theorem State.word_sound (hs : Sound s) (hb : ∀ s, Sound s → SoundNext (body s)) {legal g : Bool} : SoundNext (s.word legal g body) :=
  soundNext_ite (State.illegal_sound hs) (soundNext_ite (sound_next hs) (hb s hs))

theorem State.pword_sound (hs : Sound s) (hb : ∀ s, Sound s → SoundNext (body s)) {legal g : Bool} : SoundNext (s.pword legal g body) :=
  soundNext_ite (State.illegal_sound hs) (soundNext_ite (State.raise_sound hs) (soundNext_ite (sound_next hs) (hb s hs)))

theorem State.checked_sound (hs : Sound s) (hb : ∀ s, Sound s → SoundNext (body s)) {gl : Bool} {ea : W64} {n : Nat} {op : AccessOp} {v : W64} :
    SoundNext (s.checked gl ea n op v body) := by
  unfold State.checked
  split
  · exact State.raise_sound hs
  · exact hb s hs

theorem State.regions_sound (hs : Sound s) (hb : ∀ s, Sound s → SoundNext (body s)) {ns : List Need} : SoundNext (s.regions ns body) := by
  unfold State.regions
  split
  · exact State.raise_sound hs
  · exact hb s hs

theorem State.regionTrap_sound (hs : Sound s) (hb : ∀ s, Sound s → SoundNext (body s)) {bad : Option Nat} : SoundNext (s.regionTrap bad body) := by
  unfold State.regionTrap
  split
  · exact State.raise_sound hs
  · exact hb s hs

theorem State.productTrap_sound (hs : Sound s) (hb : ∀ s, Sound s → SoundNext (body s)) {r : Bool} {b : List Byte} {fmt : Nat} :
    SoundNext (s.productTrap r b fmt body) := soundNext_ite (State.raise_sound hs) (hb s hs)

theorem State.withToken_sound (hs : Sound s) (hb : ∀ s, Sound s → SoundNext (body s)) {f : TQ} : SoundNext (s.withToken f body) :=
  soundNext_ite (State.raise_sound hs) (hb s hs)

theorem State.ownSlot_sound (hs : Sound s) (hb : ∀ s, Sound s → SoundNext (body s)) {f : TQ} : SoundNext (s.ownSlot f body) :=
  soundNext_ite (hb s hs) (State.raise_sound hs)

end

theorem State.withPair_sound {body : Nat → State → Out} (hs : Sound s) (hb : ∀ p s, Sound s → SoundNext (body p s)) {f : TQ} : SoundNext (s.withPair f body) :=
  soundNext_ite (State.raise_sound hs) (hb _ s hs)

theorem State.withRecord_sound {body : List Byte → State → Out} (hs : Sound s) (hb : ∀ b s, Sound s → SoundNext (body b s)) {f : TQ} {n : Nat} :
    SoundNext (s.withRecord f n body) :=
  soundNext_ite (State.raise_sound hs) (soundNext_ite (State.raise_sound hs) (hb _ _ ((State.observe_kept _ _ _ _).sound (State.touch_sound _ _ hs))))

/-- R118: a word acts at once or waits. -/
theorem State.act_sound {perform : W64 → List (List Byte) → State → State} (hs : Sound s) (hp : ∀ v r s, Sound s → Sound (perform v r s)) {i : Instr}
    {val : W64} {recs : List (List Byte)} : SoundNext (s.act i val recs perform) := sound_next (sound_ite hs (hp val recs s hs))

end

section
variable {s : State}

/-! #### Scalar words, loads, streaming commands -/

theorem State.alu_sound (hs : Sound s) {i : Instr} {f : RR} {lat : Nat} {op : Bool → W64 → W64 → W64} : SoundNext (s.alu i f lat op) :=
  State.word_sound hs fun _ h => State.sResult_sound h

theorem State.aluImm_sound (hs : Sound s) {i : Instr} {f : RI} {op : W64 → W64 → W64} : SoundNext (s.aluImm i f op) :=
  State.word_sound hs fun _ h => State.sResult_sound h

theorem State.shiftImm_sound (hs : Sound s) {i : Instr} {f : RI} {op : W64 → Nat → W64} : SoundNext (s.shiftImm i f op) :=
  State.word_sound hs fun _ h => State.sResult_sound h

/-- R178: a local load moves the element writes it meets into the store. -/
theorem State.loadLocal_sound (hs : Sound s) {f : MM} {ea : W64} {lat : Nat} : SoundNext (s.loadLocal f ea lat) :=
  soundNext_ite (State.raise_sound hs) (State.checked_sound hs fun _ h => State.result_sound (State.localRead_sound _ _ _ h))

theorem State.drawCoin_sound (hs : Sound s) {takes : Bool} : Sound (s.drawCoin takes).2 := by
  unfold State.drawCoin
  split <;> exact hs

theorem State.computeStream_sound (hs : Sound s) {id : Nat} : Sound (s.computeStream id) := by
  unfold State.computeStream
  split
  · split
    · exact hs
    · exact hs
  · exact hs

/-- R216: a command that samples its sources meets the element writes of others. -/
theorem State.sampleStream_sound (hs : Sound s) {id : Nat} : Sound (s.sampleStream id) := by
  unfold State.sampleStream
  split
  · split
    · exact State.computeStream_sound (foldl_sound _ (fun x h => State.touch_sound x.1 x.2 h) _ hs)
    · exact hs
  · exact hs

theorem State.stream_sound (hs : Sound s) {slot tail n : Nat} {now' : Bool} {job : VJob} : SoundNext (s.stream slot tail n now' job) := by
  unfold State.stream State.freeNat State.freshId
  dsimp only
  split
  · exact State.raise_sound hs
  · have hq : ∀ (cs : List Cmd) (fr id : Nat) (h : Held) (b : Bool), Sound (if b then State.hold { s with cmds := cs, free := fr, nextId := id } h
        else { s with cmds := cs, free := fr, nextId := id }) := fun _ _ _ _ _ => sound_ite hs hs
    exact sound_next (sound_ite (State.computeStream_sound (hq ..)) (sound_ite (State.sampleStream_sound (hq ..)) (hq ..)))

theorem State.vStream_sound (hs : Sound s) {i : Instr} {g : Bool} {ns : List Need} {n : Nat} {job : VJob} : SoundNext (s.vStream i g ns n job) :=
  State.word_sound hs fun _ h => soundNext_ite (State.raise_sound h) (State.regions_sound h fun _ h => State.stream_sound h)

theorem State.sources_sound (hs : Sound s) {i : Instr} {f : VR} {k : Nat} : SoundNext (s.sources i f k) := State.vStream_sound hs
theorem State.scaled_sound (hs : Sound s) {i : Instr} {f : VS} : SoundNext (s.scaled i f) := State.vStream_sound hs
theorem State.bitwise_sound (hs : Sound s) {i : Instr} {f : VR} : SoundNext (s.bitwise i f) := State.vStream_sound hs
theorem State.shifted_sound (hs : Sound s) {i : Instr} {f : VS} : SoundNext (s.shifted i f) := State.vStream_sound hs
theorem State.reduction_sound (hs : Sound s) {i : Instr} {f : VR} : SoundNext (s.reduction i f) := State.vStream_sound hs

theorem State.fword_sound (hs : Sound s) {i : Instr} {f : VS} : SoundNext (s.fword i f) := by
  refine State.word_sound hs fun _ h => soundNext_ite (soundNext_ite (State.raise_sound h) (sound_next (State.noteHeld_sound ?_)))
    (State.regions_sound h fun _ h => State.stream_sound h)
  exact h

theorem State.xword_sound (hs : Sound s) {i : Instr} {f : VR} : SoundNext (s.xword i f) :=
  State.word_sound hs fun _ h => State.regions_sound h fun _ h => State.stream_sound h

theorem State.raiseFlags_sound (hs : Sound s) {fls : List (Nat × Flags)} : Sound (s.raiseFlags fls) := by
  obtain ⟨_, h⟩ := s.raiseFlags_rest fls
  exact sound_of_mem hs (by rw [h])

/-- R65: a command that is seen ahead of its time has written some of its elements. -/
theorem State.runAhead_sound (hs : Sound s) {c : Cmd} {n : Nat} {more : Flags} : Sound (s.runAhead c n more) :=
  State.raiseFlags_sound (State.performElems_sound _ _ (by exact hs))

theorem State.earlyFlag_sound (hs : Sound s) {k : Nat} {c : Cmd} : Sound (State.earlyFlag k s c) :=
  sound_ite (State.runAhead_sound (s := { s with free := s.free + 2 }) hs) hs

theorem State.earlyFlags_sound (hs : Sound s) {k : Nat} : Sound (s.earlyFlags k) :=
  foldl_sound _ (fun _ h => State.earlyFlag_sound h) _ hs

/-! #### T, A and Q words -/

theorem State.updCmd_sound (hs : Sound s) {id : Nat} {f : Cmd → Cmd} : Sound (s.updCmd id f) := hs

theorem State.reject_sound (hs : Sound s) {f : TQ} {prio st : Nat} : Sound (s.reject f prio st) := (s.reject_kept f prio st).sound hs

theorem State.accept_sound (hs : Sound s) {f : TQ} {prio : Nat} {kind : CmdKind} {bar : Option Nat} {reads : Bool} {raw : List Byte} :
    Sound (s.accept f prio kind bar reads raw) := sound_of_mem hs (s.accept_mem f prio kind bar reads raw)

theorem State.armIf_sound (hs : Sound s) {k : Nat} {kw : Bool} {t : Nat} : Sound (s.armIf k kw t) := (s.armIf_kept k kw t).sound hs

theorem State.tileMove_sound {perform : W64 → List (List Byte) → State → State} (hs : Sound s) (hp : ∀ v r s, Sound s → Sound (perform v r s))
    {op : TileOp} {i : Instr} {f : TQ} : SoundNext (s.tileMove op i f perform) :=
  State.word_sound hs fun _ h => State.withRecord_sound h fun _ _ h => soundNext_ite (State.raise_sound h) (State.act_sound h hp)

theorem State.aWord_sound {perform : W64 → List (List Byte) → State → State} (hs : Sound s) (hp : ∀ v r s, Sound s → Sound (perform v r s))
    {i : Instr} {f : TQ} {n : Nat} {ok : List Byte → Bool} {bad : List Byte → List Nat → Option Nat} : SoundNext (s.aWord i f n ok bad perform) :=
  State.word_sound hs fun _ h => State.withPair_sound h fun _ _ h => State.withRecord_sound h fun _ _ h => State.regionTrap_sound h fun _ h =>
    State.act_sound h hp

theorem State.groupedWord_sound {perform : W64 → List (List Byte) → State → State} (hs : Sound s) (hp : ∀ v r s, Sound s → Sound (perform v r s))
    {k : Grouped} {i : Instr} {f : TQ} : SoundNext (s.groupedWord k i f perform) := by
  refine State.word_sound hs fun _ h => State.withRecord_sound h fun _ _ h => soundNext_ite (State.act_sound h hp) ?_
  dsimp only
  split
  · exact State.raise_sound h
  · exact State.regionTrap_sound (foldl_sound _ (fun _ h => State.touch_sound _ _ h) _ h) fun _ h => State.act_sound h hp

theorem performProduct_sound (hs : Sound s) {f : TQ} {gr : Bool} {recs : List (List Byte)} : Sound (performProduct f gr recs s) := by
  refine sound_ite (State.reject_sound hs) ?_
  generalize (if gr then badGroup (recs.getD 0 []) (recs.getD 2 []) (recs.getD 3 []) else none) = bad
  cases bad with
  | some g => exact State.reject_sound hs
  | none => exact State.accept_sound hs

theorem performMove_sound (hs : Sound s) {op : TileOp} {f : TQ} {recs : List (List Byte)} : Sound (performMove op f recs s) :=
  sound_ite (State.reject_sound hs) (State.accept_sound hs)

theorem performTCop_sound (hs : Sound s) {f : TQ} {v : W64} {recs : List (List Byte)} : Sound (performTCop f v recs s) := sound_ite hs hs

theorem State.acceptA_sound (hs : Sound s) {f : TQ} {es : List AEntry} {bar : Option Nat} {raw : List Byte} : Sound (s.acceptA f es bar raw) :=
  sound_ite (sound_ite (State.armIf_sound hs) (State.armIf_sound hs)) (State.accept_sound hs)

theorem performA_sound (hs : Sound s) {f : TQ} {recs : List (List Byte)} {ok : List Byte → Bool} {bar : Nat}
    {entry : List Byte → List Nat → State → AEntry} : Sound (performA f recs ok bar entry s) :=
  sound_ite (State.reject_sound hs) (State.acceptA_sound hs)

theorem performGrouped_sound (hs : Sound s) {k : Grouped} {f : TQ} {recs : List (List Byte)} : Sound (performGrouped k f recs s) := by
  refine sound_ite (State.reject_sound hs) ?_
  split
  · exact State.reject_sound hs
  · exact State.acceptA_sound hs

theorem performAScl_sound (hs : Sound s) {f : TQ} {v : W64} {recs : List (List Byte)} : Sound (performAScl f v recs s) :=
  sound_ite (State.reject_sound hs) (State.acceptA_sound hs)

theorem performAStat_sound (hs : Sound s) {f : TQ} {v : W64} {recs : List (List Byte)} : Sound (performAStat f v recs s) := by
  unfold performAStat
  split <;> exact hs

theorem State.filled_sound (hs : Sound s) {r : CopyRec} : Sound (s.filled r) := foldl_sound _ (fun _ h => by exact h) _ hs

theorem performQCopy_sound (hs : Sound s) {f : TQ} {v : W64} {recs : List (List Byte)} : Sound (performQCopy f v recs s) :=
  have hf : ∀ r : CopyRec, Sound (((s.armIf s.key f.kw f.k.toNat).status prioQ 0).filled r) := fun _ =>
    State.filled_sound (by exact State.armIf_sound hs)
  sound_ite (State.reject_sound hs) (sound_ite (sound_ite (hf _) (hf _)) (State.updCmd_sound (State.accept_sound (by exact hs))))

theorem State.tryPut_sound (hs : Sound s) {k n t st : Nat} {v : W64} {u : State} (h : s.tryPut k n v t = some (st, u)) : Sound u := by
  unfold State.tryPut at h
  split at h
  · cases h; exact hs
  · split at h
    · cases h; exact hs
    · split at h
      · cases h
      · cases h; exact hs

theorem performQPut_sound (hs : Sound s) {f : TQ} {v : W64} {recs : List (List Byte)} : Sound (performQPut f v recs s) := by
  unfold performQPut
  split
  · rename_i heq
    have ht := State.tryPut_sound hs heq
    exact ht
  · exact hs

/-! #### Levels, launches, cancels -/

theorem State.updLevel_sound (hs : Sound s) {h : Nat} {f : Level → Level} : Sound (s.updLevel h f) := by
  unfold State.updLevel
  split <;> exact hs

theorem State.updUnit_sound (hs : Sound s) {u : Nat} {f : Unit → Unit} : Sound (s.updUnit u f) := by
  unfold State.updUnit
  split <;> exact hs

theorem State.signalAll_sound (hs : Sound s) {ts : List (Nat × Nat)} {part nres err : Bool} : Sound (s.signalAll ts part nres err) :=
  foldl_sound _ (fun _ h => by exact h) _ hs

/-- R202: a launch writes the records of its units. -/
theorem State.addUnits_sound {h die ptr : Nat} {e : List Nat} {sync : Bool} : ∀ (n i : Nat) {s : State}, Sound s → Sound (s.addUnits h die e ptr sync n i)
  | 0, _, _, hs => hs
  | n + 1, i, _, hs => State.addUnits_sound n (i + 1) (State.writeUnitRecord_sound _ hs)

theorem State.createLaunch_sound (hs : Sound s) {die part img parent : Nat} {super : Bool} {deps : List Nat} {b : List Byte} :
    Sound (s.createLaunch die part img parent super deps b).2.2 := by
  unfold State.createLaunch
  iterate 7 refine sound_ite_of (fun x : Nat × Nat × State => x.2.2) hs ?_
  refine State.addUnits_sound _ _ ?_
  split
  · exact sound_ite hs hs
  · exact hs

/-- R203: the levels that are done with are reported, and signal their tokens. -/
theorem State.settle_sound : ∀ (n h : Nat) {s : State}, Sound s → Sound (State.settle n h s)
  | 0, _, _, hs => hs
  | n + 1, h, s, hs => by
    unfold State.settle
    split
    · exact sound_ite (State.settle_sound n _ (State.updLevel_sound (foldl_sound _ (fun _ h => by exact h) _ (State.updLevel_sound hs)))) hs
    · exact hs

theorem State.addChild_sound (hs : Sound s) {p : Nat} : Sound (s.addChild p) := State.updLevel_sound hs

theorem State.attach_sound (hs : Sound s) {f : TQ} {h : Nat} : Sound (s.attach f h) :=
  have ha := State.armIf_sound hs
  State.settle_sound _ _ (sound_ite (State.updLevel_sound ha) ha)

theorem State.status_sound (hs : Sound s) {prio : Nat} {v : W64} : Sound (s.status prio v) := hs

theorem performQLaunch_sound (hs : Sound s) {f : TQ} {v : W64} {recs : List (List Byte)} : Sound (performQLaunch f v recs s) :=
  have hc : Sound (s.createLaunch (dieOf s.iss.core) ((s.partOf s.iss.core).getD 16) s.cur.img (s.creator s.key).1 (s.creator s.key).2 [] (recs.getD 0 [])).2.2 :=
    State.createLaunch_sound hs
  State.status_sound (sound_ite (State.attach_sound (State.addChild_sound hc)) hc)

theorem State.createAll_sound {die part img graph : Nat} {super : Bool} : ∀ (bs : List (List Byte)) (made : List (Nat × List (Nat × Nat × Nat × Nat)))
    {s : State}, Sound s → Sound (s.createAll die part img graph super bs made).2
  | [], _, _, hs => hs
  | b :: bs, made, s, hs => by
    unfold State.createAll
    dsimp only
    split
    · rename_i heq
      refine State.createAll_sound bs _ ?_
      have := State.createLaunch_sound hs (die := die) (part := part) (img := img) (parent := graph) (super := super) (b := b)
        (deps := (made.filter (fun m => m.2.any (fun x => (s.rangesOf img (launchOf b)).any (fun y => rangesMeet x y)))).map Prod.fst)
      rwa [heq] at this
    · exact hs

/-- R203: a graph that is created whole, or not at all. -/
theorem performQGlaunch_sound (hs : Sound s) {f : TQ} {v : W64} {recs : List (List Byte)} : Sound (performQGlaunch f v recs s) := by
  unfold performQGlaunch
  split
  · exact hs
  · dsimp only
    split
    · exact hs
    · split
      · exact hs
      · split
        · exact hs
        · refine State.status_sound (foldl_sound _ (fun _ h => State.settle_sound _ _ h) _ (State.attach_sound (State.addChild_sound ?_)))
          exact State.createAll_sound _ _ (by exact hs)

theorem State.virtWrite_sound (hs : Sound s) {part va : Nat} {bs : List Byte} : Sound (s.virtWrite part va bs) := by
  refine foldl_sound _ (fun x h => ?_) _ hs
  split
  · exact sound_ite (State.writePhys_sound _ _ _ _ h) h
  · exact h

/-- R27: a job that is done writes its completion record. -/
theorem State.settleJob_sound (hs : Sound s) {h : Nat} : Sound (s.settleJob h) := by
  unfold State.settleJob
  split
  · exact sound_ite (State.virtWrite_sound (State.updLevel_sound hs)) hs
  · exact hs

theorem State.dropTokens_sound (hs : Sound s) {job : Nat} : Sound (s.dropTokens job) := State.settleJob_sound (State.updLevel_sound (by exact hs))

theorem State.cancel_sound (hs : Sound s) {h : Nat} : Sound (s.cancel h) :=
  foldl_sound _ (fun _ h => State.dropTokens_sound h) _
    (by exact foldl_sound (fun (s : State) x => s.updLevel x (fun l => { l with cncl := true })) (fun _ h => State.updLevel_sound h) _ hs)

theorem performQCancel_sound (hs : Sound s) {f : TQ} {v : W64} {recs : List (List Byte)} : Sound (performQCancel f v recs s) := by
  unfold performQCancel
  dsimp only
  split
  · exact hs
  · exact sound_ite hs (sound_ite hs (State.status_sound (State.cancel_sound hs)))

/-! #### Exits, page requests, collectives -/

theorem State.endPmt_sound (hs : Sound s) {k : Nat} {p : Nat × Nat → Bool} : Sound (s.endPmt k p) := by
  refine foldl_sound _ (fun _ h => ?_) _ (by exact hs)
  exact sound_ite h h

theorem State.setCtx_sound (hs : Sound s) {k : Nat} {c : Ctx} : Sound (s.setCtx k c) := hs
theorem State.updCtx_sound (hs : Sound s) {k : Nat} {f : Ctx → Ctx} : Sound (s.updCtx k f) := hs
theorem State.forget_sound (hs : Sound s) {k : Nat} : Sound (s.forget k) := hs

theorem State.rest_sound (hs : Sound s) {k : Nat} : Sound (s.rest k) := State.setCtx_sound (State.forget_sound (State.endPmt_sound hs))

theorem State.leave_sound (hs : Sound s) {k : Nat} : Sound (s.leave k) := by
  unfold State.leave
  dsimp only
  split
  · exact sound_ite (State.updLevel_sound (State.updUnit_sound (by exact hs))) hs
  · exact hs

theorem State.exitRun_sound (hs : Sound s) {k : Nat} : Sound (s.exitRun k) := by
  unfold State.exitRun
  refine sound_ite (State.rest_sound (by exact hs)) (State.updCtx_sound ?_)
  have hl : Sound (State.leave (s.updCore (keyCore k) (fun x => if x.primary = keyCtx k then { x with choosing := true } else x)) k) :=
    State.leave_sound (by exact hs)
  split <;> exact hl

theorem performQPgreq_sound (hs : Sound s) {f : TQ} {v : W64} {recs : List (List Byte)} : Sound (performQPgreq f v recs s) := by
  refine sound_of_mem hs ?_
  unfold performQPgreq
  dsimp only
  split <;> simp [apply_ite State.mem]

theorem State.idleSlot_sound (hs : Sound s) {n : Nat} : Sound (s.idleSlot n) := State.signalAll_sound (by exact hs)

theorem performQSortc_sound (hs : Sound s) {f : TQ} {v : W64} {recs : List (List Byte)} : Sound (performQSortc f v recs s) :=
  sound_ite (State.reject_sound hs) (by exact State.accept_sound hs)

theorem performQCarm_sound (hs : Sound s) {f : TQ} {v : W64} {recs : List (List Byte)} : Sound (performQCarm f v recs s) := by
  unfold performQCarm
  dsimp only
  split
  · refine State.status_sound ?_
    have hd : Sound (if (s.slot (slotOfSub f)).state = 1 then s.idleSlot (slotOfSub f)
        else if (s.slot (slotOfSub f)).state = 2 then s.updSlot (slotOfSub f) (fun x => { x with disarm := true }) else s) :=
      sound_ite (State.idleSlot_sound hs) (sound_ite hs hs)
    exact sound_ite hd hd
  · refine sound_ite (State.reject_sound hs) (sound_ite hs (State.status_sound ?_))
    exact sound_ite hs hs

theorem performQCtrig_sound (hs : Sound s) {f : TQ} {v : W64} {recs : List (List Byte)} : Sound (performQCtrig f v recs s) :=
  sound_ite (State.reject_sound hs) (State.status_sound (by exact State.armIf_sound hs))

theorem performQHset_sound (hs : Sound s) {f : TQ} {v : W64} {recs : List (List Byte)} : Sound (performQHset f v recs s) :=
  sound_ite hs (sound_ite hs (State.status_sound (by exact foldl_sound _ (fun _ h => State.setCtx_sound h) _ hs)))

/-! #### P words: control registers, pre-emption, power -/

theorem State.popMailbox_sound (hs : Sound s) {p : Nat} : Sound (s.popMailbox p).2 := by
  unfold State.popMailbox
  split
  · exact hs
  · exact sound_ite hs hs

theorem State.csrRead_sound (hs : Sound s) {k n md : Nat} : Sound (s.csrRead k n md).2 :=
  sound_ite_of (fun x : W64 × State => x.2) hs (sound_ite_of (fun x : W64 × State => x.2) (State.popMailbox_sound hs) hs)

theorem State.csrWrite_sound (hs : Sound s) {k n md : Nat} {v : W64} : Sound (s.csrWrite k n md v) :=
  sound_ite hs (sound_ite hs (sound_ite hs hs))

/-- R389: a read of `csr.vstat` may find flags of commands under way. -/
theorem State.withCsr_sound {body : Nat → State → Out} (hs : Sound s) (hb : ∀ k s, Sound s → SoundNext (body k s)) {legal write busy : Bool} {f : PV} :
    SoundNext (s.withCsr legal f write busy body) := by
  refine soundNext_ite (State.illegal_sound hs) (State.pword_sound hs fun s h => soundNext_ite (State.raise_sound h) ?_)
  split
  · exact State.raise_sound h
  · exact soundNext_ite (State.raise_sound h) (hb _ _ (sound_ite (State.earlyFlags_sound h) h))

theorem State.reenter_sound (hs : Sound s) {k : Nat} : Sound (s.reenter k) := hs

theorem State.freeze_sound (hs : Sound s) {k cause : Nat} : Sound (s.freeze k cause) := (s.freeze_kept k cause).sound hs

theorem State.haltFor_sound (hs : Sound s) {k reason due : Nat} : Sound (s.haltFor k reason due) := (s.haltFor_kept k reason due).sound hs

theorem State.releaseFor_sound (hs : Sound s) {k reason : Nat} : Sound (s.releaseFor k reason) := sound_ite hs (sound_ite hs hs)

theorem State.pmt_sound (hs : Sound s) {f : TQ} {core : Nat} : Sound (s.pmt f core) := by
  unfold State.pmt State.freshId
  refine State.status_sound (foldl_sound _ (fun _ h => ?_) _ ?_)
  · exact sound_ite (State.releaseFor_sound h) (State.haltFor_sound (by exact h))
  · have hf : ∀ (ks : List Nat) (g : State → Nat → State) {u : State}, (∀ s k, (g s k).mem = s.mem) → Sound u → Sound (if f.kw then ks.foldl g u else u) :=
      fun ks g u hg h => sound_ite (sound_of_mem h (foldl_mem g hg ks u)) h
    have ha := State.armIf_sound (s := { s with nextId := s.nextId + 1 }) hs (k := s.key) (kw := f.kw) (t := f.k.toNat)
    exact sound_ite (hf _ _ (fun _ _ => rfl) ha) (hf _ _ (fun _ _ => rfl) ha)

theorem State.moveWord_sound (hs : Sound s) {f : TQ} {load : Bool} {b : List Byte} : Sound (s.moveWord f load b) := by
  have ha : ∀ {kind : CmdKind} {g : Cmd → Cmd}, Sound ((State.accept { s with free := s.free + 1 } f prioP kind none false b).updCmd s.nextId g) :=
    State.updCmd_sound (State.accept_sound (by exact hs))
  exact sound_ite (State.reject_sound hs) (sound_ite (State.reject_sound hs) (sound_ite (State.reject_sound hs) (sound_ite (State.setCtx_sound ha) ha)))

theorem State.moveTrap_sound (hs : Sound s) {f : TQ} {load : Bool} {b : List Byte} : SoundNext (s.moveTrap f load b) :=
  soundNext_ite (State.raise_sound hs) (sound_next (State.moveWord_sound hs))

/-- R395: a stack that is put to self-refresh by force has its tiles saved. -/
theorem State.stackRequest_sound (hs : Sound s) {st : Nat} {enter force : Bool} : Sound (s.stackRequest st enter force).2 := by
  unfold State.stackRequest
  dsimp only
  split
  · exact hs
  · split
    · exact hs
    · split
      · exact sound_of_mem (foldl_sound _ (fun _ h => State.saveTiles_sound _ h) _ hs) rfl
      · exact hs

theorem State.killRun_sound (hs : Sound s) {k : Nat} : Sound (s.killRun k) := by
  refine State.exitRun_sound ?_
  have hw : ∀ {w : Work}, Sound ((s.updUnit w.uid (fun u => { u with err := true })).updLevel w.launch (fun l => { l with err := true })) :=
    State.updLevel_sound (State.updUnit_sound hs)
  cases (s.ctx k).work with
  | none => exact hs
  | some w => exact hw

theorem State.killAll_sound (hs : Sound s) {p : Nat → Bool} : Sound (s.killAll p) :=
  foldl_sound _ (fun _ h => sound_ite (State.killRun_sound h) (sound_ite (State.setCtx_sound h) h)) _ hs

theorem State.freeCtx_sound (hs : Sound s) {k : Nat} : Sound (s.freeCtx k) := State.setCtx_sound (State.forget_sound (State.endPmt_sound hs))

theorem State.updCore_sound (hs : Sound s) {c : Nat} {f : Core → Core} : Sound (s.updCore c f) := hs

theorem State.dropWork_sound (hs : Sound s) {p : Nat → Bool} : Sound (s.dropWork p) := hs

/-- Supervisors of cleared cores are freed (R346). -/
theorem foldl_freeCtx_sound (ks : List Nat) (hs : Sound s) :
    Sound (ks.foldl (fun s k => if (s.ctx k).role == .supervisor then (s.freeCtx k).setCtx k {} else s) s) :=
  foldl_sound _ (fun _ h => sound_ite (State.setCtx_sound (State.freeCtx_sound h)) h) _ hs

/-- R346, R403, R416: cores are cleared: their work is killed, their stores zeroed. -/
theorem State.clearCores_sound (hs : Sound s) {f : Core → Core} {cores : List Nat} : Sound (s.clearCores f cores) := by
  unfold State.clearCores
  refine foldl_sound _ (fun c h => ?_) _ ?_
  · exact State.updCore_sound (State.zeroStores_sound _ h)
  · exact sound_of_mem (foldl_freeCtx_sound _ (State.dropWork_sound (State.killAll_sound hs))) rfl

theorem foldl_saveTiles_sound (cs : List Nat) (hs : Sound s) : Sound (cs.foldl State.saveTiles s) :=
  foldl_sound _ (fun _ h => State.saveTiles_sound _ h) cs hs

/-- The power of clusters is kept apart from the stores. -/
theorem sound_power (hs : Sound s) {p w : SMap Nat} {v : SMap Bool} : Sound { s with power := p, waking := w, saved := v } := hs

theorem State.offCluster_sound (hs : Sound s) {cl : Nat} {save : Bool} : Sound (s.offCluster cl save) :=
  sound_power (State.clearCores_sound (sound_ite (foldl_saveTiles_sound _ hs) hs))

theorem State.sleepCluster_sound (hs : Sound s) {cl p : Nat} : Sound (s.sleepCluster cl p) := by
  dsimp only [Sound, State.sleepCluster]
  refine foldl_sound _ (fun _ h => ?_) _ hs
  exact sound_ite h (State.haltFor_sound h)

theorem State.wakeCluster_sound (hs : Sound s) {cl : Nat} : Sound (s.wakeCluster cl) := sound_ite hs hs

theorem State.clusterRequest_sound (hs : Sound s) {cl target : Nat} {force : Bool} : Sound (s.clusterRequest cl target force).2 := by
  unfold State.clusterRequest
  dsimp only
  split
  · exact State.wakeCluster_sound hs
  · refine sound_ite_of (fun x : Nat × State => x.2) hs (sound_ite_of (fun x : Nat × State => x.2) hs ?_)
    refine sound_ite_of (fun x : Nat × State => x.2) ?_ (State.offCluster_sound hs)
    exact sound_ite_of (fun x : Nat × State => x.2) (State.offCluster_sound hs) hs
  · exact sound_ite_of (fun x : Nat × State => x.2) hs (State.sleepCluster_sound hs)

theorem State.powerReq_sound (hs : Sound s) {part g1 g2 g3 : Nat} : Sound (s.powerReq part g1 g2 g3).2 := by
  unfold State.powerReq
  dsimp only
  split
  · split
    · exact hs
    · exact State.stackRequest_sound hs
  · split
    · exact hs
    · exact State.clusterRequest_sound hs

theorem State.endCall_sound (hs : Sound s) {k st : Nat} : Sound (s.endCall k st) :=
  sound_ite hs (sound_ite (State.freeze_sound (by exact hs)) (State.reenter_sound (by exact hs)))

theorem State.setRoot_sound (hs : Sound s) {part pa : Nat} : Sound (s.setRoot part pa).2 := by
  unfold State.setRoot
  split
  · exact hs
  · exact sound_of_mem (s := s) hs (State.invalidateAll_mem _ _ _)

/-! #### Events of the issue stage, the matrix engine and the arrays -/

theorem State.deliverTrap_sound (hs : Sound s) {k : Nat} {t : Trap} : Sound (s.deliverTrap k t) := (s.deliverTrap_kept k t).sound hs

theorem execMonitorPowerCall_sound (hs : Sound s) {k : Nat} : SoundNext (execMonitorPowerCall k s) :=
  soundNext_ite (sound_next hs) (sound_next (State.endCall_sound (State.powerReq_sound hs)))

theorem execMonitorPageTableRootCall_sound (hs : Sound s) {k : Nat} : SoundNext (execMonitorPageTableRootCall k s) :=
  soundNext_ite (sound_next (State.endCall_sound (State.setRoot_sound hs))) (soundNext_ite (sound_next (State.endCall_sound hs)) (sound_next hs))

theorem execNextPrimaryChoice_sound (hs : Sound s) {core : Nat} : SoundNext (execNextPrimaryChoice core s) := by
  refine soundNext_ite (soundNext_fault _) (soundNext_ite ?_ (sound_next hs))
  split <;> exact sound_next hs

theorem execSyncEpisodeResume_sound (hs : Sound s) {line : Nat} : SoundNext (execSyncEpisodeResume line s) := by
  refine soundNext_ite (soundNext_fault _) ?_
  dsimp only
  split
  · exact soundNext_ite (sound_next hs) (sound_next (by exact foldl_sound _ (fun _ h => State.updCtx_sound h) _ hs))
  · exact sound_next hs

theorem execSyncTimeout_sound (hs : Sound s) {line : Nat} : SoundNext (execSyncTimeout line s) := by
  refine soundNext_ite (soundNext_fault _) (soundNext_ite (sound_next hs) (sound_next ?_))
  refine foldl_sound (fun (s : State) (a : Nat × Bool × Nat) => if (s.ctx a.1).frozen.isSome then s.updCtx a.1 (fun c => { c with syncTo := some line })
    else (s.atBundle a.1).deliverTrap a.1 { ord := 6, widx := 0, cause := causeSync, tval := BitVec.ofNat 64 line }) (fun _ h => ?_) _ hs
  exact sound_ite (State.updCtx_sound h) (State.deliverTrap_sound (by exact h))

theorem execWatchdogExpiry_sound (hs : Sound s) {k : Nat} : SoundNext (execWatchdogExpiry k s) :=
  soundNext_ite (sound_next (State.deliverTrap_sound (by exact hs))) (sound_next hs)

theorem execStreamingCommandCompletion_sound (hs : Sound s) {id : Nat} : SoundNext (execStreamingCommandCompletion id s) := by
  unfold execStreamingCommandCompletion
  split
  · split
    · refine soundNext_ite (sound_next ?_) (sound_next hs)
      split
      · exact State.completeStream_sound _ (State.sampleStream_sound hs)
      · exact State.sampleStream_sound hs
    · exact sound_next hs
  · exact sound_next hs

theorem execLogMatrixCommandStart_sound (hs : Sound s) {core : Nat} : SoundNext (execLogMatrixCommandStart core s) := by
  refine soundNext_ite (soundNext_fault _) ?_
  split
  · exact sound_next (sound_ite hs hs)
  · exact sound_next hs

theorem execOperandFetchDone_sound (hs : Sound s) {id : Nat} : SoundNext (execOperandFetchDone id s) := by
  unfold execOperandFetchDone
  split
  · exact sound_next (sound_ite hs hs)
  · exact sound_next hs

theorem execLogMatrixCommandCompletion_sound (hs : Sound s) {id : Nat} : SoundNext (execLogMatrixCommandCompletion id s) := by
  unfold execLogMatrixCommandCompletion
  split
  · exact sound_next (sound_ite (State.complete_sound _ hs) hs)
  · exact sound_next hs

theorem execAdcGroupCommandStart_sound (hs : Sound s) {core grp : Nat} : SoundNext (execAdcGroupCommandStart core grp s) := by
  refine soundNext_ite (soundNext_fault _) (sound_next (sound_ite ?_ hs))
  split <;> exact hs

theorem execReadLatencyExpiry_sound (hs : Sound s) {id entry : Nat} : SoundNext (execReadLatencyExpiry id entry s) := by
  unfold execReadLatencyExpiry
  split <;> exact sound_next hs

theorem execArrayCommandCompletion_sound (hs : Sound s) {id entry : Nat} : SoundNext (execArrayCommandCompletion id entry s) := by
  unfold execArrayCommandCompletion
  split
  · split
    · refine soundNext_ite (sound_next ?_) (sound_next hs)
      have hf : ∀ {f : Cmd → Cmd}, Sound ((s.flush id).updCmd id f) := State.updCmd_sound (State.flush_sound _ hs)
      split
      · exact sound_ite (State.complete_sound _ hf) hf
      · exact hf
    · exact sound_next hs
  · exact sound_next hs

theorem execOperandBufferFillStart_sound (hs : Sound s) {id : Nat} : SoundNext (execOperandBufferFillStart id s) := by
  unfold execOperandBufferFillStart
  split
  · split
    · exact sound_next (sound_ite hs hs)
    · exact sound_next hs
  · exact sound_next hs

/-! #### Copies and moves of contexts -/

theorem State.spot_sound (hs : Sound s) {core space a n : Nat} {rd wr : Bool} : Sound (s.spot core space a n rd wr).2 :=
  sound_of_mem hs (s.spot_mem core space a n rd wr)

theorem State.spots_sound (hs : Sound s) {core space n k a : Nat} {rd wr : Bool} : Sound (s.spots core space n rd wr k a).2 :=
  sound_of_mem hs (State.spots_mem core space n rd wr k s a)

/-- R254: a merge reads both records whole before it writes one. -/
theorem State.mergeUnit_sound (hs : Sound s) {c : Cmd} {r : CopyRec} {sa da j : Nat} : Sound (s.mergeUnit c r sa da j) := by
  unfold State.mergeUnit
  have h1 : Sound (s.spot c.core r.sspc sa 1 true false).2 := State.spot_sound hs
  dsimp only
  split <;> rename_i heq <;> rw [heq] at h1
  · exact State.updCmd_sound h1
  · exact h1
  · exact State.updCmd_sound (State.markElems_sound _ _ _ h1)
  · rename_i p t _ _ _
    have h2 := State.getSpot_sound p 1 h1
    split
    · exact State.updCmd_sound h2
    · rename_i n _
      have h3 := State.spot_sound (State.spot_sound h2 (core := c.core) (space := r.sspc) (a := sa) (n := n) (rd := true) (wr := false))
        (core := c.core) (space := r.dspc) (a := da) (n := n) (rd := true) (wr := true)
      refine sound_ite (State.updCmd_sound h2) ?_
      split
      · exact State.updCmd_sound h3
      · refine sound_ite h3 (sound_ite (State.updCmd_sound (State.markElems_sound _ _ _ h3)) ?_)
        have h4 := fun (p q : Spot) => State.getSpot_sound q n (State.getSpot_sound p n h3)
        split
        · exact State.updCmd_sound (h4 _ _)
        · exact State.updCmd_sound (State.putSpot_sound _ _ _ (h4 _ _))

theorem State.planUnits_sound {core sf df sa da : Nat} {r : CopyRec} : ∀ (n u : Nat) {s : State}, Sound s →
    Sound (s.planUnits core r sf df sa da u n).2.2
  | 0, _, _, hs => by unfold State.planUnits; exact hs
  | n + 1, u, s, hs => by
    unfold State.planUnits
    have h : ∀ {k₁ n₁ a₁ k₂ n₂ a₂ : Nat} {b₁ b₂ : Bool}, Sound ((s.spots core r.sspc n₁ true false k₁ a₁).2.spots core r.dspc n₂ b₁ b₂ k₂ a₂).2 :=
      State.spots_sound (State.spots_sound hs)
    refine sound_ite_of (fun x : List UnitMove × Bool × State => x.2.2) h (sound_ite_of (fun x : List UnitMove × Bool × State => x.2.2) h ?_)
    exact State.planUnits_sound n (u + 1) h

theorem State.readUnits_sound (n : Nat) : ∀ (us : List UnitMove) {s : State}, Sound s → Sound (s.readUnits n us).2
  | [], _, hs => hs
  | u :: us, _, hs => State.readUnits_sound n us (State.getSpots_sound n u.src hs)

theorem State.writePieces_sound {c : Cmd} {r : CopyRec} {sf df : Nat} {bs : List Byte} {cov : List (Nat × Nat)} : ∀ (ps : List Spot) (i : Nat) {s : State},
    Sound s → Sound (s.writePieces c r sf df bs cov i ps)
  | [], _, _, hs => hs
  | p :: ps, i, s, hs => by
    have hg : ∀ (n : Nat), Sound (if r.op = 0 then (([] : List Byte), s) else s.getSpot p n).2 := fun n =>
      sound_ite_of (fun x : List Byte × State => x.2) hs (State.getSpot_sound p n hs)
    unfold State.writePieces
    dsimp only
    split
    · exact hs
    · exact State.writePieces_sound ps (i + 1) (State.putSpot_sound _ _ _ (hg _))

theorem State.finishUnit_sound (hs : Sound s) {c : Cmd} {r : CopyRec} {sf df j : Nat} {u : UnitMove} : Sound (s.finishUnit c r sf df j u) :=
  State.updCmd_sound (sound_ite (State.markElems_sound _ _ _ hs) (State.writePieces_sound _ _ (State.markElems_sound _ _ _ hs)))

theorem State.finishUnits_sound {c : Cmd} {r : CopyRec} {sf df : Nat} : ∀ (us : List UnitMove) (j : Nat) {s : State},
    Sound s → Sound (s.finishUnits c r sf df us j)
  | [], _, _, hs => hs
  | _ :: us, _, _, hs => State.finishUnits_sound us _ (State.finishUnit_sound hs)

theorem State.copySome_sound (hs : Sound s) {id n : Nat} : Sound (s.copySome id n) := by
  unfold State.copySome
  split
  · split
    · refine sound_ite hs (sound_ite (State.mergeUnit_sound hs) ?_)
      have h := fun (c r sf df sa da u n) => State.planUnits_sound (core := c) (r := r) (sf := sf) (df := df) (sa := sa) (da := da) n u hs
      exact sound_ite (h ..) (State.finishUnits_sound _ _ (State.readUnits_sound _ _ (h ..)))
    · exact hs
  · exact hs

theorem State.copyRest_sound {id : Nat} : ∀ (n : Nat) {s : State}, Sound s → Sound (s.copyRest id n)
  | 0, _, hs => hs
  | n + 1, _, hs => State.copyRest_sound n (State.copySome_sound hs)

theorem copyDone_sound (hs : Sound s) {id : Nat} : SoundNext (copyDone id s) := by
  unfold copyDone
  split
  · split
    · refine soundNext_ite (sound_next hs) (sound_next ?_)
      split
      · exact sound_ite (State.copyRest_sound _ hs) (State.filled_sound (State.complete_sound _ (State.copyRest_sound _ hs)))
      · exact State.copyRest_sound _ hs
    · exact sound_next hs
  · exact sound_next hs

theorem State.reissue_sound {k : Nat} : ∀ (cs : List Cmd) (ids : List (Nat × Nat)) {s : State}, Sound s → Sound (s.reissue k ids cs)
  | [], _, _, hs => hs
  | _ :: cs, _, _, hs => State.reissue_sound cs _ (by exact hs)

theorem releaseIf_sound (hs : Sound s) {b : Bool} {k reason : Nat} : Sound (if b then s.releaseFor k reason else s) :=
  sound_ite (State.releaseFor_sound hs) hs

/-- R392: a context's block is placed without a byte of the store. -/
theorem State.loadContext_sound (hs : Sound s) {k : Nat} {b : List Byte} {run : Bool} : Sound (s.loadContext k b run) :=
  releaseIf_sound (State.updCtx_sound (sound_ite (by exact hs) (State.reissue_sound _ _ (by exact hs))))

theorem State.partIn_loaded_sound (hs : Sound s) {part core h : Nat} {run : Bool} {b : List Byte} : Sound (s.partIn part core h run b) :=
  State.partIn_sound _ _ _ _ _ hs (State.loadContext_sound hs)

theorem State.loaded_sound (hs : Sound s) {part core h : Nat} {run whole : Bool} {b : List Byte} : Sound (s.loaded part core h run whole b) :=
  sound_ite (sound_ite (State.partIn_loaded_sound hs) hs) (sound_ite (State.partIn_loaded_sound hs) (State.partIn_loaded_sound hs))

theorem State.relContext_sound (hs : Sound s) {k id : Nat} : Sound (s.relContext k id) := State.endPmt_sound hs

/-- R392: the chunks a load reads leave a store in canonical form. -/
theorem State.readChunks_sound {core sz : Nat} : ∀ (n va : Nat) {s : State} {r : List Byte × Bool × Option Nat × State},
    Sound s → s.readChunks core sz n va = some r → Sound r.2.2.2
  | 0, _, _, _, hs, hr => by cases hr; exact hs
  | n + 1, va, s, r, hs, hr => by
    unfold State.readChunks at hr
    have h := State.spot_sound hs (core := core) (space := 1) (a := va) (n := sz) (rd := true) (wr := false)
    dsimp only at hr
    split at hr <;> rename_i heq <;> rw [heq] at h
    · cases hr; exact h
    · cases hr
    · obtain ⟨x, hx, rfl⟩ := Option.map_eq_some_iff.mp hr
      have hg : Sound x.2.2.2 := State.readChunks_sound n _ (State.getSpot_sound _ _ h) hx
      exact hg

/-- R392: the chunks a save writes, whole or to a fault, leave a store in canonical form. -/
theorem State.writeChunks_sound {core : Nat} : ∀ (bs : List (List Byte)) (va : Nat) (nr : Bool) {s : State}, Sound s →
    (∀ x, s.writeChunks core bs va nr = .next x → Sound x.2) ∧ (∀ x, s.writeChunks core bs va nr = .fault x → Sound x.2)
  | [], _, _, _, hs => ⟨fun _ e => by cases e; exact hs, fun _ e => (nomatch e)⟩
  | b :: bs, va, nr, s, hs => by
    unfold State.writeChunks
    have h := State.spot_sound hs (core := core) (space := 1) (a := va) (n := b.length) (rd := false) (wr := true)
    split <;> rename_i heq <;> rw [heq] at h
    · exact ⟨fun _ e => (nomatch e), fun _ e => by cases e; exact h⟩
    · exact ⟨fun _ e => (nomatch e), fun _ e => (nomatch e)⟩
    · exact State.writeChunks_sound bs _ _ (State.putSpot_sound _ _ _ h)

theorem dropIf_sound (hs : Sound s) {b : Bool} {k : Nat} : Sound (if b then s.setCtx k {} else s) := sound_ite hs hs

theorem moveDone_sound (hs : Sound s) {id : Nat} {c : Cmd} {load : Bool} {part core h va : Nat} {opt : Bool} :
    SoundNext (moveDone id c load part core h va opt s) := by
  unfold moveDone
  refine soundNext_ite (sound_next hs) (soundNext_ite ?_ ?_)
  · split
    · exact sound_next hs
    · rename_i heq
      have hr := State.readChunks_sound _ _ hs heq
      exact sound_next (dropIf_sound (State.updCmd_sound (State.loaded_sound hr)))
    · rename_i heq
      have hr := State.readChunks_sound _ _ hs heq
      refine soundNext_ite (sound_next (State.complete_sound _ (dropIf_sound (State.updCmd_sound (State.loaded_sound hr))))) ?_
      exact soundNext_ite (sound_next (State.complete_sound _ (dropIf_sound (State.updCmd_sound hr)))) (sound_next (State.complete_sound _ (State.loaded_sound hr)))
  · dsimp only
    split
    · exact sound_next hs
    · rename_i heq
      have hw := (State.writeChunks_sound _ _ _ (by exact hs)).2 _ heq
      exact sound_next (dropIf_sound (State.updCmd_sound hw))
    · rename_i heq
      have hw := (State.writeChunks_sound _ _ _ (by exact hs)).1 _ heq
      refine soundNext_ite (sound_next (State.complete_sound _ (State.updCmd_sound hw))) ?_
      refine soundNext_ite (sound_next (State.complete_sound _ hw)) (sound_next (State.complete_sound _ ?_))
      exact sound_ite (State.relContext_sound (by exact hw)) hw

theorem execCopyCompletion_sound (hs : Sound s) {id : Nat} : SoundNext (execCopyCompletion id s) := by
  unfold execCopyCompletion
  split
  · split
    · exact moveDone_sound hs
    · exact copyDone_sound hs
  · exact sound_next hs

theorem State.filledBy_sound (hs : Sound s) {c : Cmd} : Sound (s.filledBy c) := by
  unfold State.filledBy
  split
  · exact State.filled_sound hs
  · exact hs

theorem execEngineTranslationFault_sound (hs : Sound s) {id : Nat} : SoundNext (execEngineTranslationFault id s) := by
  unfold execEngineTranslationFault
  split
  · split
    · refine soundNext_ite (sound_next hs) (sound_next (sound_ite hs (State.filledBy_sound (State.complete_sound _ ?_))))
      exact hs
    · exact sound_next hs
  · exact sound_next hs

/-! #### Words that are released, drains, waits -/

theorem performQExit_sound (hs : Sound s) {f : TQ} {v : W64} {recs : List (List Byte)} : Sound (performQExit f v recs s) := State.exitRun_sound hs

/-- R118: a word that is released acts as it would have at issue. -/
theorem State.performWord_sound (hs : Sound s) {i : Instr} {v : W64} {recs : List (List Byte)} {iss : Iss} : Sound (s.performWord i v recs iss) := by
  have h : Sound { s with iss := iss } := hs
  unfold State.performWord
  generalize ({ s with iss := iss } : State) = t at h
  cases i with
  | tMm f | tMmg f => exact performProduct_sound h
  | tLdb f | tZclr f | tZld f | tZst f | tZadd f => exact performMove_sound h
  | tCop f => exact performTCop_sound h
  | aFwd f | aBwd f | aUpd f | aXfer f | aSymw f | aSymr f | aProg f | aCkpt f => exact performA_sound h
  | aGfwd f | aGbwd f | aGupd f => exact performGrouped_sound h
  | aSeed f => exact State.acceptA_sound h
  | aScl f => exact performAScl_sound h
  | aStat f => exact performAStat_sound h
  | qCopy f => exact performQCopy_sound h
  | qSortc f => exact performQSortc_sound h
  | qPut f => exact performQPut_sound h
  | qPgreq f => exact performQPgreq_sound h
  | qLaunch f => exact performQLaunch_sound h
  | qGlaunch f => exact performQGlaunch_sound h
  | qExit f => exact performQExit_sound h
  | qCancel f => exact performQCancel_sound h
  | qHset f => exact performQHset_sound h
  | qCarm f => exact performQCarm_sound h
  | qCtrig f => exact performQCtrig_sound h
  | _ => exact h

theorem State.release_sound (hs : Sound s) {k : Nat} {x : Held} : Sound (s.release k x) := by
  cases x with
  | store a n v => exact State.performStore_sound _ _ _ _ hs
  | access m => exact sound_ite hs (State.send_sound _ hs)
  | stream id => exact hs
  | word i v rs sec at_ => exact State.updCtx_sound (State.performWord_sound hs)
  | note => exact hs
  | yield => exact hs

theorem State.releaseAll_sound {k : Nat} : ∀ (hs : List Held) {s : State}, Sound s → Sound (State.releaseAll k hs s)
  | [], _, h => h
  | _ :: hs, _, h => sound_ite (State.updCtx_sound (foldl_sound _ (fun _ h => State.release_sound h) _ h))
      (State.releaseAll_sound hs (State.release_sound h))

theorem State.goOn_sound (hs : Sound s) {k : Nat} : Sound (s.goOn k) := State.releaseAll_sound _ (State.updCtx_sound hs)

theorem State.posted_sound (hs : Sound s) {e : PendEv} : Sound (s.posted e) := by
  unfold State.posted
  split
  · exact sound_ite (State.goOn_sound (State.updCtx_sound hs)) hs
  · exact hs

theorem execEngineEventPost_sound (hs : Sound s) {die : Nat} : SoundNext (execEngineEventPost die s) := by
  refine soundNext_ite (soundNext_fault _) (soundNext_ite ?_ ?_) <;> split
  · exact soundNext_ite (sound_next (State.posted_sound (by exact hs))) (sound_next hs)
  · exact sound_next hs
  · exact soundNext_ite (sound_next (State.posted_sound (by exact hs))) (sound_next hs)
  · exact sound_next hs

/-- R209: a sort samples its keys once. -/
theorem State.sortSample_sound (hs : Sound s) {id : Nat} : Sound (s.sortSample id) := by
  unfold State.sortSample
  split
  · split
    · refine sound_ite hs (State.updCmd_sound (sound_of_mem ?_ (State.publish_mem _ _ _)))
      exact sound_ite_of (fun x : List Byte × State => x.2) (State.engineRead_sound _ _ _ (State.engineRead_sound _ _ _ hs)) (State.engineRead_sound _ _ _ hs)
    · exact hs
  · exact hs

theorem execSortCompletion_sound (hs : Sound s) {id : Nat} : SoundNext (execSortCompletion id s) := by
  unfold execSortCompletion
  split
  · split
    · exact sound_next (sound_ite (State.complete_sound _ (State.sortSample_sound hs)) hs)
    · exact sound_next hs
  · exact sound_next hs

/-- R391: the end of a frame kills or resumes what trapped, or ends the command whose event it was. -/
theorem State.endFrame_sound (hs : Sound s) {k md : Nat} : Sound (s.endFrame k md) := by
  unfold State.endFrame
  split
  · exact hs
  · refine sound_ite (sound_ite hs (sound_ite (State.killRun_sound (State.updCtx_sound hs)) (sound_ite hs hs))) (sound_ite ?_ hs)
    split
    · exact State.complete_sound _ (State.updCmd_sound (State.updCtx_sound hs))
    · exact hs

theorem execDrainCompletion_sound (hs : Sound s) {k : Nat} : SoundNext (execDrainCompletion k s) := by
  have h : Sound ((s.endDrain k).goOn k) := State.goOn_sound (by exact hs)
  unfold execDrainCompletion
  dsimp only
  split
  · refine soundNext_ite (sound_next hs) (sound_next ?_)
    split
    · exact State.endFrame_sound (State.updCtx_sound h)
    · exact h
  · exact sound_next hs

theorem execFenceCompletion_sound (hs : Sound s) {k : Nat} : SoundNext (execFenceCompletion k s) := by
  unfold execFenceCompletion
  split
  · exact soundNext_ite (sound_next (State.goOn_sound (by exact hs))) (sound_next hs)
  · exact sound_next hs

theorem execTokenWaitCompletion_sound (hs : Sound s) {k : Nat} : SoundNext (execTokenWaitCompletion k s) := by
  unfold execTokenWaitCompletion
  dsimp only
  split
  · exact soundNext_ite (sound_next hs) (sound_next (State.goOn_sound (State.setCtx_sound hs)))
  · exact sound_next hs

theorem execTlbInvalidationCompletion_sound (hs : Sound s) {id : Nat} : SoundNext (execTlbInvalidationCompletion id s) := by
  unfold execTlbInvalidationCompletion
  split
  · split
    · exact sound_next (State.complete_sound _ (sound_of_mem hs (State.invalidateAll_mem _ _ _)))
    · exact sound_next hs
  · exact sound_next hs

/-! #### Accesses on their way -/

theorem State.updMsg_sound (hs : Sound s) {id : Nat} {f : Msg → Msg} : Sound (s.updMsg id f) := hs
theorem State.dropMsg_sound (hs : Sound s) {id : Nat} : Sound (s.dropMsg id) := hs

theorem State.onward_sound (hs : Sound s) {m : Msg} {d : Nat} : Sound (s.onward m d) := by
  unfold State.onward
  dsimp only
  split
  · exact hs
  · exact sound_ite hs hs

theorem State.respond_sound (hs : Sound s) {m : Msg} : Sound (s.respond m) :=
  sound_ite (State.onward_sound (State.updMsg_sound hs)) (State.updMsg_sound hs)

/-- R81: an access performs at its target. -/
theorem execRemoteAccessAtTarget_sound (hs : Sound s) {id : Nat} : SoundNext (execRemoteAccessAtTarget id s) := by
  unfold execRemoteAccessAtTarget
  split
  · split
    · exact sound_next hs
    · exact soundNext_ite (sound_next (State.respond_sound (State.performLocal_sound _ _ _ (State.touch_sound _ _ hs)))) (sound_next hs)
  · exact sound_next hs

theorem State.overflow_sound (hs : Sound s) {m : Msg} : Sound (s.overflow m) := sound_ite hs hs

theorem execStageAcknowledgement_sound (hs : Sound s) {id : Nat} : SoundNext (execStageAcknowledgement id s) := by
  unfold execStageAcknowledgement
  split
  · refine soundNext_ite (sound_next (by exact hs)) (soundNext_ite ?_ (soundNext_ite ?_ (soundNext_ite (sound_next hs) ?_)))
    · refine soundNext_ite (sound_next (sound_ite hs (State.onward_sound hs))) (soundNext_ite (sound_next ?_) (sound_next hs))
      exact sound_ite (State.dropMsg_sound (State.overflow_sound hs)) (by exact hs)
    · exact sound_next (sound_ite hs (State.onward_sound hs))
    · split
      · exact sound_next (by exact hs)
      · exact sound_next (by exact hs)
      · exact sound_next (State.onward_sound (by exact hs))
  · exact sound_next hs

theorem execRemoteResponseArrival_sound (hs : Sound s) {id : Nat} : SoundNext (execRemoteResponseArrival id s) := by
  unfold execRemoteResponseArrival
  split
  · refine soundNext_ite (soundNext_ite (sound_next (by exact hs)) (soundNext_ite (sound_next hs) ?_)) (sound_next hs)
    exact soundNext_ite (sound_next (sound_of_mem hs (State.observe_mem _ _ _ _))) (sound_next (by exact hs))
  · exact sound_next hs

theorem State.startHandler_sound (hs : Sound s) {k : Nat} {x : Arrival} : Sound (s.startHandler k x) := hs

/-- R31, R85: the payload of an `m.sth` performs when its handler is found, started or queued, unless it has performed before. -/
theorem sthPayload_sound (hs : Sound s) {m : Msg} : Sound (if m.paid then (s, m) else s.performLocal m s.mem (fun _ => 0)).1 :=
  sound_ite_of (fun x : State × Msg => x.1) hs (State.performLocal_sound _ _ _ hs)

theorem execHandlerArrival_sound (hs : Sound s) {id : Nat} : SoundNext (execHandlerArrival id s) := by
  unfold execHandlerArrival
  split
  · split
    · refine soundNext_ite (sound_next hs) (soundNext_ite ?_ (soundNext_ite ?_ (soundNext_ite ?_ ?_)))
      · exact sound_next (State.respond_sound (sthPayload_sound hs))
      · refine sound_next ?_
        split
        · exact State.startHandler_sound (State.respond_sound (sthPayload_sound hs))
        · exact State.respond_sound (sthPayload_sound hs)
      · exact sound_next (State.updCore_sound (State.respond_sound (sthPayload_sound hs)))
      · exact sound_next (by exact hs)
    · exact sound_next hs
  · exact sound_next hs

theorem execHandlerQueueStart_sound (hs : Sound s) {core : Nat} : SoundNext (execHandlerQueueStart core s) := by
  unfold execHandlerQueueStart
  split
  · split
    · exact sound_next (State.startHandler_sound (State.updCore_sound hs))
    · exact sound_next hs
  · exact sound_next hs

theorem execPipeSpaceFreed_sound (hs : Sound s) {k : Nat} : SoundNext (execPipeSpaceFreed k s) := by
  unfold execPipeSpaceFreed
  split
  · split
    · rename_i heq
      exact sound_next (State.goOn_sound (State.updCtx_sound (State.tryPut_sound hs heq)))
    · exact sound_next hs
  · exact sound_next hs

/-! #### Units: completion, transfer, dispatch, claims -/

theorem State.changeUnit_sound (hs : Sound s) {uid : Nat} {f : Unit → Unit} : Sound (s.changeUnit uid f) := by
  unfold State.changeUnit
  split
  · exact sound_ite (State.updUnit_sound hs) (State.writeUnitRecord_sound _ (State.updUnit_sound hs))
  · exact hs

theorem State.countUnit_sound (hs : Sound s) {u : Unit} : Sound (s.countUnit u) :=
  State.settle_sound _ _ (State.updLevel_sound (by exact State.changeUnit_sound hs))

theorem State.endRoutine_sound (hs : Sound s) {uid k : Nat} : Sound (s.endRoutine uid k) :=
  State.updUnit_sound (State.freeCtx_sound (by exact foldl_sound State.freeCtx (fun _ h => State.freeCtx_sound h) _ hs))

theorem execUnitCompletion_sound (hs : Sound s) {uid : Nat} : SoundNext (execUnitCompletion uid s) := by
  unfold execUnitCompletion
  split
  · rename_i u _
    have h : Sound ((u.open_.filter s.routineDone).foldl (fun s k => s.endRoutine uid k) s) := foldl_sound _ (fun _ h => State.endRoutine_sound h) _ hs
    refine soundNext_ite (sound_next hs) (sound_next ?_)
    split
    · exact sound_ite h (sound_ite (State.countUnit_sound h) (State.updUnit_sound h))
    · exact h
  · exact sound_next hs

theorem State.cancelUnit_sound (hs : Sound s) {u : Unit} : Sound (s.cancelUnit u) :=
  State.settle_sound _ _ (State.updLevel_sound
    (by exact foldl_sound State.freeCtx (fun _ h => State.freeCtx_sound h) u.keys (State.changeUnit_sound hs)))

theorem execUnitTransfer_sound (hs : Sound s) {uid : Nat} : SoundNext (execUnitTransfer uid s) := by
  unfold execUnitTransfer
  split
  · exact soundNext_ite (sound_next hs) (soundNext_ite (sound_next (State.cancelUnit_sound hs)) (sound_next (State.updUnit_sound hs)))
  · exact sound_next hs

theorem execCompletionCountArrival_sound (hs : Sound s) {uid : Nat} : SoundNext (execCompletionCountArrival uid s) := by
  unfold execCompletionCountArrival
  split
  · exact soundNext_ite (sound_next (State.countUnit_sound hs)) (sound_next hs)
  · exact sound_next hs

theorem execImageDataLoad_sound (hs : Sound s) {core : Nat} : SoundNext (execImageDataLoad core s) := by
  refine soundNext_ite (soundNext_fault _) ?_
  split
  · exact soundNext_ite (sound_next hs) (sound_next (State.updCore_sound (State.writeImageData_sound _ _ hs)))
  · split <;> exact sound_next hs

theorem foldl_setCtx_sound (hs : Sound s) {ks : List Nat} {c : Ctx} {g : Nat → Nat} : Sound (ks.foldl (fun s k => s.setCtx (g k) c) s) :=
  foldl_sound _ (fun _ h => State.setCtx_sound h) _ hs

theorem State.startRoutine_sound (hs : Sound s) {u : Unit} {l : Level} {cores : List Nat} {stolen : Bool} {x : Nat × Task × List Nat} :
    Sound (s.startRoutine u l cores stolen x) := by
  unfold State.startRoutine
  dsimp only
  split
  · exact hs
  · exact State.updCore_sound (foldl_setCtx_sound (State.setCtx_sound hs) (g := id))

theorem State.bindPipes_sound (hs : Sound s) {u : Unit} {l : Level} {ks : List Nat} : Sound (s.bindPipes u l ks) := sound_ite hs hs
theorem State.untake_sound (hs : Sound s) {u : Unit} : Sound (s.untake u) := hs

/-- R358: a dispatch writes the unit's record. -/
theorem State.dispatch_sound (hs : Sound s) {u : Unit} {owner : Nat} {stolen : Bool} {ps : List (Nat × Task × List Nat)} :
    Sound (s.dispatch u owner stolen ps) := by
  unfold State.dispatch
  split
  · exact hs
  · exact State.changeUnit_sound (State.untake_sound (State.bindPipes_sound (foldl_sound _ (fun _ h => State.startRoutine_sound h) _ hs)))

theorem State.updDie_sound (hs : Sound s) {d : Nat} {f : Die → Die} : Sound (s.updDie d f) := hs

theorem execDispatchDecision_sound (hs : Sound s) {core : Nat} : SoundNext (execDispatchDecision core s) := by
  refine soundNext_ite (soundNext_fault _) ?_
  split
  · split
    · exact sound_next (State.updDie_sound (State.dispatch_sound hs))
    · exact sound_next hs
  · exact sound_next hs

theorem State.reserveUnit_sound (hs : Sound s) {u : Unit} : Sound (s.reserveUnit u) := by
  unfold State.reserveUnit
  split
  · exact hs
  · exact sound_ite hs (State.updUnit_sound (foldl_setCtx_sound (foldl_sound State.freeCtx (fun _ h => State.freeCtx_sound h) _ hs) (g := id)))

theorem State.updLine_sound (hs : Sound s) {l : Nat} {f : Line → Line} : Sound (s.updLine l f) := hs

theorem State.dispatchSync_sound (hs : Sound s) {l : Level} {line : Nat} {us : List Unit} : Sound (s.dispatchSync l line us) :=
  State.updLine_sound (foldl_sound _ (fun _ h => State.dispatch_sound h) _ hs)

theorem execSyncLaunchDispatch_sound (hs : Sound s) {handle : Nat} : SoundNext (execSyncLaunchDispatch handle s) := by
  unfold execSyncLaunchDispatch
  split
  · split
    · have h : ∀ (us : List Unit), Sound (us.foldl State.reserveUnit s) := fun us => foldl_sound _ (fun _ h => State.reserveUnit_sound h) us hs
      refine soundNext_ite (sound_next hs) (soundNext_ite (sound_next (h _)) ?_)
      split
      · exact sound_next (State.updLevel_sound (by exact h _))
      · exact soundNext_ite (sound_next (State.dispatchSync_sound (h _))) (sound_next (h _))
    · exact sound_next hs
  · exact sound_next hs

theorem State.noteClaim_sound (hs : Sound s) {core code : Nat} : Sound (s.noteClaim core code) := hs

theorem execStealClaim_sound (hs : Sound s) {core : Nat} : SoundNext (execStealClaim core s) := by
  refine soundNext_ite (soundNext_fault _) (soundNext_ite (sound_next hs) ?_)
  split
  · exact sound_next hs
  · refine soundNext_ite (sound_next (State.noteClaim_sound hs)) (soundNext_ite (sound_next hs) ?_)
    split
    · exact sound_next hs
    · refine soundNext_ite (soundNext_ite (sound_next (State.updCore_sound hs)) (sound_next (State.noteClaim_sound hs))) ?_
      split
      · exact sound_next (State.noteClaim_sound (State.dispatch_sound hs))
      · exact sound_next hs

theorem execCancelArrival_sound (hs : Sound s) {die handle : Nat} : SoundNext (execCancelArrival die handle s) :=
  soundNext_ite (soundNext_fault _) (soundNext_ite (sound_next hs)
    (sound_next (by exact foldl_sound State.cancelUnit (fun _ h => State.cancelUnit_sound h) _ hs)))

/-! #### Jobs and phases -/

theorem State.refuseJob_sound (hs : Sound s) {part cdone : Nat} : Sound (s.refuseJob part cdone) := State.virtWrite_sound hs

theorem State.putPacket_sound (hs : Sound s) {vc id d n : Nat} {rsp : Bool} : Sound (s.putPacket vc rsp id d n) := hs

theorem State.tokenOn_sound (hs : Sound s) {m : MbMove} {d : Nat} : Sound (s.tokenOn m d) := by
  refine sound_ite hs (sound_ite hs ?_)
  split
  · exact hs
  · exact sound_ite hs (State.putPacket_sound (by exact hs))

theorem State.sendToken_sound (hs : Sound s) {src die : Nat} {t : MbToken} : Sound (s.sendToken src die t) := State.tokenOn_sound (by exact hs)

/-- R27: a job that starts installs its image. -/
theorem State.startJob_sound (hs : Sound s) {part : Nat} {b : List Byte} : Sound (s.startJob part b) := by
  refine sound_ite (State.refuseJob_sound hs) ?_
  split
  · dsimp only
    split
    · refine sound_ite (State.refuseJob_sound hs) (foldl_sound _ (fun _ h => State.sendToken_sound h) _ ?_)
      generalize hz : s.installImage _ _ = z
      have h : Sound z.2 := hz ▸ State.installImage_sound _ _ hs
      exact h
    · exact State.refuseJob_sound hs
  · exact State.refuseJob_sound hs

theorem execJobStart_sound (hs : Sound s) {part : Nat} {addr : W64} : SoundNext (execJobStart part addr s) := by
  unfold execJobStart
  split
  · exact sound_next (State.startJob_sound hs)
  · exact sound_next hs

theorem execMicroBatchTokenArrival_sound (hs : Sound s) {die : Nat} {t : W64} : SoundNext (execMicroBatchTokenArrival die t s) :=
  soundNext_ite (soundNext_fault _) (soundNext_ite (sound_next hs) (sound_next (State.updDie_sound (by exact hs))))

theorem State.phaseLaunches_sound {die part img phase lrec : Nat} : ∀ (n i : Nat) {s : State}, Sound s → Sound (s.phaseLaunches die part img phase lrec n i)
  | 0, _, _, hs => hs
  | n + 1, i, s, hs => by
    have h : ∀ b : List Byte, Sound (if (s.die die).failed then (5, 0, s) else s.createLaunch die part img phase false [] b).2.2 := fun b =>
      sound_ite_of (fun x : Nat × Nat × State => x.2.2) hs (State.createLaunch_sound hs)
    unfold State.phaseLaunches
    dsimp only
    split <;> rename_i heq <;> have h' := heq ▸ h _
    · exact State.phaseLaunches_sound n _ (State.settle_sound _ _ h')
    · exact State.phaseLaunches_sound n _ (State.updLevel_sound h')

theorem State.fetched_sound (hs : Sound s) {die lrec : Nat} {l : Level} : Sound (s.fetched die l lrec) := by
  refine sound_ite (State.updLevel_sound (State.updLevel_sound hs)) (sound_ite (State.phaseLaunches_sound _ _ (State.updLevel_sound hs)) (sound_ite hs ?_))
  split
  · exact sound_ite hs (State.phaseLaunches_sound _ _ (State.updLevel_sound (State.updDie_sound (by exact hs))))
  · exact State.phaseLaunches_sound _ _ (State.updLevel_sound hs)

theorem State.slack_sound (hs : Sound s) {own : List Nat} : Sound (s.slack own).2 := sound_ite_of (fun x : Nat × State => x.2) hs hs

theorem execPhaseStart_sound (hs : Sound s) {die : Nat} : SoundNext (execPhaseStart die s) := by
  refine soundNext_ite (soundNext_fault _) ?_
  have h : Sound ((s.fetches die).foldl (fun s x => s.fetched die x.1 x.2) s) := foldl_sound _ (fun _ h => State.fetched_sound h) _ hs
  dsimp only
  split
  · exact sound_next h
  · refine soundNext_ite (sound_next h) ?_
    split
    · exact sound_next (State.updDie_sound h)
    · refine sound_next ?_
      exact sound_ite_of (fun x : Nat × State => x.2) (State.slack_sound (by exact h)) (by exact h)

theorem execPhaseCompletion_sound (hs : Sound s) {handle : Nat} : SoundNext (execPhaseCompletion handle s) := by
  unfold execPhaseCompletion
  split
  · refine soundNext_ite (sound_next hs) (sound_next (State.settleJob_sound ?_))
    have h : ∀ {p : Nat} {f : Level → Level}, Sound (s.updLevel p f) := State.updLevel_sound hs
    refine sound_ite h ?_
    split
    · exact State.sendToken_sound h
    · exact h
  · exact sound_next hs

/-! #### Collectives -/

/-- A fold over results that hold a state. -/
theorem foldl_sound_of {α β : Type} (p : β → State) (f : β → α → β) (hf : ∀ b x, Sound (p b) → Sound (p (f b x))) :
    ∀ (l : List α) {b : β}, Sound (p b) → Sound (p (l.foldl f b))
  | [], _, h => h
  | x :: l, b, h => foldl_sound_of p f hf l (hf b x h)

theorem State.translate_sound (hs : Sound s) {part mode va : Nat} {rd wr : Bool} : Sound (s.translate part mode va rd wr).2 :=
  sound_of_mem hs (s.translate_mem _ _ _ _ _)

theorem State.pullFault_sound (hs : Sound s) {r : CollRec} {part sa n : Nat} : Sound (s.pullFault r part sa n).2 := by
  unfold State.pullFault
  split
  · refine foldl_sound_of Prod.snd _ (fun acc i h => ?_) _ hs
    have ht := State.translate_sound h (part := part) (mode := 4) (va := sa + i) (rd := false) (wr := true)
    split
    · exact h
    · split <;> rename_i heq <;> rw [heq] at ht <;> exact ht
  · exact hs

theorem State.freeBytes_sound : ∀ (n : Nat) {s : State}, Sound s → Sound (State.freeBytes n s).2
  | 0, _, hs => hs
  | n + 1, s, hs => State.freeBytes_sound n (s := s.freeNat.2) hs

theorem State.updSlot_sound (hs : Sound s) {n : Nat} {f : Slot → Slot} : Sound (s.updSlot n f) := hs

theorem State.stopFiring_sound (hs : Sound s) {slot part cause va : Nat} : Sound (s.stopFiring slot part cause va) := hs

theorem State.refuse_sound (hs : Sound s) {slot p : Nat} : Sound (s.refuse slot p) := hs

theorem State.collSource_sound (hs : Sound s) {slot : Nat} {r : CollRec} {part sa n : Nat} : Sound (s.collSource slot r part sa n).2 := by
  unfold State.collSource
  split
  · refine foldl_sound_of Prod.snd _ (fun acc i h => ?_) _ hs
    have ht := State.translate_sound h (part := part) (mode := 4) (va := sa + i) (rd := true) (wr := false)
    split
    · split <;> rename_i heq <;> rw [heq] at ht <;> exact ht
    · exact h
  · split
    · exact hs
    · exact State.touch_sound _ _ hs

theorem State.pktOn_sound (hs : Sound s) {p : Packet} {d : Nat} : Sound (s.pktOn p d) := by
  unfold State.pktOn
  split
  · exact hs
  · exact sound_ite hs (State.putPacket_sound (by exact hs))

theorem State.sendPacket_sound (hs : Sound s) {vc src to_ : Nat} {rsp : Bool} : Sound (s.sendPacket vc rsp src to_) :=
  sound_ite hs (State.pktOn_sound (by exact hs))

/-- R193, R323: the bytes a firing's elements read are read as a load reads them. -/
theorem State.makeSends_sound {slot part due : Nat} {r : CollRec} : ∀ (ss : List (Nat × Nat × Nat)) {s : State}, Sound s →
    Sound (s.makeSends slot part due r ss)
  | [], _, hs => hs
  | (sa, da, p) :: rest, s, hs => by
    unfold State.makeSends
    refine sound_ite hs (sound_ite ?_ ?_)
    · have h := State.pullFault_sound hs (r := r) (part := part) (sa := sa) (n := r.tlen * r.esz)
      split <;> rename_i heq <;> rw [heq] at h
      · exact State.stopFiring_sound h
      · exact State.makeSends_sound rest (sound_ite (by exact State.freeBytes_sound _ h) (State.freeBytes_sound _ h))
    · have h := State.collSource_sound hs (slot := slot) (r := r) (part := part) (sa := sa) (n := r.tlen * r.esz)
      split <;> rename_i heq <;> rw [heq] at h
      · exact State.stopFiring_sound h
      · rename_i x _
        exact nomatch x
      · refine sound_ite (State.stopFiring_sound h) (sound_ite (State.makeSends_sound rest (by exact h))
          (sound_ite (State.makeSends_sound rest (State.refuse_sound h)) (State.makeSends_sound rest ?_)))
        exact foldl_sound _ (fun _ h => State.sendPacket_sound h) _ h

theorem execCollectiveFiringStart_sound (hs : Sound s) {slot : Nat} : SoundNext (execCollectiveFiringStart slot s) :=
  soundNext_ite (soundNext_fault _) (soundNext_ite (sound_next hs) (sound_next (State.makeSends_sound _ (by exact hs))))

theorem State.incSlot_sound (hs : Sound s) {n v : Nat} : Sound (s.incSlot n v) := sound_ite hs hs

theorem execCollectiveFiringCompletion_sound (hs : Sound s) {slot : Nat} : SoundNext (execCollectiveFiringCompletion slot s) := by
  refine soundNext_ite (soundNext_fault _) (soundNext_ite (sound_next hs) (sound_next ?_))
  have h : ∀ {ts : List (Nat × Nat)} {a b c : Bool} {f : Slot → Slot}, Sound ((s.updSlot slot f).signalAll ts a b c) := fun {_ _ _ _ _} =>
    State.signalAll_sound (State.updSlot_sound hs)
  split
  · split
    · exact State.incSlot_sound h
    · exact h
  · refine State.idleSlot_sound ?_
    split
    · exact State.incSlot_sound h
    · exact h

theorem State.arriveHere_sound (hs : Sound s) {t : CollTransfer} : Sound (s.arriveHere t) := by
  have h : Sound ({ s with xfers := s.xfers.erase t }.placeBytes t).2 := State.placeBytes_sound _ hs
  unfold State.arriveHere
  dsimp only
  split <;> split
  · exact State.incSlot_sound (sound_ite h (State.refuse_sound h))
  · exact State.incSlot_sound h
  · exact sound_ite h (State.refuse_sound h)
  · exact h

theorem execCollectiveTransferArrival_sound (hs : Sound s) {t : CollTransfer} : SoundNext (execCollectiveTransferArrival t s) := by
  have here : SoundNext (.next (s.arriveHere t)) := sound_next (State.arriveHere_sound hs)
  unfold execCollectiveTransferArrival
  dsimp only
  split
  · refine soundNext_ite (sound_next ?_) here
    split
    · exact sound_ite (State.refuse_sound (by exact hs)) (by exact hs)
    · exact hs
  · exact soundNext_ite here (soundNext_ite (sound_next hs) (sound_next (State.makeSends_sound _ (by exact hs))))
  · refine soundNext_ite here ?_
    have h := State.pullFault_sound hs (r := { (s.slot ((t.own.map Prod.fst).getD 0)).crec with sspc := 1 }) (part := t.part) (sa := t.addr) (n := t.data.length)
    split <;> rename_i heq <;> rw [heq] at h
    · exact sound_next (State.stopFiring_sound (by exact h))
    · exact sound_next (State.arriveHere_sound h)
  · exact here

/-! #### Links -/

theorem State.updLink_sound (hs : Sound s) {d n : Nat} {f : LinkEnd → LinkEnd} : Sound (s.updLink d n f) := hs

theorem State.replay_sound (hs : Sound s) {d n v : Nat} {p : Nat → Bool} : Sound (s.replay d n v p) := hs

theorem State.refused_sound (hs : Sound s) {d n v sq : Nat} : Sound (s.refused d n v sq) := hs

theorem State.deliverFlit_sound (hs : Sound s) {d : Nat} {ids : List Nat} : Sound (s.deliverFlit d ids) := by
  refine foldl_sound _ (fun i h => ?_) _ hs
  split
  · exact sound_ite (State.updMsg_sound h) (State.onward_sound (State.updMsg_sound h))
  · split
    · exact State.tokenOn_sound (by exact h)
    · split
      · exact sound_ite (by exact h) (State.pktOn_sound (by exact h))
      · exact h

theorem execFlitReception_sound (hs : Sound s) {die link : Nat} {f : Flit} {good : Bool} : SoundNext (execFlitReception die link f good s) := by
  refine soundNext_ite (soundNext_fault _) (soundNext_ite (sound_next (State.updLink_sound hs)) ?_)
  have h : ∀ g : LinkEnd → LinkEnd, Sound (if f.akt = 1 then s.updLink die link g else if f.akt = 2 then s.refused die link f.avc f.aseq else s) :=
    fun _ => sound_ite (State.updLink_sound hs) (sound_ite (State.refused_sound hs) hs)
  exact soundNext_ite (sound_next (h _)) (soundNext_ite (sound_next (State.deliverFlit_sound (State.updLink_sound (h _))))
    (soundNext_ite (sound_next (State.updLink_sound (h _))) (sound_next (State.updLink_sound (h _)))))

theorem execRefusalReceipt_sound (hs : Sound s) {die link vc seq : Nat} : SoundNext (execRefusalReceipt die link vc seq s) :=
  soundNext_ite (soundNext_fault _) (sound_next (State.refused_sound hs))

theorem State.flitSlack_sound (hs : Sound s) {ids : List Nat} : Sound (s.flitSlack ids).2 := sound_ite_of (fun x : Nat × State => x.2) hs hs

theorem State.sendFlit_sound (hs : Sound s) {d n : Nat} {f : Flit} : Sound (s.sendFlit d n f) := by
  have h := State.flitSlack_sound hs (ids := f.pay)
  unfold State.sendFlit
  dsimp only
  split <;> exact h

theorem execAcknowledgementTimer_sound (hs : Sound s) {die link vc : Nat} : SoundNext (execAcknowledgementTimer die link vc s) := by
  refine soundNext_ite (soundNext_fault _) ?_
  dsimp only
  split
  · exact soundNext_ite (sound_next (State.sendFlit_sound (State.updLink_sound hs))) (sound_next hs)
  · exact sound_next hs

theorem execReplayTimeout_sound (hs : Sound s) {die link vc : Nat} : SoundNext (execReplayTimeout die link vc s) :=
  soundNext_ite (soundNext_fault _) (soundNext_ite (sound_next (State.replay_sound hs)) (sound_next hs))

theorem State.updBoth_sound (hs : Sound s) {d n : Nat} {f : LinkEnd → LinkEnd} : Sound (s.updBoth d n f) := by
  unfold State.updBoth
  dsimp only
  split <;> exact hs

theorem State.degradeAt_sound (hs : Sound s) {d n lane mod ev : Nat} : Sound (s.degradeAt d n lane mod ev) := sound_ite hs hs

theorem State.degrade_sound (hs : Sound s) {d n lane mod ev : Nat} : Sound (s.degrade d n lane mod ev) := by
  unfold State.degrade
  dsimp only
  split
  · exact State.degradeAt_sound (State.degradeAt_sound hs)
  · exact State.degradeAt_sound hs

theorem State.retrain_sound (hs : Sound s) {d n : Nat} : Sound (s.retrain d n) := State.updBoth_sound (by exact hs)

theorem execAutomaticBackOff_sound (hs : Sound s) {die link : Nat} : SoundNext (execAutomaticBackOff die link s) :=
  soundNext_ite (soundNext_fault _) (soundNext_ite (sound_next (State.degrade_sound (State.retrain_sound (State.updBoth_sound hs)))) (sound_next hs))

theorem State.forwardPacket_sound (hs : Sound s) {d id : Nat} : Sound (s.forwardPacket d id) := by
  unfold State.forwardPacket
  split
  · exact sound_ite hs (State.onward_sound (State.updMsg_sound hs))
  · split
    · exact State.tokenOn_sound hs
    · split
      · exact State.pktOn_sound hs
      · exact hs

theorem State.takeDown_sound (hs : Sound s) {d n : Nat} : Sound (s.takeDown d n) := by
  unfold State.takeDown
  split
  · exact hs
  · exact foldl_sound _ (fun _ h => State.forwardPacket_sound h) _ (foldl_sound _ (fun _ h => State.forwardPacket_sound h) _
      (by exact State.updBoth_sound hs))

theorem execLaneRetirement_sound (hs : Sound s) {die link mod lane : Nat} : SoundNext (execLaneRetirement die link mod lane s) := by
  refine soundNext_ite (soundNext_fault _) (soundNext_ite (sound_next (State.degrade_sound (State.updBoth_sound (by exact hs)))) ?_)
  have h : Sound ((s.updBoth die link (fun l => { l with widths := l.widths.set mod 0 })).degrade die link lane mod 3) :=
    State.degrade_sound (State.updBoth_sound hs)
  exact soundNext_ite (sound_next (sound_ite (State.degrade_sound (State.takeDown_sound h)) h)) (sound_next hs)

theorem execLinkRateWrite_sound (hs : Sound s) {die link rate : Nat} : SoundNext (execLinkRateWrite die link rate s) :=
  soundNext_ite (soundNext_fault _) (soundNext_ite (sound_next hs) (sound_next (State.retrain_sound (State.updBoth_sound hs))))

theorem execLinkRetrainCompletion_sound (hs : Sound s) {die link mod : Nat} : SoundNext (execLinkRetrainCompletion die link mod s) :=
  soundNext_ite (soundNext_fault _) (soundNext_ite (soundNext_ite (sound_next (State.updBoth_sound hs)) (sound_next hs))
    (soundNext_ite (sound_next (State.updBoth_sound hs)) (sound_next hs)))

theorem execFlitTransmission_sound (hs : Sound s) {die link mod : Nat} : SoundNext (execFlitTransmission die link mod s) := by
  refine soundNext_ite (soundNext_fault _) (soundNext_ite (sound_next hs) ?_)
  dsimp only
  split
  · exact sound_next (State.sendFlit_sound (State.updLink_sound hs))
  · exact soundNext_ite (sound_next hs) (sound_next (State.sendFlit_sound (State.updLink_sound hs)))

/-! #### Mailbox, events, supervisors -/

theorem State.updPart_sound (hs : Sound s) {p : Nat} {f : Part → Part} : Sound (s.updPart p f) := hs

theorem execMailboxPop_sound (hs : Sound s) {part : Nat} : SoundNext (execMailboxPop part s) := sound_next (State.popMailbox_sound hs)

theorem execJobAddressWrite_sound (hs : Sound s) {part : Nat} {addr : W64} : SoundNext (execJobAddressWrite part addr s) :=
  soundNext_ite (sound_next hs) (soundNext_ite (sound_next (State.updPart_sound hs)) (sound_next (State.updPart_sound hs)))

theorem State.atBundle_sound (hs : Sound s) {k : Nat} : Sound (s.atBundle k) := hs

theorem execContextFreeze_sound (hs : Sound s) {k cause : Nat} : SoundNext (execContextFreeze k cause s) := by
  refine soundNext_ite (sound_next hs) ?_
  split
  · exact soundNext_ite (sound_next (State.deliverTrap_sound (State.atBundle_sound (State.updCtx_sound hs)))) (sound_next hs)
  · split
    · exact soundNext_ite (sound_next (State.freeze_sound (State.atBundle_sound (State.updCtx_sound hs)))) (sound_next hs)
    · exact sound_next hs

theorem State.loadFrame_sound (hs : Sound s) {k : Nat} {e : PendEv} : Sound (s.loadFrame k e) := hs

theorem State.takeEvent_sound (hs : Sound s) {k : Nat} {t : State} (h : s.takeEvent k = some t) : Sound t := by
  unfold State.takeEvent at h
  split at h
  · cases h
  · cases h
    exact State.loadFrame_sound (sound_ite (State.updDie_sound hs) (sound_ite (by exact hs) (State.updCtx_sound hs)))

theorem execEventTake_sound (hs : Sound s) {k : Nat} : SoundNext (execEventTake k s) := by
  refine soundNext_ite (sound_next ?_) (sound_next hs)
  split
  · rename_i heq
    exact State.takeEvent_sound hs heq
  · exact hs

theorem execContextQuiescence_sound (hs : Sound s) {k : Nat} : SoundNext (execContextQuiescence k s) := sound_next (State.endPmt_sound hs)

theorem execReplayInjection_sound (hs : Sound s) {k : Nat} : SoundNext (execReplayInjection k s) :=
  soundNext_ite (sound_next hs) (sound_next (State.updCtx_sound hs))

/-! #### Branch resolution -/

theorem State.dropCmd_sound (hs : Sound s) {id : Nat} : Sound (s.dropCmd id) := hs

theorem State.makeUp_sound (hs : Sound s) {k n : Nat} : Sound (s.makeUp k n) := sound_ite hs hs

theorem State.discard_sound (hs : Sound s) {hl : List Held} : Sound (s.discard hl) := by
  refine foldl_sound _ (fun x h => ?_) _ hs
  split
  · exact State.dropCmd_sound h
  · exact h

theorem State.conveyTrap_sound (hs : Sound s) {k : Nat} {t : Trap} : Sound (s.conveyTrap k t) :=
  sound_ite (State.killRun_sound hs) (State.deliverTrap_sound hs)

theorem State.arrive_sound (hs : Sound s) {k : Nat} {b : Bundle} : Sound (s.arrive k b) := by
  unfold State.arrive
  split
  · exact State.updLine_sound hs
  · exact hs

theorem State.arriveResolved_sound (hs : Sound s) {k : Nat} : Sound (s.arriveResolved k) := by
  refine sound_ite hs ?_
  split
  · exact State.arrive_sound hs
  · exact hs

theorem State.caughtUp_sound (hs : Sound s) {k : Nat} : Sound (s.caughtUp k) := sound_ite hs (State.updCtx_sound (State.makeUp_sound hs))

theorem execBranchResolution_sound (hs : Sound s) {k : Nat} : SoundNext (execBranchResolution k s) := by
  unfold execBranchResolution
  split
  · rename_i x rest _
    refine soundNext_ite (sound_next hs) (soundNext_ite (sound_next (State.updCtx_sound (State.makeUp_sound (State.discard_sound hs)))) (sound_next ?_))
    have h : Sound (State.releaseAll k ((s.ctx k).rest ++ x.held) (s.updCtx k (fun c => { c with snaps := rest, rest := [] }))) :=
      State.releaseAll_sound _ (State.updCtx_sound hs)
    refine sound_ite h ?_
    split
    · exact State.conveyTrap_sound (State.updCtx_sound h)
    · exact State.arriveResolved_sound (State.caughtUp_sound h)
  · exact sound_next hs

/-! #### Arrays -/

theorem State.updPair_sound (hs : Sound s) {core p : Nat} {f : Pair → Pair} : Sound (s.updPair core p f) := hs

theorem State.updAdc_sound (hs : Sound s) {core g : Nat} {f : Adc → Adc} : Sound (s.updAdc core g f) := hs

theorem State.publish_sound (hs : Sound s) {id : Nat} {ws : List ElemW} : Sound (s.publish id ws) := State.updCmd_sound hs

theorem State.locate_sound (hs : Sound s) {part die va n : Nat} {rd wr : Bool} : Sound (s.locate part die va n rd wr).2 :=
  sound_of_mem hs (s.locate_mem _ _ _ _ _ _)

/-- R65: an array's read of what its own earlier elements have left. -/
theorem State.takenRead_sound (hs : Sound s) {id core off n : Nat} : Sound (s.takenRead id core off n).2 := by
  have h := State.engineRead_sound core off n hs
  unfold State.takenRead
  dsimp only
  split
  · exact sound_ite_of (fun x : List Byte × State => x.2) h h
  · exact h

theorem State.ckptRow_sound {c : Cmd} {part : Nat} : ∀ (ws : List (Nat × List Byte)) {s : State}, Sound s → Sound (s.ckptRow c part ws).1
  | [], _, hs => hs
  | (va, bs) :: rest, s, hs => by
    have h := State.locate_sound hs (part := part) (die := dieOf c.core) (va := va) (n := bs.length) (rd := false) (wr := true)
    unfold State.ckptRow
    split <;> rename_i heq <;> rw [heq] at h
    · exact h
    · exact State.ckptRow_sound rest (State.writeLocs_sound _ _ h)
    · exact State.ckptRow_sound rest h

theorem flagIf_sound (hs : Sound s) {core g : Nat} {x : BitVec 4} :
    Sound (if x = 0 then s else s.updAdc core g (fun g => { g with flags := g.flags ||| x })) := sound_ite hs (State.updAdc_sound hs)

theorem State.aEffect_sound (hs : Sound s) {c : Cmd} {n t : Nat} {e : AEntry} {ins : List (List Byte)} : Sound (s.aEffect c n e t ins) := by
  unfold State.aEffect
  dsimp only
  split
  · exact State.publish_sound (flagIf_sound (State.takenRead_sound hs))
  · exact sound_ite (State.updPair_sound (flagIf_sound hs)) (State.updPair_sound (State.updAdc_sound (flagIf_sound hs)))
  · exact State.updPair_sound hs
  · exact State.updPair_sound hs
  · exact State.publish_sound hs
  · exact State.updPair_sound hs
  · have h := State.ckptRow_sound (s.ckptCells c.core e t) hs (c := c) (part := (s.partOf c.core).getD 16)
    split <;> rename_i heq <;> rw [heq] at h
    · exact sound_ite (State.updCmd_sound h) h
    · exact State.updCmd_sound h
  · exact State.updAdc_sound hs
  · exact State.updPair_sound hs

theorem State.finishBurst_sound (hs : Sound s) {c : Cmd} {n : Nat} {e : AEntry} : Sound (s.finishBurst c n e) := by
  unfold State.finishBurst
  split
  · exact sound_ite (State.updPair_sound hs) hs
  · exact hs

theorem State.finishBursts_sound (hs : Sound s) : Sound s.finishBursts :=
  foldl_sound _ (fun _ h => foldl_sound _ (fun _ h => State.finishBurst_sound h) _ h) _ hs

theorem State.aStop_sound (hs : Sound s) {c : Cmd} {n : Nat} {e : AEntry} : Sound (s.aStop c n e) := by
  refine sound_ite ?_ hs
  have h : ∀ f : Cmd → Cmd, Sound ((s.flush c.id).updCmd c.id f) := fun _ => State.updCmd_sound (State.flush_sound _ hs)
  dsimp only
  split
  · exact sound_ite (State.dropCmd_sound (h _)) (sound_ite (h _) (State.updCmd_sound (h _)))
  · exact h _

theorem State.sampleInputs_sound (hs : Sound s) {id core t : Nat} {e : AEntry} : Sound (s.sampleInputs id core e t).2 := 
by
  refine foldl_sound_of Prod.snd _ (fun acc x h => ?_) _ hs
  exact State.takenRead_sound h

theorem State.aCycle_sound (hs : Sound s) {c : Cmd} {n : Nat} {e : AEntry} : Sound (s.aCycle c n e) := by
  unfold State.aCycle
  refine sound_ite hs ?_
  obtain ⟨steps, cyc⟩ := e.steps
  dsimp -zeta only
  extract_lets begins begun rem ends counted now acted done
  have h1 : Sound begun := sound_ite (sound_ite (State.updCmd_sound (State.sampleInputs_sound (by exact hs))) (by exact hs)) hs
  have h2 : Sound counted := State.updCmd_sound h1
  have h3 : Sound acted := by
    refine State.aEffect_sound ?_
    split
    · exact h2
    · exact State.sampleInputs_sound h2
  have h4 : Sound done := State.updCmd_sound h3
  refine sound_ite h1 (sound_ite ?_ (sound_ite (State.flush_sound _ h2) h2))
  split
  · exact State.updCmd_sound (by exact h4)
  · exact h4

theorem State.arrays_sound (hs : Sound s) : Sound s.arrays := by
  refine foldl_sound _ (fun c h => foldl_sound _ (fun x h => ?_) _ h) _ hs
  dsimp only
  split
  · exact State.aCycle_sound (State.aStop_sound h)
  · exact State.aStop_sound h

/-! #### The starts of the package -/

theorem State.freeBit_sound (hs : Sound s) : Sound s.freeBit.2 := hs

theorem sound_mon (hs : Sound s) {m : Mon} : Sound { s with mon := m } := hs

theorem sound_monLinks (hs : Sound s) {m : Mon} {l : SMap LinkEnd} : Sound { s with mon := m, links := l } := hs

theorem sound_ctxs (hs : Sound s) {c : SMap Ctx} : Sound { s with ctxs := c } := hs

theorem sound_monFree (hs : Sound s) {m : Mon} {f : Nat} : Sound { s with mon := m, free := f } := hs

theorem sound_writeN (hs : Sound s) {a : Nat} {bs : List Byte} : Sound { s with mem := s.mem.writeN a bs } := Memory.wf_writeN _ _ hs

theorem State.atStage_sound (hs : Sound s) {n : Nat} : Sound (s.atStage n) := hs

theorem State.testStages_sound (hs : Sound s) : Sound s.testStages.2 := by
  refine sound_ite_of (fun x : Bool × State => x.2) (by exact hs) ?_
  exact sound_ite (by exact hs) (by exact hs)

theorem State.trainLink_sound (hs : Sound s) {d n : Nat} : Sound (s.trainLink d n) := State.updBoth_sound (by exact hs)

theorem State.trainAll_sound (hs : Sound s) : Sound s.trainAll := by
  have h : Sound ((List.range 4).foldl (fun s d => (s.trainLink d 0).trainLink d 2) s) :=
    foldl_sound _ (fun _ h => State.trainLink_sound (State.trainLink_sound h)) _ hs
  exact h

theorem State.trainStages_sound (hs : Sound s) {links hbm : Nat} : Sound (s.trainStages links hbm).2 := by
  have h : Sound (s.atStage links).trainAll := State.trainAll_sound (State.atStage_sound hs)
  unfold State.trainStages
  dsimp only
  split
  · exact h
  · exact State.freeBit_sound (State.atStage_sound h)

theorem State.startDies_sound (hs : Sound s) {inc : Die → BitVec 4} : Sound (s.startDies inc) :=
  foldl_sound _ (fun _ h => State.updDie_sound h) _ hs

theorem State.calibrate_sound (hs : Sound s) {core : Nat} : Sound (s.calibrate core) := State.updCore_sound hs

theorem State.loadStages_sound (hs : Sound s) : Sound s.loadStages.2 := by
  have h : Sound (((s.atStage 6).startDies (fun _ => 0)).atStage 7).freeBit.2 :=
    State.freeBit_sound (State.atStage_sound (State.startDies_sound (State.atStage_sound hs)))
  unfold State.loadStages
  dsimp only
  split
  · exact State.atStage_sound hs
  · split
    · exact h
    · exact sound_monFree (foldl_sound State.calibrate (fun _ h => State.calibrate_sound h) _ h)

theorem State.coldAttempt_sound (hs : Sound s) : Sound s.coldAttempt.2 := by
  unfold State.coldAttempt
  have h : Sound ({ s.cleared with mon := { s.cleared.mon with stage := 1, status := 0, seq := 0, buf := 0, len := 0 }, links := [] } : State).testStages.2 :=
    State.testStages_sound (sound_monLinks (State.cleared_sound hs))
  dsimp only
  generalize State.testStages _ = tested at h ⊢
  obtain ⟨_ | _, t⟩ := tested
  · exact h
  · dsimp only at h ⊢
    replace h := State.trainStages_sound h (links := 4) (hbm := 5)
    generalize State.trainStages t 4 5 = trained at h ⊢
    obtain ⟨_ | _, u⟩ := trained
    · exact h
    · dsimp only at h ⊢
      replace h := State.loadStages_sound h
      generalize State.loadStages u = loaded at h ⊢
      obtain ⟨_ | _, v⟩ := loaded
      · exact h
      · exact sound_mon h

theorem State.coldStart_sound : ∀ (n : Nat) {s : State}, Sound s → Sound (State.coldStart n s)
  | 0, _, hs => hs
  | n + 1, s, hs => by
    have h := State.coldAttempt_sound hs
    unfold State.coldStart
    split <;> rename_i heq <;> rw [heq] at h
    · exact h
    · exact sound_ite (State.coldStart_sound n (by exact h)) (by exact h)

theorem execPowerOn_sound (hs : Sound s) : SoundNext (execPowerOn s) := sound_next (State.coldStart_sound 3 hs)

theorem execPcieFundamentalReset_sound (hs : Sound s) : SoundNext (execPcieFundamentalReset s) := sound_next (State.coldStart_sound 3 hs)

/-! #### Services -/

/-- R399: a service that ends writes its response at the host's buffer, whatever else it does. -/
theorem State.serve_sound {body : State → Out} (hs : Sound s) (hb : SoundNext (body s)) {code need : Nat} {lcs : List Nat} :
    SoundNext (s.serve code lcs need body) :=
  have hf : ∀ n, SoundNext (.next (s.finishService n [])) := fun _ => sound_next (State.finishService_sound _ _ hs)
  soundNext_ite (sound_next hs) (soundNext_ite (hf 2) (soundNext_ite (hf 2) (soundNext_ite (hf 2) (soundNext_ite (hf 4) (soundNext_ite (hf 3) hb)))))

theorem State.service_sound {body : State → Nat × List Byte × State} (hs : Sound s) (hb : Sound (body s).2.2) {code need : Nat} {lcs : List Nat} :
    SoundNext (s.service code lcs need body) :=
  State.serve_sound hs (by exact sound_next (State.finishService_sound _ _ hb))

theorem State.undefinedService_sound (hs : Sound s) {code : Nat} : Sound (s.undefinedService code) := State.finishService_sound _ _ hs

theorem execReadIdentity_sound (hs : Sound s) : SoundNext (execReadIdentity s) := State.service_sound hs hs

theorem execAttest_sound (hs : Sound s) : SoundNext (execAttest s) := State.service_sound hs hs

theorem execChallenge_sound (hs : Sound s) : SoundNext (execChallenge s) := by
  refine State.service_sound hs ?_
  have h := State.freeBytes_sound 32 hs
  exact h

theorem State.useToken_sound (hs : Sound s) {slot : Nat} {effect : Nat → Mon → Mon} : Sound (s.useToken slot effect).2.2 := by
  unfold State.useToken
  exact sound_mon hs

theorem execUnlock_sound (hs : Sound s) : SoundNext (execUnlock s) := State.service_sound hs (State.useToken_sound hs)

theorem execRelock_sound (hs : Sound s) : SoundNext (execRelock s) := State.service_sound hs hs

theorem execEnterRma_sound (hs : Sound s) : SoundNext (execEnterRma s) := State.service_sound hs (State.useToken_sound hs)

theorem execProvision_sound (hs : Sound s) : SoundNext (execProvision s) := State.service_sound hs hs

/-! #### Partitions -/

/-- What copies of an image to the dies of a partition keep: whatever the writing of bytes keeps. -/
theorem State.copyImage_keeps (P : State → Prop) (hw : ∀ (s : State) (a : Nat) (bs : List Byte), P s → P { s with mem := s.mem.writeN a bs }) (h : P s)
    {p : Part} {pid : Nat} {img : List Byte} : P (s.copyImage p pid img) := by
  unfold State.copyImage
  generalize List.filter _ _ = ds
  induction ds generalizing s with
  | nil => exact h
  | cons d ds ih =>
    refine ih ?_
    beta_reduce
    split
    · exact hw _ _ _ h
    · exact h

theorem State.copyImage_sound (hs : Sound s) {p : Part} {pid : Nat} {img : List Byte} : Sound (s.copyImage p pid img) :=
  State.copyImage_keeps Sound (fun _ _ _ h => sound_writeN h) hs

theorem State.startSupervisor_sound (hs : Sound s) {part k : Nat} : Sound (s.startSupervisor part k) := hs

theorem State.startSupervisors_sound (hs : Sound s) {core : Nat} : Sound (s.startSupervisors core) := by
  unfold State.startSupervisors
  split
  · exact sound_ite hs (foldl_sound _ (fun _ h => State.startSupervisor_sound h) _ hs)
  · exact hs

theorem foldl_startSupervisors_sound (hs : Sound s) {cores : List Nat} : Sound (cores.foldl State.startSupervisors s) :=
  foldl_sound State.startSupervisors (fun _ h => State.startSupervisors_sound h) _ hs

theorem State.createPart_sound (hs : Sound s) {b : List Byte} : Sound (s.createPart b).2 := by
  refine sound_ite_of (fun x : Nat × State => x.2) hs (sound_ite_of (fun x : Nat × State => x.2) hs ?_)
  split
  · exact hs
  · refine foldl_sound _ (fun _ h => State.startSupervisors_sound (State.updCore_sound (State.zeroStores_sound _ h))) _ (State.updPart_sound (State.copyImage_sound ?_))
    generalize hz : s.installImage _ _ = z
    have h : Sound z.2 := hz ▸ State.installImage_sound _ _ hs
    exact h

theorem execCreatePartition_sound (hs : Sound s) : SoundNext (execCreatePartition s) := State.service_sound hs (State.createPart_sound hs)

theorem State.endWait_sound (hs : Sound s) {st : Nat} : Sound (s.endWait st) := State.finishService_sound _ _ (by exact hs)

theorem State.destroyPart_sound (hs : Sound s) {pid : Nat} : Sound (s.destroyPart pid).2 := by
  have h : ∀ cores, Sound (s.clearCores Core.moved cores) := fun _ => State.clearCores_sound hs
  exact h _

theorem State.takeClusters_sound {go : State → Nat × State} (hs : Sound s) (hg : Sound (go s).2) {mask req : Nat} {again : Instr} :
    SoundNext (s.takeClusters mask req again go) :=
  soundNext_ite (sound_next (State.endWait_sound hs)) (soundNext_ite (sound_next (by exact hs)) (sound_next (State.endWait_sound hg)))

theorem State.tryDestroy_sound (hs : Sound s) {pid : Nat} : SoundNext (s.tryDestroy pid) :=
  soundNext_ite (sound_next (State.endWait_sound hs)) (soundNext_ite (sound_next (State.endWait_sound (State.destroyPart_sound hs)))
    (State.takeClusters_sound hs (State.destroyPart_sound hs)))

theorem execDestroyPartition_sound (hs : Sound s) : SoundNext (execDestroyPartition s) := by
  refine soundNext_ite ?_ (State.serve_sound hs (State.tryDestroy_sound hs))
  split
  · exact soundNext_ite (State.tryDestroy_sound hs) (sound_next hs)
  · exact sound_next hs

theorem State.reassign_sound (hs : Sound s) {d cl dest : Nat} : Sound (s.reassign d cl dest).2 := by
  unfold State.reassign
  extract_lets i cores old cleared dropped moved given
  clear_value old
  have hc : Sound cleared := State.clearCores_sound hs
  have hd : Sound dropped := sound_ctxs hc
  clear_value dropped
  have hm : Sound moved := by
    unfold moved
    split
    · exact State.updPart_sound hd
    · exact hd
  exact sound_ite_of (fun x : Nat × State => x.2) hm (foldl_startSupervisors_sound (State.updPart_sound hm))

theorem State.tryReassign_sound (hs : Sound s) {d cl dest : Nat} : SoundNext (s.tryReassign d cl dest) :=
  soundNext_ite (sound_next (State.endWait_sound hs)) (State.takeClusters_sound hs (State.reassign_sound hs))

theorem execReassignCluster_sound (hs : Sound s) : SoundNext (execReassignCluster s) := by
  refine soundNext_ite ?_ (State.serve_sound hs (State.tryReassign_sound hs))
  split
  · exact soundNext_ite (State.tryReassign_sound hs) (sound_next hs)
  · exact sound_next hs

/-! #### Owners of pairs -/

theorem State.giveOwner_sound (hs : Sound s) {core owner : Nat} {as : List Nat} : Sound (s.giveOwner core owner as) :=
  foldl_sound (fun s a => { s with owners := put s.owners (core * 32 + a) owner }) (fun _ h => h) as hs

theorem State.waitFor_sound (hs : Sound s) {req t : Nat} : Sound (s.waitFor req t) := hs

theorem State.scrub_sound (hs : Sound s) {core a : Nat} : Sound (s.scrub core a) := hs

theorem State.tryOwners_sound (hs : Sound s) {core mask owner : Nat} : SoundNext (s.tryOwners core mask owner) := by
  refine soundNext_ite (sound_next (State.endWait_sound (State.giveOwner_sound hs))) (soundNext_ite (sound_next ?_) (sound_next ?_))
  · exact State.waitFor_sound (foldl_sound _ (fun _ h => State.updCore_sound h) _ (State.giveOwner_sound hs))
  · exact State.waitFor_sound (foldl_sound _ (fun _ h => State.scrub_sound h) _ (State.giveOwner_sound hs))

theorem State.endOwners_sound (hs : Sound s) {core mask owner : Nat} : SoundNext (s.endOwners core mask owner) :=
  soundNext_ite (sound_next (State.endWait_sound hs)) (sound_next (State.endWait_sound (State.giveOwner_sound hs)))

theorem execSetPairOwner_sound (hs : Sound s) : SoundNext (execSetPairOwner s) := by
  refine soundNext_ite ?_ (State.serve_sound hs ?_)
  · split
    · exact soundNext_ite (sound_next hs) (soundNext_ite (State.tryOwners_sound hs) (soundNext_ite (State.endOwners_sound hs) (sound_next hs)))
    · exact sound_next hs
  · dsimp only
    split
    · exact sound_next (State.finishService_sound _ _ hs)
    · exact State.tryOwners_sound hs

theorem execPowerRequest_sound (hs : Sound s) : SoundNext (execPowerRequest s) := State.service_sound hs (State.powerReq_sound hs)

/-! #### Resets of a die -/

theorem State.denyTransfers_sound (hs : Sound s) {d : Nat} : Sound (s.denyTransfers d) := foldl_sound _ (fun _ h => State.refuse_sound h) _ (by exact hs)

theorem State.endCopies_sound (hs : Sound s) {d : Nat} : Sound (s.endCopies d) :=
  foldl_sound _ (fun _ h => State.filledBy_sound (State.complete_sound _ (State.updCmd_sound h))) _ hs

theorem State.resetPointers_sound (hs : Sound s) {d : Nat} : Sound (s.resetPointers d) := State.updDie_sound (by exact hs)

theorem State.finishOld_sound (hs : Sound s) {d : Nat} : Sound (s.finishOld d) := by
  refine foldl_sound _ (fun m h => ?_) _ hs
  dsimp only
  split
  · exact State.updMsg_sound h
  · exact State.updMsg_sound (State.performLocal_sound _ _ _ h)

theorem State.staleResponse_sound (hs : Sound s) {m : Msg} : Sound (s.staleResponse m) := hs

theorem State.endAccess_sound (hs : Sound s) {m : Msg} : Sound (s.endAccess m) := hs

theorem State.dropResponses_sound (hs : Sound s) {d : Nat} : Sound (s.dropResponses d) :=
  foldl_sound _ (fun _ h => sound_ite (State.dropMsg_sound h) (State.staleResponse_sound h)) _ hs

theorem State.notice_sound (hs : Sound s) {die code : Nat} : Sound (s.notice die code) := hs

/-- R404, R416: what a reset of a die does to the stores is to clear those of its cores. -/
theorem State.resetDie_sound (hs : Sound s) {d : Nat} : Sound (s.resetDie d) := by
  unfold State.resetDie
  extract_lets shelved killed cleared ended denied ok down reset dropped retrained
  have hk : Sound killed := foldl_sound _ (fun _ h => State.killRun_sound h) _ hs
  have hc : Sound cleared := State.clearCores_sound hk
  have he : Sound ended := foldl_sound State.endAccess (fun _ h => State.endAccess_sound h) _ hc
  have hd : Sound denied := State.denyTransfers_sound (State.endCopies_sound he)
  have hl : Sound down := foldl_sound _ (fun _ h => State.updLink_sound (State.takeDown_sound h)) _ hd
  have hr : Sound reset := State.updDie_sound (State.resetPointers_sound (State.finishOld_sound hl))
  have hp : Sound dropped := State.dropResponses_sound hr
  have ht : Sound retrained := foldl_sound _ (fun _ h => State.retrain_sound (State.trainLink_sound h)) _ hp
  exact sound_ite (State.notice_sound (foldl_startSupervisors_sound ht)) (State.notice_sound hp)

theorem execDieReset_sound (hs : Sound s) : SoundNext (execDieReset s) :=
  have h : ∀ d, Sound (s.resetDie d) := fun _ => State.resetDie_sound hs
  State.service_sound hs (by
    dsimp only
    generalize fld (s.request 1) 0 1 = d
    split
    · exact hs
    · exact h d)

theorem State.warmStart_sound (hs : Sound s) : Sound s.warmStart := by
  have h : Sound ((s.cleared.atStage 10).trainStages 10 10).2 := State.trainStages_sound (State.atStage_sound (State.cleared_sound hs))
  unfold State.warmStart
  generalize State.trainStages _ 10 10 = trained at h ⊢
  obtain ⟨_ | _, t⟩ := trained
  · exact sound_ite (State.coldStart_sound 3 (sound_mon h)) (sound_mon h)
  · exact sound_ite (sound_mon (State.startDies_sound h)) (State.coldStart_sound 3 h)

theorem execWarmStart_sound (hs : Sound s) : SoundNext (execWarmStart s) := State.service_sound hs (by
  dsimp only
  exact State.warmStart_sound hs)

theorem execRecoveryImage_sound (hs : Sound s) : SoundNext (execRecoveryImage s) :=
  State.service_sound hs (by
    dsimp only
    split
    · exact hs
    · split
      · exact State.coldStart_sound 3 (sound_mon hs)
      · exact hs)

theorem execUncorrectableError_sound (hs : Sound s) {die : Nat} : SoundNext (execUncorrectableError die s) :=
  soundNext_ite (soundNext_fault _) (sound_next (State.resetDie_sound hs))

theorem execCorrectedError_sound (hs : Sound s) {die : Nat} : SoundNext (execCorrectedError die s) :=
  soundNext_ite (soundNext_fault _) (sound_next (by exact hs))

/-! #### Debug -/

theorem foldl_releaseFor_sound (hs : Sound s) {p : State → Nat → Bool} {g : Nat → Nat} {reason : Nat} {ks : List Nat} :
    Sound (ks.foldl (fun s k => if p s k then s.releaseFor (g k) reason else s) s) :=
  foldl_sound _ (fun _ h => sound_ite (State.releaseFor_sound h) h) _ hs

theorem State.debug_sound {body : Nat → Nat → State → State} (hs : Sound s) (hb : ∀ c h t, Sound t → Sound (body c h t)) {bit : Nat} {wake : Bool} :
    SoundNext (s.debug bit wake body) := by
  have pair : ∀ {c : Prop} [Decidable c] {a b : Nat × List Byte × State}, Sound a.2.2 → Sound b.2.2 → Sound (if c then a else b).2.2 :=
    fun {_ _ _ _} ha hb => sound_ite_of (fun x : Nat × List Byte × State => x.2.2) ha hb
  refine State.service_sound hs (pair hs (pair hs (pair hs (pair hs (hb _ _ _ (sound_ite ?_ hs))))))
  refine foldl_sound _ (fun cl h => sound_ite h ?_) _ hs
  refine foldl_sound _ (fun k h => sound_ite (State.releaseFor_sound h) h) _ ?_
  exact h

theorem execDebugHalt_sound (hs : Sound s) : SoundNext (execDebugHalt s) :=
  State.debug_sound hs (fun _ _ _ ht => foldl_sound _ (fun _ h => sound_ite h (State.haltFor_sound h)) _ (State.updCore_sound ht))

theorem State.wakeCtx_sound (hs : Sound s) {k : Nat} : Sound (s.wakeCtx k) := hs

theorem execDebugStep_sound (hs : Sound s) : SoundNext (execDebugStep s) :=
  State.debug_sound hs (fun _ _ _ ht => sound_ite (State.updCtx_sound (State.wakeCtx_sound ht)) ht)

theorem execDebugResume_sound (hs : Sound s) : SoundNext (execDebugResume s) :=
  State.debug_sound hs (fun _ _ _ ht => foldl_sound _ (fun _ h => sound_ite (State.releaseFor_sound h) h) _ (State.updCore_sound ht))

theorem execTraceOn_sound (hs : Sound s) : SoundNext (execTraceOn s) := State.debug_sound hs (fun _ _ _ ht => State.updCore_sound ht)

theorem execTraceOff_sound (hs : Sound s) : SoundNext (execTraceOff s) := State.debug_sound hs (fun _ _ _ ht => State.updCore_sound ht)

theorem execDebugFreeze_sound (hs : Sound s) : SoundNext (execDebugFreeze s) :=
  State.debug_sound hs (fun _ _ _ ht => by exact State.finishBursts_sound ht)

/-! #### Power back, the host's reads and writes -/

theorem execReturnToP0_sound (hs : Sound s) {die cluster : Nat} : SoundNext (execReturnToP0 die cluster s) := by
  refine soundNext_ite (soundNext_fault _) (soundNext_ite (sound_next hs) (sound_next (sound_ite ?_ ?_)))
  · refine foldl_startSupervisors_sound (sound_power (sound_ite (foldl_sound _ (fun _ h => State.restoreTiles_sound _ h) _ ?_) ?_)) <;>
      exact State.clearCores_sound (by exact hs)
  · exact foldl_sound _ (fun _ h => sound_ite (State.releaseFor_sound h) h) _ (by exact hs)

theorem execHostCxlMemAccess_sound (hs : Sound s) {w : Bool} {part addr len : Nat} {data : List (BitVec 8)} :
    SoundNext (execHostCxlMemAccess w part addr len data s) := sound_next (sound_ite (State.virtWrite_sound hs) hs)

/-! #### A cycle of the clock -/

theorem State.hostWrite_sound (hs : Sound s) {x : HostWrite} : Sound (s.hostWrite x) := by
  unfold State.hostWrite
  split
  · refine sound_ite hs ?_
    split
    · exact hs
    · exact State.undefinedService_sound hs
  · exact sound_mon hs
  · exact sound_mon hs
  · exact hs

theorem State.hostWrites_sound (hs : Sound s) : Sound s.hostWrites :=
  foldl_sound State.hostWrite (fun _ h => State.hostWrite_sound h) _ (by exact hs)

theorem State.goOnWalks_sound (hs : Sound s) : Sound s.goOnWalks := foldl_sound _ (fun _ h => State.goOn_sound h) _ hs

theorem State.endLost_sound (hs : Sound s) : Sound s.endLost :=
  foldl_sound _ (fun _ h => State.denyTransfers_sound (State.endCopies_sound h)) _ hs

theorem State.tStop_sound (hs : Sound s) {c : Cmd} : Sound (s.tStop c) :=
  sound_ite (sound_ite (State.dropCmd_sound (State.flush_sound _ hs)) (State.updCmd_sound (State.flush_sound _ hs))) hs

/-- R234, R277: a row of a product is written to its tile. -/
theorem State.productStep_sound (hs : Sound s) {core : Nat} {p : Product} {g : Nat × Nat × Nat} {c : Nat} : Sound (s.productStep core p g c).1 := by
  unfold State.productStep
  refine foldl_sound_of Prod.fst _ (fun acc i h => ?_) _ hs
  exact State.setTileRow_sound _ _ _ _ (State.engineRead_sound _ _ _ h)

theorem sound_clear (hs : Sound s) {a n : Nat} : Sound { s with mem := s.mem.clear a n } := Memory.wf_clear _ _ hs

theorem State.moveStep_sound (hs : Sound s) {core : Nat} {m : TileMove} {r : Nat} : Sound (s.moveStep core m r).1 := by
  unfold State.moveStep
  dsimp only
  split
  · exact sound_clear hs
  · exact State.setTileRow_sound _ _ _ _ hs
  · exact hs
  · exact State.setTileRow_sound _ _ _ _ (State.engineRead_sound _ _ _ hs)

theorem State.tStep_sound (hs : Sound s) {c : Cmd} : Sound (s.tStep c) := by
  refine sound_ite ?_ hs
  split
  · exact State.raiseFlags_sound (State.updCmd_sound (State.productStep_sound hs))
  · rename_i m _
    have h : Sound (s.moveStep c.core m c.done).1 := State.moveStep_sound hs
    exact sound_ite (State.raiseFlags_sound (State.updCmd_sound h)) (State.updCmd_sound h)
  · exact hs

theorem State.matrixCycle_sound (hs : Sound s) {c : Cmd} : Sound (s.matrixCycle c) := by
  refine sound_ite hs (State.updCmd_sound ?_)
  split
  · exact State.tStep_sound (State.tStop_sound hs)
  · exact State.tStop_sound hs

theorem State.moveTime_sound (hs : Sound s) {c : Cmd} {quiet : Bool} : Sound (s.moveTime c quiet) := by
  have h : Sound (if quiet = true then (true, s) else s.freeBit).2 := sound_ite_of (fun x : Bool × State => x.2) hs (State.freeBit_sound hs)
  exact sound_ite (State.updCmd_sound h) h

theorem State.copyCycle_sound (hs : Sound s) {c : Cmd} : Sound (s.copyCycle c) := by
  unfold State.copyCycle
  split
  · exact sound_ite hs (State.moveTime_sound (sound_ite (by exact hs) (State.copySome_sound (by exact hs))))
  · exact hs

theorem State.sortCycle_sound (hs : Sound s) {c : Cmd} : Sound (s.sortCycle c) := by
  unfold State.sortCycle
  split
  · exact sound_ite hs (sound_ite (sound_ite (State.updCmd_sound (by exact hs)) hs) (State.updCmd_sound (sound_ite (State.sortSample_sound hs) hs)))
  · exact hs

theorem State.streamCycle_sound (hs : Sound s) {c : Cmd} : Sound (s.streamCycle c) := by
  refine sound_ite hs ?_
  split
  · exact State.updCmd_sound (sound_ite (State.sampleStream_sound hs) hs)
  · exact State.updCmd_sound hs
  · exact hs

theorem State.settle384_sound (hs : Sound s) {c : Cmd} : Sound (s.settle384 c) := by
  refine sound_ite hs (sound_ite (State.updCmd_sound hs) (State.updCmd_sound (sound_ite hs ?_)))
  exact State.runAhead_sound (by exact hs)

theorem State.otherCycle_sound (hs : Sound s) {c : Cmd} : Sound (s.otherCycle c) := by
  unfold State.otherCycle
  split
  · exact sound_ite hs (sound_ite (State.complete_sound _ hs) (State.updCmd_sound hs))
  · exact sound_ite (State.moveTime_sound hs) hs
  · exact hs

theorem State.engines_sound (hs : Sound s) : Sound s.engines := by
  unfold State.engines
  extract_lets lost cs matrix array copy sort stream settled
  have h1 : Sound lost := State.endLost_sound hs
  have h2 : Sound matrix := foldl_sound State.matrixCycle (fun _ h => State.matrixCycle_sound h) _ h1
  have h3 : Sound array := State.arrays_sound h2
  have h4 : Sound copy := foldl_sound State.copyCycle (fun _ h => State.copyCycle_sound h) _ h3
  have h5 : Sound sort := foldl_sound State.sortCycle (fun _ h => State.sortCycle_sound h) _ h4
  have h6 : Sound stream := foldl_sound State.streamCycle (fun _ h => State.streamCycle_sound h) _ h5
  have h7 : Sound settled := foldl_sound State.settle384 (fun _ h => State.settle384_sound h) _ h6
  exact foldl_sound State.otherCycle (fun _ h => State.otherCycle_sound h) _ h7

theorem State.barriers_sound (hs : Sound s) : Sound s.barriers := hs

theorem State.dropTakes_sound (hs : Sound s) : Sound s.dropTakes := by
  refine foldl_sound _ (fun e h => ?_) _ hs
  split
  · exact sound_ite h (State.updCore_sound h)
  · exact h

theorem State.loseClaims_sound (hs : Sound s) : Sound s.loseClaims := by
  refine foldl_sound _ (fun e h => ?_) _ hs
  split
  · exact State.updCore_sound (State.noteClaim_sound h)
  · exact h

theorem State.deliverPipe_sound (hs : Sound s) {p : Pipe} : Sound (s.deliverPipe p) := by
  unfold State.deliverPipe
  split
  · exact sound_ite (State.updCtx_sound (by exact hs)) hs
  · exact hs

theorem State.freeLevels_sound (hs : Sound s) : Sound s.freeLevels := hs

theorem sound_linesLinks (hs : Sound s) {l : SMap Line} {k : SMap LinkEnd} : Sound { s with lines := l, links := k } := hs

theorem sound_nowTurn (hs : Sound s) {n : Nat} {t : List Nat} : Sound { s with now := n, turn := t } := hs

theorem State.advance_sound (hs : Sound s) : Sound s.advance := by
  unfold State.advance
  extract_lets worked ticked piped wired
  have h1 : Sound worked := State.barriers_sound (State.engines_sound (State.dropTakes_sound (State.loseClaims_sound hs)))
  have h2 : Sound ticked := sound_ctxs h1
  have h3 : Sound piped := foldl_sound State.deliverPipe (fun _ h => State.deliverPipe_sound h) _ h2
  have h4 : Sound wired := sound_linesLinks h3
  exact sound_nowTurn (s := wired.freeLevels) (State.freeLevels_sound h4)

theorem State.retryToken_sound (hs : Sound s) {m : MbMove} : Sound (s.retryToken m) := sound_ite hs (State.tokenOn_sound hs)

theorem State.sometimes_sound : ∀ (es : List Instr) {s : State}, Sound s → Sound (State.sometimes es s).2
  | [], _, hs => hs
  | _ :: es, _, hs => State.sometimes_sound es (State.freeBit_sound hs)

theorem State.onTheWay_sound : ∀ (es : List (Instr × Bool)) {s : State}, Sound s → Sound (State.onTheWay es s).2
  | [], _, hs => hs
  | (_, q) :: es, s, hs => by
    have h : Sound (if q = true then (true, s) else s.freeBit).2 := sound_ite_of (fun x : Bool × State => x.2) hs (State.freeBit_sound hs)
    unfold State.onTheWay
    exact State.onTheWay_sound es h

theorem State.imageEvents_sound (hs : Sound s) : Sound s.imageEvents.2 := by
  unfold State.imageEvents
  dsimp only
  exact State.onTheWay_sound _ hs

theorem State.receptions_sound : ∀ (xs : List Flying) {s : State}, Sound s → Sound (State.receptions xs s).2
  | [], _, hs => hs
  | _ :: xs, s, hs => State.receptions_sound xs (s := s.freeNat.2) hs

theorem State.bulkFlits_sound (hs : Sound s) : Sound s.bulkFlits := by
  refine foldl_sound _ (fun {t} x h => ?_) _ hs
  have h' : Sound t.freeBit.2.freeBit.2 := State.freeBit_sound (State.freeBit_sound h)
  have hif := sound_ite (c := t.freeBit.1 = true) (State.sendPacket_sound h' (vc := x.1) (src := x.2.1) (to_ := x.2.2) (rsp := false)) h'
  exact sound_ite (State.sendPacket_sound hif) hif

theorem State.retryPacket_sound (hs : Sound s) {p : Packet} : Sound (s.retryPacket p) := sound_ite hs (State.pktOn_sound hs)

theorem sound_planned (hs : Sound s) {f : List Flying} {i : List (Nat × Instr)} {a : List Instr} :
    Sound { s with flying := f, inputs := i, agenda := a } := hs

theorem State.planEvents_sound (hs : Sound s) : Sound s.planEvents := by
  unfold State.planEvents
  generalize hx : State.sometimes _ s = x
  have h1 : Sound x.2 := hx ▸ State.sometimes_sound _ hs
  obtain ⟨_, s1⟩ := x
  dsimp only
  generalize hx : State.sometimes _ s1 = x
  have h2 : Sound x.2 := hx ▸ State.sometimes_sound _ h1
  obtain ⟨_, s2⟩ := x
  dsimp only
  generalize hx : State.imageEvents s2 = x
  have h3 : Sound x.2 := hx ▸ State.imageEvents_sound h2
  obtain ⟨_, s3⟩ := x
  dsimp only
  generalize hx : State.onTheWay _ s3 = x
  have h4 : Sound x.2 := hx ▸ State.onTheWay_sound _ h3
  obtain ⟨_, s4⟩ := x
  dsimp only
  generalize hx : State.onTheWay _ s4 = x
  have h5 : Sound x.2 := hx ▸ State.onTheWay_sound _ h4
  obtain ⟨_, s5⟩ := x
  dsimp only
  generalize hx : State.receptions _ s5 = x
  have h6 : Sound x.2 := hx ▸ State.receptions_sound _ h5
  obtain ⟨_, s6⟩ := x
  dsimp only
  exact sound_planned h6

theorem State.tick_sound (hs : Sound s) : Sound s.tick := by
  unfold State.tick
  split
  · have h : Sound ({ s with now := s.now + 1 } : State).hostWrites := State.hostWrites_sound hs
    exact h
  · have h : Sound s.advance.hostWrites.goOnWalks := State.goOnWalks_sound (State.hostWrites_sound (State.advance_sound hs))
    exact State.planEvents_sound (State.bulkFlits_sound (foldl_sound State.retryPacket (fun _ h => State.retryPacket_sound h) _
      (foldl_sound State.retryToken (fun _ h => State.retryToken_sound h) _ h)))

/-! #### The words -/

theorem State.hold_sound (hs : Sound s) {h : Held} : Sound (s.hold h) := hs

theorem State.updLive_sound (hs : Sound s) {f : Arch → Arch} : Sound (s.updLive f) := hs

theorem State.branch_sound (hs : Sound s) {taken pred : Bool} {target : BitVec 32} {link : Arch → Arch} : Sound (s.branch taken pred target link) := hs

theorem State.badTarget_sound (hs : Sound s) : SoundNext s.badTarget := State.illegal_sound hs

theorem execHdr_sound (hs : Sound s) {f : HDR} : SoundNext (execHdr f s) :=
  sound_next (sound_ite (State.updLive_sound hs) (sound_ite (State.hold_sound (State.updLive_sound hs)) (State.updCore_sound (by exact hs))))

theorem execExt_sound (hs : Sound s) {f : EXT} : SoundNext (execExt f s) := sound_next (by exact hs)

theorem execSBr_sound (hs : Sound s) {f : BR} : SoundNext (execSBr f s) :=
  soundNext_ite (State.badTarget_sound hs) (sound_next (State.branch_sound hs))

theorem execSJmp_sound (hs : Sound s) {f : RR} : SoundNext (execSJmp f s) :=
  soundNext_ite (State.illegal_sound hs) (soundNext_ite (State.illegal_sound hs) (soundNext_ite (State.badTarget_sound hs)
    (soundNext_ite (State.raise_sound hs) (sound_next (State.branch_sound hs)))))

theorem execSCall_sound (hs : Sound s) {f : BR} : SoundNext (execSCall f s) :=
  soundNext_ite (State.badTarget_sound hs) (soundNext_ite (State.raise_sound hs) (sound_next (State.branch_sound hs)))

theorem execSRet_sound (hs : Sound s) {f : RR} : SoundNext (execSRet f s) :=
  soundNext_ite (State.illegal_sound hs) (soundNext_ite (State.badTarget_sound hs) (sound_next (State.branch_sound hs)))

theorem execSLoop_sound (hs : Sound s) {f : LP} : SoundNext (execSLoop f s) :=
  State.word_sound hs fun _ h => soundNext_ite (State.raise_sound h) (soundNext_ite (sound_next (State.branch_sound h))
    (soundNext_ite (sound_next (State.branch_sound h)) (sound_next (State.updLive_sound h))))

theorem execSLbrk_sound (hs : Sound s) {f : LP} : SoundNext (execSLbrk f s) :=
  soundNext_ite (State.illegal_sound hs) (sound_next (State.branch_sound hs))

theorem State.pushFlight_sound (hs : Sound s) {d : Dest} {n : Nat} {l : Option Nat} {v : W64} {p : Nat} : Sound (s.pushFlight d n l v p) := hs

theorem execSMtp_sound (hs : Sound s) {f : RR} : SoundNext (execSMtp f s) :=
  State.word_sound hs fun _ h => soundNext_ite (State.raise_sound h) (sound_next (foldl_sound _ (fun _ h => State.pushFlight_sound h) _ h))

theorem execMSt_sound (hs : Sound s) {f : MM} : SoundNext (execMSt f s) :=
  State.word_sound hs fun _ h => State.checked_sound h fun _ h => sound_next (State.localStore_sound _ _ _ h)

theorem execMLdg_sound (hs : Sound s) {f : MM} : SoundNext (execMLdg f s) :=
  State.word_sound hs fun _ h => State.checked_sound h fun _ h => sound_next (State.issueAccess_sound _ _ _ _ _ _ h)

theorem execMStg_sound (hs : Sound s) {f : MM} : SoundNext (execMStg f s) :=
  State.word_sound hs fun _ h => State.checked_sound h fun _ h =>
    sound_next (sound_ite (State.localStore_sound _ _ _ h) (State.issueAccess_sound _ _ _ _ _ _ h))

theorem execMSth_sound (hs : Sound s) {f : MM} : SoundNext (execMSth f s) :=
  State.word_sound hs fun _ h => State.checked_sound h fun _ h =>
    soundNext_ite (State.raise_sound h) (sound_next (State.issueAccess_sound _ _ _ _ _ _ h))

theorem execMAmo_sound (hs : Sound s) {f : MM} : SoundNext (execMAmo f s) :=
  State.word_sound hs fun _ h => State.checked_sound h fun _ h => sound_next (State.issueAccess_sound _ _ _ _ _ _ h)

theorem execVDset_sound (hs : Sound s) {f : VS} : SoundNext (execVDset f s) :=
  State.word_sound hs fun _ h => soundNext_ite (State.raise_sound h) (sound_next (State.noteHeld_sound (by exact h)))

theorem execVDget_sound (hs : Sound s) {f : VS} : SoundNext (execVDget f s) :=
  State.word_sound hs fun _ h => State.result_sound (State.noteHeld_sound h)

theorem execVRstat_sound (hs : Sound s) {f : VS} : SoundNext (execVRstat f s) :=
  State.word_sound hs fun _ h => State.result_sound (State.updLive_sound (State.noteHeld_sound (State.earlyFlags_sound h)))

/-- R193, R241: a sketch's update finds its record at issue. -/
theorem execVSkq_sound (hs : Sound s) {f : VR} : SoundNext (execVSkq f s) := by
  refine State.word_sound hs fun _ h => State.regions_sound h fun _ h => ?_
  dsimp only
  exact State.stream_sound (State.drawCoin_sound (State.touch_sound _ _ (State.touch_sound _ _ h)))

theorem execVSkm_sound (hs : Sound s) {f : VR} : SoundNext (execVSkm f s) := by
  refine State.word_sound hs fun _ h => State.regions_sound h fun _ h => ?_
  dsimp only
  exact State.stream_sound (State.drawCoin_sound (State.touch_sound _ _ (State.touch_sound _ _ h)))

theorem execXLd_sound (hs : Sound s) {f : VR} : SoundNext (execXLd f s) :=
  State.word_sound hs fun _ h => State.regions_sound h fun _ h => State.stream_sound h

theorem execXApp_sound (hs : Sound s) {f : VR} : SoundNext (execXApp f s) := soundNext_ite (State.raise_sound hs) (State.xword_sound hs)

theorem execTMm_sound (hs : Sound s) {f : TQ} : SoundNext (execTMm f s) :=
  State.word_sound hs fun _ h => State.withRecord_sound h fun _ _ h => State.productTrap_sound h fun _ h =>
    State.act_sound h fun _ _ _ h => performProduct_sound h

theorem execTMmg_sound (hs : Sound s) {f : TQ} : SoundNext (execTMmg f s) := by
  have hp : ∀ v r s, Sound s → Sound (performTMmg f v r s) := fun _ _ _ h => performProduct_sound h
  exact State.word_sound hs fun _ h => State.withRecord_sound h fun _ _ h => soundNext_ite (State.act_sound h hp)
    (soundNext_ite (State.raise_sound h) (soundNext_ite (State.raise_sound h)
      (State.productTrap_sound (State.touch_sound _ _ (State.touch_sound _ _ h)) fun _ h => State.act_sound h hp)))

theorem execTZclr_sound (hs : Sound s) {f : TQ} : SoundNext (execTZclr f s) :=
  State.word_sound hs fun _ h => State.withToken_sound h fun _ h => State.act_sound h fun _ _ _ h => performMove_sound h

theorem execTCop_sound (hs : Sound s) {f : TQ} : SoundNext (execTCop f s) :=
  State.word_sound hs fun _ h => State.withRecord_sound h fun _ _ h => State.act_sound h fun _ _ _ h => performTCop_sound h

theorem execASeed_sound (hs : Sound s) {f : TQ} : SoundNext (execASeed f s) :=
  State.word_sound hs fun _ h => State.withPair_sound h fun _ _ h => State.act_sound h fun _ _ _ h => State.acceptA_sound h

theorem execAScl_sound (hs : Sound s) {f : TQ} : SoundNext (execAScl f s) :=
  State.word_sound hs fun _ h => State.withPair_sound h fun _ _ h => State.withRecord_sound h fun _ _ h => State.act_sound h fun _ _ _ h => performAScl_sound h

theorem execAStat_sound (hs : Sound s) {f : TQ} : SoundNext (execAStat f s) :=
  State.word_sound hs fun _ h => State.withPair_sound h fun _ _ h => State.act_sound h fun _ _ _ h => performAStat_sound h

theorem execQCopy_sound (hs : Sound s) {f : TQ} : SoundNext (execQCopy f s) := by
  have hp : ∀ v r s, Sound s → Sound (performQCopy f v r s) := fun _ _ _ h => performQCopy_sound h
  refine State.word_sound hs fun _ h => State.withRecord_sound h fun _ _ h => soundNext_ite (State.act_sound h hp) ?_
  dsimp only
  split
  · exact State.raise_sound h
  · exact State.act_sound h hp

theorem execQPut_sound (hs : Sound s) {f : TQ} : SoundNext (execQPut f s) :=
  State.word_sound hs fun _ h => soundNext_ite (State.illegalHere_sound h) (State.act_sound h fun _ _ _ h => performQPut_sound h)

theorem execQExit_sound (hs : Sound s) {f : TQ} : SoundNext (execQExit f s) :=
  State.word_sound hs fun _ h => sound_next (sound_ite (performQExit_sound h) (sound_ite (by exact h) (State.hold_sound h)))

theorem execQPgreq_sound (hs : Sound s) {f : TQ} : SoundNext (execQPgreq f s) :=
  State.word_sound hs fun _ h => State.withToken_sound h fun _ h =>
    soundNext_ite (State.raise_sound h) (State.act_sound h fun _ _ _ h => performQPgreq_sound h)

theorem execQCarm_sound (hs : Sound s) {f : TQ} : SoundNext (execQCarm f s) := by
  have hp : ∀ v r s, Sound s → Sound (performQCarm f v r s) := fun _ _ _ h => performQCarm_sound h
  exact State.word_sound hs fun _ h => State.ownSlot_sound h fun _ h => soundNext_ite (State.withToken_sound h fun _ h => State.act_sound h hp)
    (State.withRecord_sound h fun _ _ h => State.act_sound h hp)

theorem execQCtrig_sound (hs : Sound s) {f : TQ} : SoundNext (execQCtrig f s) :=
  State.word_sound hs fun _ h => State.ownSlot_sound h fun _ h => State.withToken_sound h fun _ h => State.act_sound h fun _ _ _ h => performQCtrig_sound h

theorem execQCstat_sound (hs : Sound s) {f : TQ} : SoundNext (execQCstat f s) :=
  State.word_sound hs fun _ h => State.ownSlot_sound h fun _ h => State.act_sound h fun _ _ _ h => by exact h

theorem execPEret_sound (hs : Sound s) {f : PV} : SoundNext (execPEret f s) :=
  State.pword_sound hs fun _ h => soundNext_ite (State.illegalHere_sound h) (sound_next (by exact h))

theorem execPCsrr_sound (hs : Sound s) {f : PV} : SoundNext (execPCsrr f s) :=
  State.withCsr_sound hs fun _ _ h => State.result_sound (State.csrRead_sound h)

theorem execPTlbi_sound (hs : Sound s) {f : TQ} : SoundNext (execPTlbi f s) :=
  State.pword_sound hs fun _ h => soundNext_ite (State.raise_sound h) (State.withToken_sound h fun _ h =>
    sound_next (State.updCmd_sound (State.accept_sound h)))

theorem execPHalt_sound (hs : Sound s) {f : TQ} : SoundNext (execPHalt f s) :=
  State.pword_sound hs fun t h => soundNext_ite (State.illegalHere_sound h) (by
    have hc : Sound (t.updCur (fun c => { c with halted := true })) := h
    exact sound_next (sound_ite (by exact hc) (State.updCore_sound hc)))

theorem execPPmt_sound (hs : Sound s) {f : TQ} : SoundNext (execPPmt f s) :=
  State.pword_sound hs fun _ h => soundNext_ite (State.raise_sound h) (soundNext_ite (State.raise_sound h) (State.withToken_sound h fun _ h =>
    sound_next (State.pmt_sound h)))

theorem performQTokst_sound (hs : Sound s) {f : TQ} {v : W64} {recs : List (List Byte)} : Sound (performQTokst f v recs s) := hs

theorem performQSrec_sound (hs : Sound s) {f : TQ} {v : W64} {recs : List (List Byte)} : Sound (performQSrec f v recs s) := hs

theorem performQOffer_sound (hs : Sound s) {f : TQ} {v : W64} {recs : List (List Byte)} : Sound (performQOffer f v recs s) := hs

theorem performQKclr_sound (hs : Sound s) {f : TQ} {v : W64} {recs : List (List Byte)} : Sound (performQKclr f v recs s) := hs

theorem performQDrain_sound (hs : Sound s) {f : TQ} {v : W64} {recs : List (List Byte)} : Sound (performQDrain f v recs s) := hs

theorem performQFence_sound (hs : Sound s) {f : TQ} {v : W64} {recs : List (List Byte)} : Sound (performQFence f v recs s) := hs

theorem performQWaitk_sound (hs : Sound s) {f : TQ} {v : W64} {recs : List (List Byte)} : Sound (performQWaitk f v recs s) := hs

/-! #### Every instruction -/

/-- Whatever a word or an event answers has its store in canonical form. -/
theorem exec_sound (hs : Sound s) (i : Instr) : SoundNext (exec i s) := by
  unfold exec
  cases i with
  | hdr f => exact execHdr_sound hs
  | ext f => exact execExt_sound hs
  | sNop f => exact State.word_sound hs fun _ h => sound_next h
  | sAdd f | sSub f | sMul f | sMulh f | sMulhu f | sDiv f | sDivu f | sRem f | sRemu f | sAnd f | sOr f | sXor f | sAndn f | sShl f | sShr f | sSra f
  | sMin f | sMax f | sMinu f | sMaxu f | sMov f | sClz f | sPopc f | sBfx f =>
    exact State.alu_sound hs
  | sAddi f | sAndi f | sOri f | sXori f | sLi f =>
    exact State.aluImm_sound hs
  | sShli f | sShri f | sSrai f =>
    exact State.shiftImm_sound hs
  | sSel f | sBfi f | sSext f | sRdlc f | sRdid f | sRdtime f | sMfp f => exact State.word_sound hs fun _ h => State.sResult_sound h
  | sRdcoin f => exact State.word_sound hs fun _ h => State.sResult_sound (State.updLive_sound h)
  | sCmp f | sCmpi f | sPlog f => exact State.word_sound hs fun _ h => State.pResult_sound h
  | sBr f => exact execSBr_sound hs
  | sJmp f => exact execSJmp_sound hs
  | sCall f => exact execSCall_sound hs
  | sRet f => exact execSRet_sound hs
  | sLoop f => exact execSLoop_sound hs
  | sLbrk f => exact execSLbrk_sound hs
  | sMtp f => exact execSMtp_sound hs
  | mLd f | mLda f => exact State.word_sound hs fun _ h => State.loadLocal_sound h
  | mSt f => exact execMSt_sound hs
  | mLdg f => exact execMLdg_sound hs
  | mStg f => exact execMStg_sound hs
  | mSth f => exact execMSth_sound hs
  | mAmo f => exact execMAmo_sound hs
  | vDset f => exact execVDset_sound hs
  | vDget f => exact execVDget_sound hs
  | vAdd f | vSub f | vMul f | vFma f | vMax f | vMin f | vAbs f | vNeg f | vCvt f | vCmp f | vSel f | vClip f => exact State.sources_sound hs
  | vScal f | vAxpy f => exact State.scaled_sound hs
  | vAnd f | vOr f | vXor f => exact State.bitwise_sound hs
  | vShl f | vShr f => exact State.shifted_sound hs
  | vRsum f | vRmax f | vRmin f => exact State.reduction_sound hs
  | vFill f | vCpy f | vIota f | vGath f | vScat f | vPerm f | vRdot f | vNfck f | vPgen f | vRscale f | vSkinit f | vSkh f | vSkd f | vSkqq f
  | vSkest f | vSktop f => exact State.vStream_sound hs
  | vRstat f => exact execVRstat_sound hs
  | vSkq f => exact execVSkq_sound hs
  | vSkm f => exact execVSkm_sound hs
  | fExp f | fLog f | fExp2 f | fLog2 f | fRcp f | fRsqrt f | fSqrt f | fTanh f | fSigm f | fGelu f | fSilu f | fSin f | fCos f | fErf f =>
    exact State.fword_sound hs
  | xLd f => exact execXLd_sound hs
  | xApp f => exact execXApp_sound hs
  | xRot f | xBc f | xTr f | xRev f => exact State.xword_sound hs
  | tMm f => exact execTMm_sound hs
  | tMmg f => exact execTMmg_sound hs
  | tLdb f | tZld f | tZst f | tZadd f => exact State.tileMove_sound hs fun _ _ _ h => performMove_sound h
  | tZclr f => exact execTZclr_sound hs
  | tCop f => exact execTCop_sound hs
  | aFwd f | aBwd f | aUpd f | aXfer f | aSymw f | aSymr f | aProg f | aCkpt f =>
    exact State.aWord_sound hs fun _ _ _ h => performA_sound h
  | aGfwd f | aGbwd f | aGupd f => exact State.groupedWord_sound hs fun _ _ _ h => performGrouped_sound h
  | aSeed f => exact execASeed_sound hs
  | aScl f => exact execAScl_sound hs
  | aStat f => exact execAStat_sound hs
  | qCopy f => exact execQCopy_sound hs
  | qTokst f => exact State.word_sound hs fun _ h => State.act_sound h fun _ _ _ h => performQTokst_sound h
  | qSrec f => exact State.word_sound hs fun _ h => State.act_sound h fun _ _ _ h => performQSrec_sound h
  | qDrain f => exact State.word_sound hs fun _ h => State.act_sound h fun _ _ _ h => performQDrain_sound h
  | qFence f => exact State.word_sound hs fun _ h => State.act_sound h fun _ _ _ h => performQFence_sound h
  | qWaitk f => exact State.word_sound hs fun _ h => State.act_sound h fun _ _ _ h => performQWaitk_sound h
  | qOffer f => exact State.word_sound hs fun _ h => State.act_sound h fun _ _ _ h => performQOffer_sound h
  | qKclr f => exact State.word_sound hs fun _ h => State.act_sound h fun _ _ _ h => performQKclr_sound h
  | qPut f => exact execQPut_sound hs
  | qLaunch f => exact State.word_sound hs fun _ h => State.withRecord_sound h fun _ _ h => State.act_sound h fun _ _ _ h => performQLaunch_sound h
  | qGlaunch f => exact State.word_sound hs fun _ h => State.withRecord_sound h fun _ _ h => State.act_sound h fun _ _ _ h => performQGlaunch_sound h
  | qCancel f => exact State.word_sound hs fun _ h => State.act_sound h fun _ _ _ h => performQCancel_sound h
  | qExit f => exact execQExit_sound hs
  | qPgreq f => exact execQPgreq_sound hs
  | qSortc f => exact State.word_sound hs fun _ h => State.withRecord_sound h fun _ _ h => State.act_sound h fun _ _ _ h => performQSortc_sound h
  | qCarm f => exact execQCarm_sound hs
  | qCtrig f => exact execQCtrig_sound hs
  | qCstat f => exact execQCstat_sound hs
  | qHset f => exact State.word_sound hs fun _ h => State.act_sound h fun _ _ _ h => performQHset_sound h
  | pTrap f => exact State.word_sound hs fun _ h => State.raise_sound h
  | pEret f => exact execPEret_sound hs
  | pCsrr f => exact execPCsrr_sound hs
  | pCsrw f | pCsrs f | pCsrc f => exact State.withCsr_sound hs fun _ _ h => sound_next (State.csrWrite_sound h)
  | pTlbi f => exact execPTlbi_sound hs
  | pCtxsv f | pCtxld f => exact State.pword_sound hs fun _ h => State.withRecord_sound h fun _ _ h => State.moveTrap_sound h
  | pHalt f => exact execPHalt_sound hs
  | pPmt f => exact execPPmt_sound hs
  | monitorPowerCall _ => exact execMonitorPowerCall_sound hs
  | monitorPageTableRootCall _ => exact execMonitorPageTableRootCall_sound hs
  | nextPrimaryChoice _ => exact execNextPrimaryChoice_sound hs
  | syncEpisodeResume _ => exact execSyncEpisodeResume_sound hs
  | syncTimeout _ => exact execSyncTimeout_sound hs
  | watchdogExpiry _ => exact execWatchdogExpiry_sound hs
  | streamingCommandCompletion _ => exact execStreamingCommandCompletion_sound hs
  | logMatrixCommandStart _ => exact execLogMatrixCommandStart_sound hs
  | operandFetchDone _ => exact execOperandFetchDone_sound hs
  | logMatrixCommandCompletion _ => exact execLogMatrixCommandCompletion_sound hs
  | adcGroupCommandStart _ _ => exact execAdcGroupCommandStart_sound hs
  | readLatencyExpiry _ _ => exact execReadLatencyExpiry_sound hs
  | arrayCommandCompletion _ _ => exact execArrayCommandCompletion_sound hs
  | operandBufferFillStart _ => exact execOperandBufferFillStart_sound hs
  | copyCompletion _ => exact execCopyCompletion_sound hs
  | engineTranslationFault _ => exact execEngineTranslationFault_sound hs
  | engineEventPost _ => exact execEngineEventPost_sound hs
  | sortCompletion _ => exact execSortCompletion_sound hs
  | drainCompletion _ => exact execDrainCompletion_sound hs
  | fenceCompletion _ => exact execFenceCompletion_sound hs
  | tokenWaitCompletion _ => exact execTokenWaitCompletion_sound hs
  | tlbInvalidationCompletion _ => exact execTlbInvalidationCompletion_sound hs
  | remoteAccessAtTarget _ => exact execRemoteAccessAtTarget_sound hs
  | stageAcknowledgement _ => exact execStageAcknowledgement_sound hs
  | remoteResponseArrival _ => exact execRemoteResponseArrival_sound hs
  | handlerArrival _ => exact execHandlerArrival_sound hs
  | handlerQueueStart _ => exact execHandlerQueueStart_sound hs
  | pipeSpaceFreed _ => exact execPipeSpaceFreed_sound hs
  | unitCompletion _ => exact execUnitCompletion_sound hs
  | unitTransfer _ => exact execUnitTransfer_sound hs
  | completionCountArrival _ => exact execCompletionCountArrival_sound hs
  | imageDataLoad _ => exact execImageDataLoad_sound hs
  | dispatchDecision _ => exact execDispatchDecision_sound hs
  | syncLaunchDispatch _ => exact execSyncLaunchDispatch_sound hs
  | stealClaim _ => exact execStealClaim_sound hs
  | cancelArrival _ _ => exact execCancelArrival_sound hs
  | jobStart _ _ => exact execJobStart_sound hs
  | microBatchTokenArrival _ _ => exact execMicroBatchTokenArrival_sound hs
  | phaseStart _ => exact execPhaseStart_sound hs
  | phaseCompletion _ => exact execPhaseCompletion_sound hs
  | collectiveFiringStart _ => exact execCollectiveFiringStart_sound hs
  | collectiveFiringCompletion _ => exact execCollectiveFiringCompletion_sound hs
  | collectiveTransferArrival _ => exact execCollectiveTransferArrival_sound hs
  | flitReception _ _ _ _ => exact execFlitReception_sound hs
  | refusalReceipt _ _ _ _ => exact execRefusalReceipt_sound hs
  | acknowledgementTimer _ _ _ => exact execAcknowledgementTimer_sound hs
  | replayTimeout _ _ _ => exact execReplayTimeout_sound hs
  | automaticBackOff _ _ => exact execAutomaticBackOff_sound hs
  | laneRetirement _ _ _ _ => exact execLaneRetirement_sound hs
  | linkRateWrite _ _ _ => exact execLinkRateWrite_sound hs
  | mailboxPop _ => exact execMailboxPop_sound hs
  | jobAddressWrite _ _ => exact execJobAddressWrite_sound hs
  | contextFreeze _ _ => exact execContextFreeze_sound hs
  | eventTake _ => exact execEventTake_sound hs
  | contextQuiescence _ => exact execContextQuiescence_sound hs
  | replayInjection _ => exact execReplayInjection_sound hs
  | powerOn => exact execPowerOn_sound hs
  | pcieFundamentalReset => exact execPcieFundamentalReset_sound hs
  | readIdentity => exact execReadIdentity_sound hs
  | attest => exact execAttest_sound hs
  | challenge => exact execChallenge_sound hs
  | unlock => exact execUnlock_sound hs
  | relock => exact execRelock_sound hs
  | enterRma => exact execEnterRma_sound hs
  | provision => exact execProvision_sound hs
  | createPartition => exact execCreatePartition_sound hs
  | destroyPartition => exact execDestroyPartition_sound hs
  | reassignCluster => exact execReassignCluster_sound hs
  | setPairOwner => exact execSetPairOwner_sound hs
  | powerRequest => exact execPowerRequest_sound hs
  | dieReset => exact execDieReset_sound hs
  | warmStart => exact execWarmStart_sound hs
  | recoveryImage => exact execRecoveryImage_sound hs
  | debugHalt => exact execDebugHalt_sound hs
  | debugStep => exact execDebugStep_sound hs
  | debugResume => exact execDebugResume_sound hs
  | traceOn => exact execTraceOn_sound hs
  | traceOff => exact execTraceOff_sound hs
  | debugFreeze => exact execDebugFreeze_sound hs
  | uncorrectableError _ => exact execUncorrectableError_sound hs
  | correctedError _ => exact execCorrectedError_sound hs
  | branchResolution _ => exact execBranchResolution_sound hs
  | linkRetrainCompletion _ _ _ => exact execLinkRetrainCompletion_sound hs
  | flitTransmission _ _ _ => exact execFlitTransmission_sound hs
  | returnToP0 _ _ => exact execReturnToP0_sound hs
  | hostCxlMemAccess _ _ _ _ _ => exact execHostCxlMemAccess_sound hs

/-! #### Issue -/

/-- Whatever run an outcome answers, its state has its store in canonical form. -/
def SoundRun (o : Host.Outcome (State × List Trap) Fault Refusal) : Prop := ∀ x, o = .next x → Sound x.1

theorem soundRun_next (hs : Sound s) {ts : List Trap} : SoundRun (.next (s, ts)) := fun _ e => by cases e; exact hs

theorem soundRun_fault (r : Fault) : SoundRun (.fault r) := fun _ e => by cases e

theorem soundRun_refused (r : Refusal) : SoundRun (.refused r) := fun _ e => by cases e

theorem State.begin_sound (hs : Sound s) {k : Nat} {b : Bundle} {sec : Bool} : Sound (s.begin k b sec) := hs

theorem State.take_sound (hs : Sound s) {w : BWord} {off : Nat → Nat} : Sound (s.take w off) := hs

theorem sound_iss (hs : Sound s) {i : Iss} : Sound { s with iss := i } := hs

theorem runExts_sound : ∀ (ps : List (BitVec 27)) {s : State}, Sound s → SoundNext (runExts ps s)
  | [], _, hs => sound_next hs
  | p :: ps, s, hs => by
    have h := exec_sound hs (.ext { c := false, pay := p })
    unfold runExts
    split
    · rename_i t heq
      exact runExts_sound ps (h t heq)
    · exact soundNext_fault _
    · exact soundNext_refused _

theorem runWord_sound (hs : Sound s) {off : Nat → Nat} {w : BWord} : SoundNext (runWord off w s) := by
  have h := runExts_sound w.exts (State.take_sound hs (w := w) (off := off))
  unfold runWord
  split
  · rename_i t heq
    exact exec_sound (h t heq) _
  · exact soundNext_fault _
  · exact soundNext_refused _

theorem runWords_sound {off : Nat → Nat} : ∀ (ws : List BWord) (ts : List Trap) {s : State}, Sound s → SoundRun (runWords off ws ts s)
  | [], _, _, hs => soundRun_next hs
  | w :: ws, ts, s, hs => by
    have h := runWord_sound hs (off := off) (w := w)
    unfold runWords
    split
    · rename_i t heq
      split
      · exact runWords_sound ws _ (sound_ite (State.updLive_sound hs) hs)
      · exact runWords_sound ws _ (h t heq)
    · exact soundRun_fault _
    · exact soundRun_refused _

theorem State.stepAgain_sound (hs : Sound s) : Sound s.stepAgain := sound_ite hs hs

theorem State.finish_sound (hs : Sound s) {b : Bundle} : Sound (s.finish b) :=
  State.stepAgain_sound (State.traceBundle_sound _ (sound_ite (State.updLive_sound hs) hs))

theorem State.takeTrap_sound (hs : Sound s) {t : Trap} : Sound (s.takeTrap t) := sound_of_mem hs (s.takeTrap_mem t)

theorem State.trapAt_sound (hs : Sound s) {k : Nat} {start : BitVec 32} {t : Trap} : Sound (s.trapAt k start t) :=
  sound_ite (State.killRun_sound (sound_iss hs)) (State.takeTrap_sound (sound_iss hs))

theorem conclude_sound (hs : Sound s) {k : Nat} {b : Bundle} : ∀ {o : Host.Outcome (State × List Trap) Fault Refusal}, SoundRun o → SoundNext (conclude k b s o)
  | .next (t, ts), h => by
    unfold conclude
    dsimp only
    split
    · exact sound_next (State.trapAt_sound hs)
    · exact sound_next (State.finish_sound (h _ rfl))
  | .fault _, _ => soundNext_fault _
  | .refused _, _ => soundNext_refused _

theorem issueOne_sound (hs : Sound s) {k : Nat} {b : Bundle} {sec : Bool} {off : Nat → Nat} : SoundNext (issueOne k b sec off s) :=
  conclude_sound hs (runWords_sound _ _ (State.begin_sound hs))

theorem thenRun_sound {f : State → Out} (hf : ∀ t, Sound t → SoundNext (f t)) : ∀ {r : Host.Outcome (State × List Trap) Fault Refusal}, SoundRun r →
    SoundNext (thenRun r f)
  | .next (t, _), h => hf t (h _ rfl)
  | .fault _, _ => soundNext_fault _
  | .refused _, _ => soundNext_refused _

theorem runBoth_sound (hs : Sound s) {off : Nat → Nat} {w1 w2 : List BWord} {i1 i2 : Iss} {go : Iss → Iss → State → Out}
    (hg : ∀ i j t, Sound t → SoundNext (go i j t)) : SoundNext (runBoth off w1 w2 i1 i2 s go) :=
  thenRun_sound (fun _ h => thenRun_sound (fun _ h => hg _ _ _ h) (runWords_sound _ _ (sound_iss h))) (runWords_sound _ _ (sound_iss hs))

/-- What an outcome's next state goes on with. -/
theorem soundNext_bind {o : Out} {f : State → State} (ho : SoundNext o) (hf : ∀ t, Sound t → Sound (f t)) :
    SoundNext (match (generalizing := false) o with
      | .next t => .next (f t)
      | r => r) := by
  cases o with
  | next t => exact sound_next (hf t (ho t rfl))
  | fault r => exact ho
  | refused r => exact ho

theorem issueTwo_sound (hs : Sound s) {k1 k2 : Nat} {b1 b2 : Bundle} : SoundNext (issueTwo k1 b1 k2 b2 s) := by
  have h2 : Sound ((s.begin k1 b1 false).begin k2 b2 true) := State.begin_sound (State.begin_sound hs)
  unfold issueTwo
  dsimp only
  split
  · exact soundNext_bind (issueOne_sound hs) fun _ h => State.trapAt_sound h
  · have hgo : ∀ (i1 i2 : Iss) (t : State), Sound t → SoundNext (runBoth (fun c => b1.count c) (phases b1 (· == 1)) (phases b2 (· == 1)) i1 i2 t
        (fun i1 i2 s => runBoth (fun c => b1.count c) (phases b1 (· == 2)) (phases b2 (· == 2)) i1 i2 s (fun i1 i2 s =>
          thenRun (runWords noOffset (phases b1 (fun n => decide (3 ≤ n))) [] { s with iss := i1 }) (fun s =>
            thenRun (runWords (fun c => b1.count c) (phases b2 (fun n => decide (3 ≤ n))) [] { (s.finish b1) with iss := i2 })
              (fun s => .next (s.finish b2)))))) := fun _ _ _ h =>
      runBoth_sound h fun _ _ _ h => runBoth_sound h fun _ _ _ h => thenRun_sound (fun _ h => thenRun_sound (fun _ h => sound_next (State.finish_sound h))
        (runWords_sound _ _ (sound_iss (State.finish_sound h)))) (runWords_sound _ _ (sound_iss h))
    split
    · exact runBoth_sound h2 hgo
    · exact thenRun_sound (fun _ h => thenRun_sound (fun _ h => hgo _ _ _ h) (runWords_sound _ _ (sound_iss h))) (runWords_sound _ _ h2)

theorem issueAlone_sound (hs : Sound s) {core primary : Nat} : SoundNext (issueAlone core primary s) := by
  unfold issueAlone
  split
  · exact sound_next hs
  · dsimp only
    split
    · exact soundNext_ite (issueOne_sound hs) (sound_next hs)
    · exact sound_next (sound_ite (State.trapAt_sound hs) hs)
    · exact sound_next hs

theorem issueStage_sound (hs : Sound s) {core : Nat} : SoundNext (issueStage core s) := by
  have alone : ∀ {p : Nat}, SoundNext (issueAlone core p s) := issueAlone_sound hs
  refine soundNext_ite alone ?_
  split
  · exact alone
  · exact soundNext_bind alone fun _ h => State.trapAt_sound h
  · exact soundNext_bind alone fun _ h => sound_ite h (State.arrive_sound h)
  · split
    · exact soundNext_bind alone fun _ h => State.trapAt_sound h
    · split
      · exact issueOne_sound hs
      · split
        · exact soundNext_ite (issueTwo_sound hs) (issueOne_sound hs)
        · exact soundNext_bind (issueOne_sound hs) fun _ h => sound_ite (State.trapAt_sound h) h
        · exact issueOne_sound hs

theorem State.closeHeads_sound (hs : Sound s) {ts : List (Nat × BitVec 32 × Trap)} : Sound (s.closeHeads ts) :=
  foldl_sound _ (fun _ h => sound_ite h (State.trapAt_sound h)) _ hs

theorem issueCore_sound (hs : Sound s) {core : Nat} : SoundNext (issueCore core s) :=
  soundNext_bind (issueStage_sound hs) fun _ h => State.closeHeads_sound h

/-! #### A step -/

theorem step_sound (hs : Sound s) : SoundNext (step s) := by
  unfold step
  split
  · refine soundNext_ite (exec_sound (by exact hs) _) ?_
    split
    · exact issueCore_sound (by exact hs)
    · exact exec_sound (by exact hs) _
  · split
    · exact issueCore_sound (by exact hs)
    · exact sound_next (State.tick_sound hs)

end

/-- Settles O59: every function that a step calls keeps the store in canonical form, from the operations on the store up to the instructions, the issue
of bundles and the clock. -/
theorem stepKeepsSound : Obligations.StepKeepsSound := by
  unfold Obligations.StepKeepsSound
  intro s t hs h
  exact step_sound hs t h

end Sys2Proof.Machine

/-! PROOF. What a local load delivers (O18). -/

namespace Sys2Proof.Machine

open Sys2Proof.Cert

/-! ### Numbers that are loaded (R1, R178) -/

/-- R1: the bits of the number that stands in the store are those of its bytes, least significant first. -/
theorem Memory.testBit_num (m : Memory) (a n j : Nat) : (m.num a n).testBit j = (decide (j < 8 * n) && (m.read (a + j / 8)).getLsbD (j % 8)) := by
  rw [Memory.num, testBit_ofBytes, Memory.readN]
  by_cases hj : j < 8 * n
  · rw [List.getD_eq_getElem _ _ (by simp; omega), List.getElem_map, List.getElem_range, decide_eq_true hj, Bool.true_and]
  · rw [List.getD_eq_default _ _ (by simp; omega), decide_eq_false hj, Bool.false_and]
    exact BitVec.getLsbD_zero

theorem Memory.num_lt (m : Memory) (a n : Nat) : m.num a n < 2 ^ (8 * n) :=
  Nat.lt_pow_two_of_testBit _ fun j hj => by rw [m.testBit_num, decide_eq_false (by omega), Bool.false_and]

/-- R178: a load's value is the number in the store, extended as the word says. -/
theorem isLoaded_loadValue (m : Memory) (a : Nat) {n : Nat} (h0 : 0 < n) (h8 : n ≤ 8) (sx : Bool) :
    IsLoaded m a n sx (loadValue sx n (BitVec.ofNat 64 (m.num a n))) := by
  have hlt := m.num_lt a n
  have hmod : (BitVec.ofNat 64 (m.num a n)).toNat = m.num a n := by
    rw [BitVec.toNat_ofNat, Nat.mod_eq_of_lt (hlt.trans_le (Nat.pow_le_pow_right (by omega) (by omega)))]
  intro j hj
  cases sx with
  | false =>
    rw [loadValue, if_neg (by decide), zextLow, hmod, Nat.mod_eq_of_lt hlt, BitVec.getLsbD_ofNat, decide_eq_true hj, m.testBit_num, Bool.false_and, Bool.true_and]
    by_cases hn : j < 8 * n <;> simp [hn]
  | true =>
    have hx : (BitVec.ofNat (8 * n) (m.num a n)).toNat = m.num a n := by rw [BitVec.toNat_ofNat, Nat.mod_eq_of_lt hlt]
    have hext : sextLow (BitVec.ofNat 64 (m.num a n)) (8 * n) = (BitVec.ofNat (8 * n) (m.num a n)).signExtend 64 := by
      rw [← sextLow_toNat (by omega), hx]
    rw [loadValue, if_pos rfl, hext, BitVec.getLsbD_signExtend, decide_eq_true hj, Bool.true_and, Bool.true_and, BitVec.msb_eq_getLsbD_last,
      BitVec.getLsbD_ofNat, BitVec.getLsbD_ofNat, m.testBit_num, m.testBit_num]
    have h1 : (8 * n - 1) / 8 = n - 1 := by omega
    have h2 : (8 * n - 1) % 8 = 7 := by omega
    have h3 : a + (n - 1) = a + n - 1 := by omega
    rw [h1, h2, h3]
    by_cases hn : j < 8 * n <;> simp [hn]
    omega

/-! ### What a read leaves with its reader (R85) -/

/-- R85: a read changes of a context only whose writes it has seen. -/
theorem State.observe_ctx (s : State) (k t : Nat) (ids : List Nat) (j : Nat) : ∃ xs, (s.observe k t ids).ctx j = { s.ctx j with seen := xs } := by
  unfold State.observe
  split
  · exact ⟨_, rfl⟩
  · by_cases hj : j = k
    · subst hj
      exact ⟨_, State.ctx_updCtx_same _ _ _⟩
    · exact ⟨_, State.ctx_updCtx_other _ _ hj⟩

theorem State.observe_eq (s : State) (k t : Nat) (ids : List Nat) : ∃ xs, s.observe k t ids = { s with ctxs := xs } := by
  unfold State.observe
  split <;> exact ⟨_, rfl⟩

theorem State.observe_iss (s : State) (k t : Nat) (ids : List Nat) : (s.observe k t ids).iss = s.iss := by
  obtain ⟨xs, h⟩ := s.observe_eq k t ids
  rw [h]

/-- R85: the context in hand changes only in whose writes it has seen. -/
theorem State.observe_cur (s : State) (k t : Nat) (ids : List Nat) : ∃ xs, (s.observe k t ids).cur = { s.cur with seen := xs } := by
  rw [State.cur, State.key, s.observe_iss]
  exact s.observe_ctx k t ids s.key

theorem State.observe_others (s : State) (k t : Nat) (ids : List Nat) : SameOthers k s (s.observe k t ids) := by
  intro j hj
  unfold State.observe
  split
  · rfl
  · exact State.ctx_updCtx_other _ _ hj

/-- R118: what a context sees of the store stays. -/
theorem State.view_observe (s : State) (k t : Nat) (ids : List Nat) (j : Nat) : (s.observe k t ids).view j = s.view j := by
  obtain ⟨xs, h⟩ := s.observe_ctx k t ids j
  rw [State.view, State.view, s.observe_mem, h]
  rfl

/-! ### Results in flight -/

theorem State.key_eq {s t : State} (h : t.iss = s.iss) : t.key = s.key := by rw [State.key, State.key, h]

theorem State.pushFlight_ctx_key (s : State) (d : Dest) (lat : Nat) (l : Option Nat) (v : W64) (p : Nat) : (s.pushFlight d lat l v p).ctx s.key =
    { s.cur with live := { s.cur.live with flights := s.cur.live.flights ++
      [{ rem := lat, dst := d, latch := if s.iss.sec then none else l, val := v, prio := p }] } } := State.ctx_updCtx_same _ _ _

theorem State.pushFlight_ctx_other (s : State) {d : Dest} {lat : Nat} {l : Option Nat} {v : W64} {p j : Nat} (h : j ≠ s.key) :
    (s.pushFlight d lat l v p).ctx j = s.ctx j := State.ctx_updCtx_other _ _ h

/-- A result in flight changes only the live state of a context. -/
theorem State.pushFlight_ctx (s : State) (d : Dest) (lat : Nat) (l : Option Nat) (v : W64) (j : Nat) :
    ∃ a, (s.pushFlight d lat l v).ctx j = { s.ctx j with live := a } := by
  by_cases hj : j = s.key
  · subst hj
    exact ⟨_, s.pushFlight_ctx_key _ _ _ _ _⟩
  · exact ⟨_, s.pushFlight_ctx_other hj⟩

/-! ### The loads -/

/-- R178: an address below the core window reads the store. -/
theorem State.readAt_store {s : State} {a : Nat} (ha : gsaOff a < 0x700000) (m : Memory) (fmt : Nat → Nat) (n : Nat) :
    s.readAt m fmt a n = BitVec.ofNat 64 (m.num a n) := if_neg (by omega)

/-- R178, R179: a local load whose address passes its checks and whose result collides with none puts the value its context sees in flight. -/
theorem State.loadLocal_eq {s : State} {f : MM} {a : W64} {lat : Nat} (hq : Quiet s) (hslot : s.iss.slot ≤ 1) (ha : LocalOk s a (2 ^ f.sz.toNat))
    (hcol : s.cur.live.collides (destOf f.reg f.nw) lat = false) :
    s.loadLocal f a lat = .next ((s.observe s.key s.iss.when_ (s.tagsOf (keyCore s.key) (gsaOf s.iss.core a.toNat) (2 ^ f.sz.toNat))).pushFlight
      (destOf f.reg f.nw) lat (some (2 + s.iss.slot))
      (loadValue f.sx (2 ^ f.sz.toNat) (BitVec.ofNat 64 ((s.view s.key).num (gsaOf s.iss.core a.toNat) (2 ^ f.sz.toNat))))) := by
  obtain ⟨hc, hn, hlt⟩ := ha
  have hoff : gsaOff (gsaOf s.iss.core a.toNat) < 0x700000 := by rw [gsaOff_gsaOf (by omega)]; exact hlt
  unfold State.loadLocal
  generalize hids : s.tagsOf (keyCore s.key) (gsaOf s.iss.core a.toNat) (2 ^ f.sz.toNat) = ids
  obtain ⟨xs, hcur⟩ := s.observe_cur s.key s.iss.when_ ids
  rw [if_neg (by rw [show (if f.nw then Dest.none else Dest.g f.reg.toNat) = destOf f.reg f.nw from rfl, hcol]; decide)]
  simp only [State.checked, accessBytes, State.accessCause_local hc hn hlt .load, accessKey, Bool.false_eq_true, if_false,
    s.localRead_quiet hq, hids, State.readAt_store hoff, s.view_observe]
  rw [State.mLatch, s.observe_iss]
  exact State.result_free _ (by rw [hcur]; exact hcol) (fun h => by simp only [Option.some.injEq] at h; omega)

/-- Settles O18: both forms of a local load put the value their context sees in flight, and no other part of the state changes. -/
theorem localLoads : Obligations.LocalLoads := by
  unfold Obligations.LocalLoads
  intro s f hq hslot hx i a lat hi he ha hcol
  have hexec : exec i s = s.loadLocal f a lat := by
    obtain ⟨rfl, rfl, rfl⟩ | ⟨rfl, rfl, rfl⟩ := hi
    · show execMLd f s = _
      rw [execMLd, State.word_executes he, State.effAddr_eq hx]
    · show execMLda f s = _
      rw [execMLda, State.word_executes he, State.indexAddr, indexed, accessBytes, BitVec.mul_comm]
  have h8 : 2 ^ f.sz.toNat ≤ 8 := Nat.pow_le_pow_right (n := 2) (by omega) (Nat.le_of_lt_succ f.sz.isLt)
  have hloaded := isLoaded_loadValue (s.view s.key) (gsaOf s.iss.core a.toNat) (Nat.two_pow_pos _) h8 f.sx
  rw [hexec, State.loadLocal_eq hq hslot ha hcol]
  generalize loadValue f.sx _ _ = v at hloaded ⊢
  generalize s.tagsOf _ _ _ = ids
  obtain ⟨xs, hcur⟩ := s.observe_cur s.key s.iss.when_ ids
  have hiss := s.observe_iss s.key s.iss.when_ ids
  have hseen := s.observe_ctx s.key s.iss.when_ ids
  have hothers := s.observe_others s.key s.iss.when_ ids
  have hkept := (s.observe_kept s.key s.iss.when_ ids).trans (State.pushFlight_kept _ (destOf f.reg f.nw) lat (some (2 + s.iss.slot)) v 0)
  generalize s.observe s.key s.iss.when_ ids = u at hcur hiss hseen hothers hkept ⊢
  have hkey : u.key = s.key := State.key_eq hiss
  refine ⟨_, v, rfl, hloaded, ?live, hkept.memory, fun j hj => ?others, hkept.arrays, hkept.shared, fun j => ?specials⟩
  case live =>
    rw [← hkey, State.pushFlight_ctx_key, hcur, hiss]
  case others =>
    rw [State.pushFlight_ctx_other u (hkey ▸ hj)]
    exact hothers j hj
  case specials =>
    obtain ⟨ys, hseen⟩ := hseen j
    obtain ⟨l, hlive⟩ := u.pushFlight_ctx (destOf f.reg f.nw) lat (some (2 + s.iss.slot)) v j
    rw [hlive, hseen]
    exact .refl _

end Sys2Proof.Machine

/-! PROOF. Accesses of other cores' scratchpads enter the request table (O21). -/

namespace Sys2Proof.Machine

open Sys2Proof.Cert

/-! ### Stages that hold no access which meets the bytes of another (R81, R82) -/

/-- R81: an access that is stored to nowhere ahead of it enters a stage as it is. -/
theorem State.forward_of_clear {s : State} {m : Msg} (h : m.kind = .load → s.aheadOf m = []) : s.forward m = m := by
  unfold State.forward
  cases hk : m.kind with
  | load => simp [h hk]
  | store => rfl
  | amo af cmp => rfl
  | sth pc => rfl

/-- The access `m` as it enters stage `st` at time `t`. -/
def Msg.entered (m : Msg) (st : Stage) (t : Nat) : Msg := { m with stage := st, due := t + stageDelay m.core (gsaCore m.addr) st }

/-- R82: an access that enters a stage and finds there nothing to take its value from is the youngest access. -/
theorem State.enterStage_of_clear {s : State} {m : Msg} {st : Stage} {t : Nat}
    (h : m.kind = .load → State.aheadOf { s with msgs := s.msgs.filter (fun x => x.id != m.id) ++ [m.entered st t] } (m.entered st t) = []) :
    s.enterStage m st t = { s with msgs := s.msgs.filter (fun x => x.id != m.id) ++ [m.entered st t] } := by
  have hf := State.forward_of_clear (s := { s with msgs := s.msgs.filter (fun x => x.id != m.id) ++ [m.entered st t] }) (m := m.entered st t) h
  unfold State.enterStage
  dsimp only
  rw [show ({ m with stage := st, due := t + stageDelay m.core (gsaCore m.addr) st } : Msg) = m.entered st t from rfl, hf]

/-! ### Checks of an address of another core (R70, R180) -/

/-- R70: an aligned access to the scratchpad of another core of the partition passes. -/
theorem State.accessCause_remote {s : State} {a v : W64} {n : Nat} (h : RemoteOk s a n) (op : AccessOp) : s.accessCause true s.iss.core a n op v = none := by
  obtain ⟨hlt, hn, hc, hcore, hoff, hpart⟩ := h
  unfold State.accessCause
  simp only [if_true]
  rw [if_neg (by omega), if_neg (by simp [hc]), if_neg (by simp; omega), if_neg (by simp; omega), if_neg (by simp [hpart])]

/-- An access that passes its checks is made. -/
theorem State.checked_passes {s : State} {gl : Bool} {a v : W64} {n : Nat} {op : AccessOp} (h : s.accessCause gl s.iss.core a n op v = none) (body : State → Out) :
    s.checked gl a n op v body = body s := by
  rw [State.checked, h]

/-! ### The access that is sent -/

/-- Every access under way is of another core, and none has the number that is next. -/
abbrev State.NoneOwn (s : State) : Prop := s.msgs.all (fun m => m.id < s.nextId && m.core != s.iss.core) = true

/-- The access that the context in hand sends, as it stands in the request table. -/
def State.sentMsg (s : State) (kind : MsgKind) (a n : Nat) (v : W64) (sx : Bool) (q : Nat) : Msg :=
  ({ (s.newMsg kind a n v sx q).1 with cov := s.cur.released } : Msg).entered .table (min s.now s.iss.when_)

/-- R81: an access to another core enters the request table, and nothing else happens yet. -/
theorem State.issueAccess_remote {s : State} (hs : Settled s) (ho : s.NoneOwn) (kind : MsgKind) {a : Nat} (hcore : gsaCore a ≠ s.iss.core) (n : Nat) (v : W64)
    (sx : Bool) (q : Nat) : s.issueAccess kind a n v sx q = { s with nextId := s.nextId + 1, msgs := s.msgs ++ [s.sentMsg kind a n v sx q] } := by
  have hother : ∀ x ∈ s.msgs, x.id < s.nextId ∧ x.core ≠ s.iss.core := fun x hx => by simpa using List.all_eq_true.mp ho x hx
  have hrest : s.msgs.filter (fun x => x.id != s.nextId) = s.msgs :=
    List.filter_eq_self.mpr fun x hx => by simpa using (hother x hx).1.ne
  have hahead : State.aheadOf { s with nextId := s.nextId + 1, msgs := s.msgs ++ [s.sentMsg kind a n v sx q] } (s.sentMsg kind a n v sx q) = [] := by
    refine List.filter_eq_nil_iff.mpr fun x hx => ?_
    have hid : x.id ≠ (s.sentMsg kind a n v sx q).id := by simpa using List.mem_takeWhile_imp hx
    have hmem : x ∈ s.msgs := by
      rcases List.mem_append.mp ((List.takeWhile_sublist _).subset hx) with h | h
      · exact h
      · exact absurd (congrArg Msg.id (List.mem_singleton.mp h)) hid
    have hne : (s.iss.core == x.core) = false := by simpa using (hother x hmem).2.symm
    show ¬(sameStage (s.sentMsg kind a n v sx q) x && _) = true
    rw [show sameStage (s.sentMsg kind a n v sx q) x = (Stage.table == x.stage && s.iss.core == x.core) from rfl, hne, Bool.and_false, Bool.false_and]
    exact Bool.false_ne_true
  unfold State.issueAccess State.newMsg State.freshId
  dsimp only
  refine (if_neg (Bool.eq_false_iff.mp hs)).trans ?_
  refine (if_neg hcore).trans ?_
  refine (State.enterStage_of_clear fun _ => ?_).trans ?_
  · show State.aheadOf { s with nextId := s.nextId + 1, msgs := s.msgs.filter (fun x => x.id != s.nextId) ++ [s.sentMsg kind a n v sx q] } (s.sentMsg kind a n v sx q) = []
    rw [hrest, hahead]
  · show ({ s with nextId := s.nextId + 1, msgs := s.msgs.filter (fun x => x.id != s.nextId) ++ [s.sentMsg kind a n v sx q] } : State) = _
    rw [hrest]

/-- What is sent, and that nothing else is done, is the statement's form. -/
theorem sends_of_exec {s : State} {i : Instr} {kind : MsgKind} {a v : W64} {n q : Nat} {sx : Bool}
    (h : exec i s = .next { s with nextId := s.nextId + 1, msgs := s.msgs ++ [s.sentMsg kind a.toNat n v sx q] }) : Sends s i kind a n q v sx := by
  refine ⟨_, _, h, rfl, rfl, rfl, rfl, rfl, rfl, rfl, rfl, rfl, ?_, rfl, rfl, fun _ => rfl, fun _ => .refl _, .refl s, .refl s, fun _ => .refl _⟩
  show (zextLow v (8 * n)).toNat = _
  rw [zextLow, BitVec.toNat_ofNat]
  exact Nat.mod_eq_of_lt (lt_of_le_of_lt (Nat.mod_le _ _) v.isLt)

/-- Settles O21: each of the four words passes its checks and sends its access. -/
theorem remoteAccesses : Obligations.RemoteAccesses := by
  unfold Obligations.RemoteAccesses
  intro s f hs hx ho
  dsimp only
  refine ⟨fun he ha => sends_of_exec ?load, fun he ha => sends_of_exec ?store, fun he ha => sends_of_exec ?atomic, fun he ha hlt hpc => sends_of_exec ?handler⟩ <;>
    obtain ⟨-, -, -, hcore, -, -⟩ := id ha
  case load =>
    show execMLdg f s = _
    rw [execMLdg, State.word_executes he, State.effAddr_eq hx, accessBytes, State.checked_passes (State.accessCause_remote ha .load),
      State.issueAccess_remote hs ho _ hcore, queueOf]
  case store =>
    show execMStg f s = _
    rw [execMStg, State.word_executes he, State.effAddr_eq hx, accessBytes, State.checked_passes (State.accessCause_remote ha .store), if_neg hcore,
      State.issueAccess_remote hs ho _ hcore]
  case atomic =>
    show execMAmo f s = _
    rw [execMAmo, State.word_executes he, accessBytes, State.checked_passes (State.accessCause_remote ha .atomic),
      State.issueAccess_remote hs ho _ hcore, queueOf, amoOp, amoReg]
  case handler =>
    have hok : handlerOk (s.cur.live.readG f.off.toNat) = true := by simp only [handlerOk, hlt, hpc, decide_true, beq_self_eq_true, Bool.and_self]
    show execMSth f s = _
    rw [execMSth, State.word_executes he, accessBytes, State.checked_passes (State.accessCause_remote ha .store), if_neg (by rw [hok]; decide),
      State.issueAccess_remote hs ho _ hcore]

end Sys2Proof.Machine

/-! PROOF. Remote accesses perform, move from stage to stage and return (O23). -/

namespace Sys2Proof.Machine

open Sys2Proof.Cert

/-! ### What keeps every context -/

theorem sameRegisters_of_ctxs {s t : State} (h : t.ctxs = s.ctxs) : SameRegisters s t := fun k => by
  rw [State.ctx_congr h]
  exact .refl _

theorem sameSpecials_of_ctxs {s t : State} (h : t.ctxs = s.ctxs) : SameSpecials s t := fun k => by
  rw [State.ctx_congr h]
  exact .refl _

theorem sameMemory_of_mem {s t : State} (h : t.mem = s.mem) : SameMemory s t := fun a => by rw [h]

/-! ### Performing at the target (R81, R179, R181) -/

/-- The access `m`, performed at time `t` on its own die, as it is on its way back. -/
def Msg.answered (m : Msg) (t : Nat) : Msg :=
  { m with stage := .done, due := t + (if gsaCore m.addr = m.core then 3 else stageDelay m.core (gsaCore m.addr) .done), home := true, way := 0, here := none }

theorem State.respond_answered (s : State) {m : Msg} (hd : dieOf (gsaCore m.addr) = dieOf m.core) :
    s.respond m = s.updMsg m.id (fun _ => m.answered (s.now + 1)) := by
  have haway : (dieOf (gsaCore m.addr) != dieOf m.core) = false := by simp [hd]
  unfold State.respond
  simp only [haway, Bool.false_eq_true, if_false, Bool.not_false]
  rfl

/-- `m`, performed over the store of `s`, leaves the store `mem`, takes the value `v`, and changes no access and no context. -/
def PerformsTo (s : State) (m : Msg) (mem : Memory) (v : W64) : Prop :=
  ∀ fmt, ∃ u ids, s.performLocal m s.mem fmt = (u, { m with stage := .done, val := v, ids := ids }) ∧ u.mem = mem ∧ u.msgs = s.msgs ∧ u.ctxs = s.ctxs

theorem State.performsTo_store {s : State} {m : Msg} (hk : m.kind = .store) (hq : Quiet s) (ho : gsaOff m.addr < 0x400000) :
    PerformsTo s m (s.mem.writeN m.addr (bytesOf m.size m.data.toNat)) m.val := fun fmt => by
  obtain ⟨tg, cs, fr, h⟩ := State.performStore_eq hq (show gsaOff m.addr < 0x700000 by omega) m.size m.data m.cov
  refine ⟨s.performStore m.addr m.size m.data m.cov, m.ids, ?_, by rw [h], by rw [h], by rw [h]⟩
  rw [State.performLocal, hk]

theorem State.performsTo_load {s : State} {m : Msg} (hk : m.kind = .load) (ho : gsaOff m.addr < 0x400000) :
    PerformsTo s m s.mem (BitVec.ofNat 64 (s.mem.num m.addr m.size)) := fun fmt =>
  ⟨s, _, by rw [State.performLocal, hk, State.readAt_store (by omega)], rfl, rfl, rfl⟩

theorem State.performsTo_amo {s : State} {m : Msg} {af : Nat} {cmp : W64} (hk : m.kind = .amo af cmp) (hq : Quiet s) :
    PerformsTo s m (amoMemory s.mem m.addr m.size af m.data cmp).2 (amoMemory s.mem m.addr m.size af m.data cmp).1 := fun fmt => by
  obtain ⟨cs, fr, hb⟩ := s.beforeWrite_rest m.addr m.size
  obtain ⟨tg, ht⟩ := State.tagBytes_eq { s with mem := (amoMemory s.mem m.addr m.size af m.data cmp).2, cmds := cs, free := fr } m.addr m.size m.cov
  refine ⟨{ s with mem := (amoMemory s.mem m.addr m.size af m.data cmp).2, tags := tg, cmds := cs, free := fr },
    State.tagsOf { s with cmds := cs, free := fr } m.core m.addr m.size, ?_, rfl, rfl, rfl⟩
  rw [State.performLocal, hk]
  simp only [s.touch_quiet hq, hb, ht]

/-- R81: an access at its target performs, and its answer is under way. -/
theorem exec_remoteAccessAtTarget {s : State} {m : Msg} (hm : s.msg? m.id = some m) (hq : Quiet s) (hk : ∀ pc, m.kind ≠ .sth pc)
    (hat : s.atTarget m = true) (hd : dieOf (gsaCore m.addr) = dieOf m.core) {mem : Memory} {v : W64} (hp : PerformsTo s m mem v) :
    ∃ t x, exec (.remoteAccessAtTarget m.id) s = .next t ∧ t.msg? m.id = some x ∧ x.stage = .done ∧ x.val = v ∧ t.mem = mem ∧
      SameRegisters s t ∧ SameSpecials s t := by
  obtain ⟨u, ids, hu, hmem, hmsgs, hctxs⟩ := hp (fun n => (look 0 (s.core (gsaCore m.addr)).fmt n).toNat)
  have hexec : exec (.remoteAccessAtTarget m.id) s = .next (u.respond { m with stage := .done, val := v, ids := ids }) := by
    show execRemoteAccessAtTarget m.id s = _
    unfold execRemoteAccessAtTarget
    simp only [hm, hat, if_true, s.touch_quiet hq, hu]
  rw [State.respond_answered (m := { m with stage := .done, val := v, ids := ids }) u hd] at hexec
  exact ⟨_, _, hexec, State.msg?_updMsg ((State.msg?_congr hmsgs _).trans hm) (fun _ _ => rfl), rfl, rfl, hmem,
    sameRegisters_of_ctxs hctxs, sameSpecials_of_ctxs hctxs⟩

/-! ### Moving between stages (R81, R82) -/

/-- Accesses that meet none of the bytes of `m` are not ahead of it, whatever stage it enters. -/
theorem State.aheadOf_of_disjoint (s : State) (m : Msg) (h : ∀ x ∈ s.msgs, x.id ≠ m.id → m.addr + m.size ≤ x.addr ∨ x.addr + x.size ≤ m.addr) :
    s.aheadOf m = [] := by
  refine List.filter_eq_nil_iff.mpr fun x hx => ?_
  have hid : x.id ≠ m.id := by simpa using List.mem_takeWhile_imp hx
  have hdis := h x ((List.takeWhile_sublist _).subset hx) hid
  have : overlaps m.addr m.size x.addr x.size = false := by
    rw [overlaps, Bool.and_eq_false_iff, decide_eq_false_iff_not, decide_eq_false_iff_not]
    omega
  rw [this, Bool.and_false]
  exact Bool.false_ne_true

/-- An access that stands behind the others is found by its number. -/
theorem find?_behind (ms : List Msg) (m x : Msg) (h : x.id = m.id) :
    (ms.filter (fun y => y.id != m.id) ++ [x]).find? (fun y => y.id == m.id) = some x := by
  rw [List.find?_append, List.find?_eq_none.mpr fun y hy => by simpa using (List.mem_filter.mp hy).2]
  simp [h]

/-- R82: an access that may leave its stage at its time enters the next. -/
theorem exec_stageAcknowledgement_moves {s : State} {m : Msg} {st : Stage} (hm : s.msg? m.id = some m)
    (hst : (m.stage = .table ∧ st = .cluster) ∨ (m.stage = .cluster ∧ st = .ring)) (hl : s.mayLeave m = true)
    (hf : (s.die (dieOf (gsaCore m.addr))).failed = false) : exec (.stageAcknowledgement m.id) s = .next (s.enterStage m st (s.now + 1)) := by
  show execStageAcknowledgement m.id s = _
  unfold execStageAcknowledgement
  obtain ⟨h, rfl⟩ | ⟨h, rfl⟩ := hst <;>
    simp only [hm, hf, h, hl, Bool.false_and, Bool.false_eq_true, if_false, Bool.not_true, show (Stage.table == Stage.done) = false from rfl,
      show (Stage.table == Stage.far) = false from rfl, show (Stage.cluster == Stage.done) = false from rfl,
      show (Stage.cluster == Stage.far) = false from rfl]

/-! ### Returning (R81, R181, R315) -/

theorem State.msg?_dropMsg (s : State) (id : Nat) : (s.dropMsg id).msg? id = none :=
  List.find?_eq_none.mpr fun x hx => by simpa using (List.mem_filter.mp hx).2

/-- R81: the acknowledgement of a store of the die's incarnation frees its entry. -/
theorem exec_stageAcknowledgement_frees {s : State} {m : Msg} (hm : s.msg? m.id = some m) (hst : m.stage = .done) (hh : m.home = true) (hk : m.kind = .store)
    (hdue : m.due ≤ s.now + 1) (hno : m.noHandler = false) (hf : (s.die (dieOf (gsaCore m.addr))).failed = false)
    (hinc : m.inc = (s.die (dieOf m.core)).inc.toNat) : exec (.stageAcknowledgement m.id) s = .next (s.dropMsg m.id) := by
  have hover : s.overflow m = s := if_neg (by rw [hno]; exact Bool.false_ne_true)
  have hstore : m.isStore = true := by rw [Msg.isStore, hk]
  show execStageAcknowledgement m.id s = _
  unfold execStageAcknowledgement
  simp only [hm, hf, hst, hh, hstore, decide_eq_true hdue, if_pos hinc, hover, beq_self_eq_true, Bool.false_and, Bool.false_eq_true, if_false, if_true,
    Bool.not_true, Bool.and_self]

section
variable {s : State} {m : Msg} (hm : s.msg? m.id = some m) (hst : m.stage = .done) (hh : m.home = true)
  (hk : m.kind = .load ∨ ∃ af cmp, m.kind = .amo af cmp) (hdue : m.due ≤ s.now + 1)
include hst hh hk hdue

/-- An answer that has come back with a value. -/
theorem Msg.answer_due : (m.stage == .done && m.home && m.returns && decide (m.due ≤ s.now + 1)) = true := by
  have hret : m.returns = true := by
    obtain hk | ⟨af, cmp, hk⟩ := hk <;> rw [Msg.returns, hk]
  rw [hst, hh, hret, decide_eq_true hdue]
  rfl

include hm

/-- R315: the answer of another incarnation is dropped and counted. -/
theorem exec_remoteResponseArrival_stale (hinc : m.inc ≠ (s.die (dieOf m.core)).inc.toNat) :
    exec (.remoteResponseArrival m.id) s = .next (s.staleResponse m) := by
  show execRemoteResponseArrival m.id s = _
  unfold execRemoteResponseArrival
  simp only [hm, Msg.answer_due hst hh hk hdue, if_pos hinc, if_true]

/-- R81, R181: the answer that is next in its queue goes to the queue's end, and the context has seen what it saw. -/
theorem exec_remoteResponseArrival_delivers (hinc : m.inc = (s.die (dieOf m.core)).inc.toNat) (hnext : s.nextInQueue m = true)
    (hhas : has s.ctxs m.dest = true) :
    exec (.remoteResponseArrival m.id) s = .next (((s.dropMsg m.id).updCtx m.dest
      (fun c => c.mapArch (fun a => a.enqueue m.queue (loadValue m.sx m.size m.val)))).observe m.dest m.at_ m.ids) := by
  show execRemoteResponseArrival m.id s = _
  unfold execRemoteResponseArrival
  simp only [hm, Msg.answer_due hst hh hk hdue, if_neg (not_not.mpr hinc), hnext, if_true, Bool.not_true, Bool.false_eq_true, if_false,
    show has (s.dropMsg m.id).ctxs m.dest = true from hhas]

end

theorem State.msg?_observe (s : State) (k t : Nat) (ids : List Nat) (id : Nat) : (s.observe k t ids).msg? id = s.msg? id := by
  obtain ⟨xs, h⟩ := s.observe_eq k t ids
  rw [h]
  rfl

/-- Settles O23: one lemma for what an access does at its target, one for each way it moves on, one for each way its answer arrives. -/
theorem accessesMove : Obligations.AccessesMove := by
  unfold Obligations.AccessesMove
  intro s m hm hq
  refine ⟨fun hk hat ho hw _ hd => ?store, fun hk hat ho hd => ?load, fun af cmp hk hat _ hd => ?atomic, fun st hst hl hf hdis => ?moves,
    fun hst hh hk hdue hno hf hinc => ?frees, fun hst hh hk hdue hinc hnext hhas => ?delivers, fun hst hh hk hdue hinc => ?stale⟩
  case store =>
    obtain ⟨t, x, hexec, hx, hstage, -, hmem, hregs, hspec⟩ :=
      exec_remoteAccessAtTarget hm hq (by simp [hk]) hat hd (State.performsTo_store hk hq ho)
    refine ⟨t, hexec, fun j hj => ?_, fun c hc => ?_, ⟨x, hx, hstage⟩, hregs, hspec⟩
    · rw [hmem, Memory.read_writeN_at _ _ _ hw (by rwa [length_bytesOf]), getElem_bytesOf]
    · rw [hmem, Memory.read_writeN_other _ _ (by rwa [length_bytesOf])]
  case load =>
    obtain ⟨t, x, hexec, hx, hstage, hval, hmem, hregs, hspec⟩ := exec_remoteAccessAtTarget hm hq (by simp [hk]) hat hd (State.performsTo_load hk ho)
    exact ⟨t, x, hexec, hx, hstage, hval, sameMemory_of_mem hmem, hregs, hspec⟩
  case atomic =>
    exact exec_remoteAccessAtTarget hm hq (by simp [hk]) hat hd (State.performsTo_amo hk hq)
  case moves =>
    have henter := State.enterStage_of_clear (s := s) (m := m) (st := st) (t := s.now + 1) fun hk =>
      State.aheadOf_of_disjoint _ _ fun x hx hid => by
        rcases List.mem_append.mp hx with h | h
        · exact hdis hk x (List.mem_filter.mp h).1 hid
        · exact absurd (congrArg Msg.id (List.mem_singleton.mp h)) hid
    refine ⟨_, m.entered st (s.now + 1), (exec_stageAcknowledgement_moves hm hst hl hf).trans (congrArg _ henter), find?_behind s.msgs m _ rfl, rfl, rfl, rfl, rfl,
      fun _ => rfl, fun _ => .refl _⟩
  case frees =>
    exact ⟨_, exec_stageAcknowledgement_frees hm hst hh hk hdue hno hf hinc, s.msg?_dropMsg _, fun _ => rfl, fun _ => .refl _⟩
  case delivers =>
    refine ⟨_, exec_remoteResponseArrival_delivers hm hst hh hk hdue hinc hnext hhas, (State.msg?_observe _ _ _ _ _).trans (s.msg?_dropMsg _), ?_,
      sameMemory_of_mem (State.observe_mem _ _ _ _)⟩
    obtain ⟨xs, hctx⟩ := State.observe_ctx ((s.dropMsg m.id).updCtx m.dest
      (fun c => c.mapArch (fun a => a.enqueue m.queue (loadValue m.sx m.size m.val)))) m.dest m.at_ m.ids m.dest
    rw [hctx, State.ctx_updCtx_same]
    exact look_put_same _ _ _ _
  case stale =>
    exact ⟨_, exec_remoteResponseArrival_stale hm hst hh hk hdue hinc, s.msg?_dropMsg _,
      congrArg Die.stale (State.die_updDie_same (s.dropMsg m.id) _ _), fun _ => rfl, fun _ => .refl _⟩

end Sys2Proof.Machine

/-! PROOF. Drains and fences hold their context until its accesses are done with (O41). -/

namespace Sys2Proof.Machine

open Sys2Proof.Cert

/-! ### The words -/

/-- The context in hand, with its drain or fence, whose status is under way and whose completion is due. -/
def State.draining (s : State) (d : DrainW) (e : Instr) : State :=
  { (s.updCur (fun c => { c with drain := some d })).status prioQ 0 with agenda := e :: s.agenda }

theorem State.ctx_draining (s : State) (d : DrainW) (e : Instr) : (s.draining d e).ctx s.key =
    { s.cur with drain := some d, live := { s.cur.live with flights := s.cur.live.flights ++ [statusFlight s 2 0] } } := by
  refine ((s.updCur (fun c => { c with drain := some d })).ctx_status prioQ 0).trans ?_
  rw [s.cur_updCur]
  rfl

theorem State.draining_onlyStatus (s : State) (d : DrainW) (e : Instr) : OnlyStatus s (s.draining d e) 2 0 := by
  refine ⟨congrArg Ctx.live (s.ctx_draining d e), fun _ => rfl, fun j hj => ?_, fun _ => ⟨rfl, rfl, rfl, rfl⟩, .refl s⟩
  exact ((s.updCur (fun c => { c with drain := some d })).ctx_status_other prioQ 0 j hj).trans (State.ctx_updCtx_other _ _ hj)

theorem exec_qDrain {s : State} {f : TQ} (hs : Settled s) (he : Executes (.qDrain f) f.g s) :
    exec (.qDrain f) s = .next (s.draining { scope := f.sub.toNat % 8, fence := false, at_ := s.iss.when_ } (.drainCompletion s.key)) := by
  show execQDrain f s = _
  rw [execQDrain, State.word_executes he, State.act_now hs]
  rfl

theorem exec_qFence {s : State} {f : TQ} (hs : Settled s) (he : Executes (.qFence f) f.g s) :
    exec (.qFence f) s = .next (s.draining { scope := f.sub.toNat % 8, fence := true, at_ := s.iss.when_ } (.fenceCompletion s.key)) := by
  show execQFence f s = _
  rw [execQFence, State.word_executes he, State.act_now hs]
  rfl

/-! ### What a drain waits for (R87, R88) -/

section
variable {s : State} {k : Nat} {d : DrainW} {m : Msg}

theorem State.drained_iff : s.drained k d = true ↔
    (∀ m ∈ s.cover k d, m.covered s.now d.scope (keyCore k) = true) ∧
      (d.fence = true → ∀ m ∈ s.msgs, m.dest = k → m.at_ < d.at_ → m.returns = false) := by
  have hfence : (!d.fence || !s.msgs.any (fun m => m.dest == k && m.returns && decide (m.at_ < d.at_))) = true ↔
      (d.fence = true → ∀ m ∈ s.msgs, m.dest = k → m.at_ < d.at_ → m.returns = false) := by
    cases d.fence with
    | false => simp
    | true =>
      simp only [Bool.not_true, Bool.false_or, Bool.not_eq_true', List.any_eq_false, Bool.and_eq_true, beq_iff_eq, decide_eq_true_eq, forall_const]
      exact forall₂_congr fun m _ => ⟨fun h hd ha => by simpa [hd, ha] using h, fun h ⟨⟨hd, hr⟩, ha⟩ => by simp [h hd ha] at hr⟩
  rw [State.drained, Bool.and_eq_true, List.all_eq_true, hfence]

/-- R87: a drain covers the earlier writes of its context, and no others where the context's reads returned none that is under way. -/
theorem State.mem_cover (hm : m ∈ s.msgs) : m ∈ s.cover k d ↔
    m.kind ≠ .load ∧ ((m.dest = k ∧ m.at_ < d.at_) ∨ ∃ x ∈ (s.ctx k).seen, x.1 = m.id ∧ x.2 < d.at_) := by
  simp only [State.cover, List.mem_filter, hm, true_and, Bool.and_eq_true, Bool.or_eq_true, bne_iff_ne, beq_iff_eq, decide_eq_true_eq, List.any_eq_true]

/-- R81, R87: a write is done with beyond the stage that its scope ends at (log 60). -/
theorem Msg.covered_of_beyond {now scope core : Nat} (hc : m.core = core)
    (h : (m.stage = .table ∧ scope = 0) ∨ (m.stage = .cluster ∧ scope ≤ 1) ∨ ((m.stage = .ring ∨ m.stage = .far) ∧ scope ≤ 2)) :
    m.covered now scope core = true := by
  obtain ⟨h, hn⟩ | ⟨h, hn⟩ | ⟨h | h, hn⟩ := h <;> simp [Msg.covered, h, hc, hn]

/-- R81, R87: a store is not done with while it stands at a stage within its scope. -/
theorem Msg.not_covered_within {now scope core : Nat} (hk : m.kind = .store) (hc : m.core = core) (hp : m.paid = false)
    (h : (m.stage = .table ∧ 1 ≤ scope) ∨ (m.stage = .cluster ∧ 2 ≤ scope) ∨ ((m.stage = .ring ∨ m.stage = .far ∨ m.stage = .done) ∧ 3 ≤ scope)) :
    m.covered now scope core = false := by
  have hstore : m.isStore = true := by rw [Msg.isStore, hk]
  obtain ⟨h, hn⟩ | ⟨h, hn⟩ | ⟨h | h | h, hn⟩ := h
  case inr.inr.inr.inr =>
    have h0 : scope ≠ 0 := by omega
    have h1 : scope ≠ 1 := by omega
    have h2 : scope ≠ 2 := by omega
    simp [Msg.covered, h, hc, hp, hstore, h0, h1, h2]
  all_goals simp [Msg.covered, h, hc, hp]; omega

/-! ### Their end -/

/-- A context that no released word waits in goes on at once. -/
theorem State.goOn_empty {s : State} (h : (s.ctx k).rest = []) : s.goOn k = s.updCtx k (fun c => { c with rest := [] }) := by
  rw [State.goOn, h]
  rfl

theorem State.endDrain_goOn (s : State) (hr : (s.ctx k).rest = []) : let t := (s.endDrain k).goOn k
    (t.ctx k).drain = none ∧ (t.ctx k).live = (s.ctx k).live ∧ SameMemory s t ∧ SameOthers k s t := by
  dsimp only
  unfold State.endDrain
  rw [State.goOn_empty (by rw [State.ctx_updCtx_same]; exact hr), State.ctx_updCtx_same, State.ctx_updCtx_same]
  exact ⟨rfl, rfl, fun _ => rfl, fun j hj => (State.ctx_updCtx_other _ _ hj).trans (State.ctx_updCtx_other _ _ hj)⟩

/-- The completion of a drain or a fence. -/
def DrainW.completion (d : DrainW) (k : Nat) : Instr := if d.fence then .fenceCompletion k else .drainCompletion k

theorem exec_completion_ends (hd : (s.ctx k).drain = some d) (he : (s.ctx k).eret = none) (hdone : s.drained k d = true) :
    exec (d.completion k) s = .next ((s.endDrain k).goOn k) := by
  cases hf : d.fence with
  | true =>
    rw [DrainW.completion, if_pos hf]
    show execFenceCompletion k s = _
    simp only [execFenceCompletion, hd, hf, hdone, Bool.and_self, if_true]
  | false =>
    rw [DrainW.completion, if_neg (by rw [hf]; exact Bool.false_ne_true)]
    show execDrainCompletion k s = _
    simp only [execDrainCompletion, hd, hf, hdone, he, Bool.not_true, Bool.or_self, Bool.false_eq_true, if_false]

theorem exec_completion_waits (hd : (s.ctx k).drain = some d) (hdone : s.drained k d = false) : exec (d.completion k) s = .next s := by
  cases hf : d.fence with
  | true =>
    rw [DrainW.completion, if_pos hf]
    show execFenceCompletion k s = _
    simp only [execFenceCompletion, hd, hdone, Bool.and_false, Bool.false_eq_true, if_false]
  | false =>
    rw [DrainW.completion, if_neg (by rw [hf]; exact Bool.false_ne_true)]
    show execDrainCompletion k s = _
    simp only [execDrainCompletion, hd, hdone, Bool.not_false, Bool.or_true, if_true]

end

/-- Settles O41: what the words set up, and what `State.drained` says of the accesses that let the completion end it or hold it. -/
theorem drains : Obligations.Drains := by
  unfold Obligations.Drains
  refine ⟨fun s f hs x hx he => ?words, fun s k d hd he hr hfree => ?ends, fun s k d m hd hm hdest hat hblocks => ?waits⟩
  case words =>
    rw [List.mem_cons, List.mem_singleton] at hx
    obtain rfl | rfl := hx
    · exact ⟨_, exec_qDrain hs he, congrArg Ctx.drain (s.ctx_draining _ _), rfl, s.draining_onlyStatus _ _⟩
    · exact ⟨_, exec_qFence hs he, congrArg Ctx.drain (s.ctx_draining _ _), rfl, s.draining_onlyStatus _ _⟩
  case ends =>
    have hdone : s.drained k d = true := by
      refine State.drained_iff.mpr ⟨fun m hm => ?_, fun hf m hm hdest hat => ((hfree m hm).2 hdest hat).1 hf⟩
      have hmem : m ∈ s.msgs := (List.mem_filter.mp hm).1
      obtain ⟨hk, ⟨hdest, hat⟩ | ⟨x, hx, hid, -⟩⟩ := (State.mem_cover hmem).mp hm
      · obtain ⟨hcore, hstage⟩ := ((hfree m hmem).2 hdest hat).2 hk
        exact Msg.covered_of_beyond hcore hstage
      · exact absurd hid ((hfree m hmem).1 x hx)
    obtain ⟨hdrain, hlive, hmemory, hothers⟩ := s.endDrain_goOn hr
    exact ⟨_, exec_completion_ends hd he hdone, hdrain, hlive, hmemory, hothers⟩
  case waits =>
    refine exec_completion_waits hd (Bool.eq_false_iff.mpr fun hdone => ?_)
    obtain ⟨hcover, hfence⟩ := State.drained_iff.mp hdone
    obtain ⟨hk, hcore, hpaid, hstage⟩ | ⟨hf, hk⟩ := hblocks
    · have hin : m ∈ s.cover k d := (State.mem_cover hm).mpr ⟨by simp [hk], .inl ⟨hdest, hat⟩⟩
      exact absurd (hcover m hin) (by rw [Msg.not_covered_within hk hcore hpaid hstage]; exact Bool.false_ne_true)
    · have hret := hfence hf m hm hdest hat
      obtain hk | ⟨af, cmp, hk⟩ := hk <;> simp [Msg.returns, hk] at hret

end Sys2Proof.Machine

/-! PROOF. Requests for pages, and the events of the dies (O43). -/

namespace Sys2Proof.Machine

open Sys2Proof.Cert

/-! ### The word -/

section
variable {s : State} {f : TQ} (he : Executes (.qPgreq f) f.g s) (htok : s.tokFull f.kw f.k.toNat = false)
include he htok

theorem exec_qPgreq_far (hva : 2 ^ 57 ≤ (s.value f.sp).toNat) : exec (.qPgreq f) s = s.raise 6 causeTranslation (s.value f.sp) := by
  show execQPgreq f s = _
  rw [execQPgreq, State.word_executes he, State.withToken, htok]
  exact if_pos hva

theorem exec_qPgreq_acts (hs : Settled s) (hva : (s.value f.sp).toNat < 2 ^ 57) :
    exec (.qPgreq f) s = .next (performQPgreq f (s.value f.sp) [] s) := by
  show execQPgreq f s = _
  rw [execQPgreq, State.word_executes he, State.withToken, htok]
  exact (if_neg (Nat.not_le.mpr hva)).trans (State.act_now hs _ _ _ _)

end

/-! ### The three answers (R76, R197) -/

/-- R197: the token of a request is armed, and the request has its number. -/
def State.pageArmed (s : State) (k : Nat) : State := s.freshId.2.armTok s.key k

/-- R197: a request for a page that has a mapping, as a command under way. -/
def State.pageCmd (s : State) (k : Nat) (va : W64) (done : Nat) : Cmd :=
  { id := s.nextId, core := s.iss.core, h := s.iss.h, kind := .pgreq va, tok := some k, st := .running, born := s.now, rem := 2, done := done }

def State.pageRequested (s : State) (k : Nat) (va : W64) (done : Nat) : State := { s.pageArmed k with cmds := s.cmds ++ [s.pageCmd k va done] }

/-- R197: the request `id` for the page at `va`, which waits for its event to be posted, holds its Q slot. -/
def State.holdsPage (s : State) (va : W64) (id : Nat) : State := s.updCur (fun c => { c with pgq := some (va, id) })

/-- Room for one more event of a die (R377). -/
def State.eventRoom (s : State) (die : Nat) : Prop := (s.die die).events + (s.die die).evwait.length < 64

/-- The event of a request joins the die's waiting events. -/
def State.pageReported (s : State) (va : W64) (k id src : Nat) : State := s.engineEvent (dieOf s.iss.core) (s.pageEvent va k id src)

/-- R197, R377: the event of a request names the address, the token, the context and the request. -/
theorem State.pageReported_event (s : State) (va : W64) (k id src : Nat) :
    ∃ e, ((s.pageReported va k id src).die (dieOf s.iss.core)).evwait = (s.die (dieOf s.iss.core)).evwait ++ [e] ∧ e.cause = 7 ∧ e.src = src ∧ e.tval = va ∧
      e.tok = k ∧ e.core = s.iss.core ∧ e.h = s.iss.h ∧ e.kind = 4 ∧ e.cmd = some id :=
  ⟨s.pageEvent va k id src, congrArg Die.evwait (State.die_updDie_same s _ (fun d => { d with evwait := d.evwait ++ [s.pageEvent va k id src] })),
    rfl, rfl, rfl, rfl, rfl, rfl, rfl, rfl⟩

section
variable {s : State} {f : TQ} {va : W64} {l : Leaf}

theorem performQPgreq_resident (hw : s.walk ((s.partOf s.iss.core).getD 16) va.toNat = some l) (hl : l.res = true) :
    performQPgreq f va [] s = (s.pageRequested f.k.toNat va 1).status prioQ 1 := by
  simp only [performQPgreq, hw, hl, if_true]
  rfl

theorem performQPgreq_absent (hw : s.walk ((s.partOf s.iss.core).getD 16) va.toNat = some l) (hl : l.res = false) (hroom : s.eventRoom (dieOf s.iss.core)) :
    performQPgreq f va [] s = ((s.pageRequested f.k.toNat va 0).pageReported va f.k.toNat s.nextId 2).status prioQ 0 := by
  have hfull : decide (64 ≤ (s.die (dieOf s.iss.core)).events + (s.die (dieOf s.iss.core)).evwait.length) = false :=
    decide_eq_false (Nat.not_le.mpr hroom)
  simp only [performQPgreq, hw, hl, hfull, Bool.false_eq_true, if_false]
  rfl

/-- R76, R197: a request without a mapping ends at once, its token signalled with `err`. -/
def State.pageFailed (s : State) (k : Nat) (va : W64) : State :=
  (((s.pageArmed k).endTok s.key k false false true).status prioQ 0).pageReported va k s.nextId 1

theorem performQPgreq_unmapped (hw : s.walk ((s.partOf s.iss.core).getD 16) va.toNat = none) :
    performQPgreq f va [] s = s.pageFailed f.k.toNat va ∨ performQPgreq f va [] s = (s.pageFailed f.k.toNat va).holdsPage va s.nextId := by
  simp only [performQPgreq, hw]
  split
  · exact .inr rfl
  · exact .inl rfl

end

/-! ### What they leave of the context -/

theorem token_putTok (c : Ctx) (ts : SMap Token) (k : Nat) (t : Token) : ({ c with tok := put ts k t } : Ctx).token k = t := look_put_same _ _ _ _

/-- `t` differs from `s` in the context in hand by tokens alone, of which `k` is now `tk`. -/
structure TokenSet (s t : State) (k : Nat) (tk : Token) : Prop where
  iss : t.iss = s.iss
  ctx : ∃ ts, t.ctx s.key = { s.cur with tok := put ts k tk }
  others : SameOthers s.key s t

/-- R185: the token that is armed counts one more. -/
theorem State.tokenSet_pageArmed (s : State) (k : Nat) : TokenSet s (s.pageArmed k) k { s.cur.token k with cnt := (s.cur.token k).cnt + 1 } :=
  ⟨rfl, ⟨s.cur.tok, State.ctx_updCtx_same _ _ _⟩, fun _ hj => State.ctx_updCtx_other _ _ hj⟩

/-- R76: the token that is armed and signalled at once with `err` counts as before. -/
theorem State.tokenSet_failed (s : State) (k : Nat) :
    TokenSet s ((s.pageArmed k).endTok s.key k false false true) k { s.cur.token k with err := true } := by
  obtain ⟨-, ⟨ts, hctx⟩, hothers⟩ := s.tokenSet_pageArmed k
  refine ⟨rfl, ⟨put ts k { s.cur.token k with cnt := (s.cur.token k).cnt + 1 }, ?_⟩, fun j hj => (State.ctx_endTok_other _ _ _ _ _ hj).trans (hothers j hj)⟩
  unfold State.endTok
  rw [State.ctx_updCtx_same, hctx]
  dsimp only
  rw [token_putTok]
  simp only [Nat.add_sub_cancel, Bool.or_false, Bool.or_true]

/-- A word that answers with a status after it set a token. -/
theorem TokenSet.status {s t : State} {k : Nat} {tk : Token} (h : TokenSet s t k tk) (prio : Nat) (v : W64) :
    ((t.status prio v).ctx s.key).live = { s.cur.live with flights := s.cur.live.flights ++ [statusFlight s prio v] } ∧
      ((t.status prio v).ctx s.key).token k = tk ∧ SameOthers s.key s (t.status prio v) := by
  obtain ⟨hiss, ⟨ts, hctx⟩, hothers⟩ := h
  have hkey : t.key = s.key := State.key_eq hiss
  have hcur : t.cur = { s.cur with tok := put ts k tk } := by rw [State.cur, hkey, hctx]
  refine ⟨?_, ?_, fun j hj => (t.ctx_status_other prio v j (hkey ▸ hj)).trans (hothers j hj)⟩
  · rw [← hkey, t.ctx_status, hcur, statusFlight, statusFlight, hiss]
  · rw [← hkey, t.ctx_status, hcur]
    exact look_put_same _ _ _ _

theorem State.die_of_dies {s t : State} (h : t.dies = s.dies) (d : Nat) : t.die d = s.die d := by
  unfold State.die
  rw [h]

/-- R76, R197: what a request without a mapping leaves. -/
structure PageFails (s t : State) (k : Nat) (va : W64) : Prop where
  cmds : t.cmds = s.cmds
  token : (t.ctx s.key).token k = { s.cur.token k with err := true }
  event : ∃ e, (t.die (dieOf s.iss.core)).evwait = (s.die (dieOf s.iss.core)).evwait ++ [e] ∧ e.cause = 7 ∧ e.src = 1 ∧ e.tval = va
  memory : SameMemory s t
  others : SameOthers s.key s t

theorem State.pageFailed_fails (s : State) (k : Nat) (va : W64) : PageFails s (s.pageFailed k va) k va := by
  obtain ⟨-, htoken, hothers⟩ := (s.tokenSet_failed k).status prioQ 0
  have hdies : (((s.pageArmed k).endTok s.key k false false true).status prioQ 0).dies = s.dies := rfl
  have hcore : (((s.pageArmed k).endTok s.key k false false true).status prioQ 0).iss.core = s.iss.core := rfl
  have hcmds : (((s.pageArmed k).endTok s.key k false false true).status prioQ 0).cmds = s.cmds := rfl
  have hmem : (((s.pageArmed k).endTok s.key k false false true).status prioQ 0).mem = s.mem := rfl
  unfold State.pageFailed
  generalize ((s.pageArmed k).endTok s.key k false false true).status prioQ 0 = r at *
  obtain ⟨e, hev, hcause, hsrc, htval, -⟩ := r.pageReported_event va k s.nextId 1
  rw [hcore, State.die_of_dies hdies] at hev
  exact ⟨hcmds, htoken, ⟨e, hev, hcause, hsrc, htval⟩, sameMemory_of_mem hmem, hothers⟩

/-- Holding its Q slot changes of a request only that. -/
theorem PageFails.holds {s t : State} {k : Nat} {va : W64} (h : PageFails s t k va) (hkey : t.key = s.key) (id : Nat) : PageFails s (t.holdsPage va id) k va := by
  obtain ⟨hcmds, htoken, hevent, hmemory, hothers⟩ := h
  refine ⟨hcmds, ?_, hevent, hmemory, fun j hj => (State.ctx_updCtx_other _ _ (hkey ▸ hj)).trans (hothers j hj)⟩
  rw [← hkey] at htoken ⊢
  exact (congrArg (Ctx.token · k) (t.ctx_updCtx_same _ _)).trans htoken

/-! ### Events that are posted (R377) -/

/-- The context that held its Q slot until its event was posted goes on. -/
def State.unholdPage (s : State) (k : Nat) : State := (s.updCtx k (fun c => { c with pgq := none })).goOn k

theorem State.unholdPage_eq {s : State} {k : Nat} (hr : (s.ctx k).rest = []) :
    s.unholdPage k = s.updCtx k (fun c => { c with pgq := none, rest := [] }) := by
  rw [State.unholdPage, State.goOn_empty (by rw [State.ctx_updCtx_same]; exact hr), State.updCtx_updCtx]

theorem sameRegisters_updCtx (s : State) (k : Nat) (f : Ctx → Ctx) (h : SameRegs (s.ctx k).live (f (s.ctx k)).live) : SameRegisters s (s.updCtx k f) := fun j => by
  by_cases hj : j = k
  · subst hj
    rw [State.ctx_updCtx_same]
    exact h
  · rw [State.ctx_updCtx_other _ _ hj]
    exact .refl _

/-- A request that held its Q slot goes on, and nothing but contexts changes, of which no register. -/
theorem State.posted_eq {s : State} (hr : ∀ k, (s.ctx k).rest = []) (e : PendEv) : ∃ xs, s.posted e = { s with ctxs := xs } ∧ SameRegisters s (s.posted e) := by
  have hstay : ∃ xs, s = { s with ctxs := xs } ∧ SameRegisters s s := ⟨s.ctxs, rfl, fun _ => .refl _⟩
  have hunhold : ∀ k, ∃ xs, s.unholdPage k = { s with ctxs := xs } ∧ SameRegisters s (s.unholdPage k) := fun k => by
    rw [State.unholdPage_eq (hr k)]
    exact ⟨_, rfl, sameRegisters_updCtx _ _ _ (.refl _)⟩
  unfold State.posted
  cases e.cmd with
  | none => exact hstay
  | some id =>
    dsimp only
    generalize ctxKey e.core e.h = k
    cases s.cmd? id with
    | none => by_cases h : (((s.ctx k).pgq.map Prod.snd) == some id) = true
              · rw [if_pos h]; exact hunhold k
              · rw [if_neg h]; exact hstay
    | some x => by_cases h : (((s.ctx (ctxKey x.core x.h)).pgq.map Prod.snd) == some id) = true
                · rw [if_pos h]; exact hunhold _
                · rw [if_neg h]; exact hstay

theorem State.posted_frees {s : State} (hr : ∀ k, (s.ctx k).rest = []) {e : PendEv} {id : Nat} {va : W64} (he : e.cmd = some id) (hc : s.cmd? id = none)
    (hp : (s.ctx (ctxKey e.core e.h)).pgq = some (va, id)) : ((s.posted e).ctx (ctxKey e.core e.h)).pgq = none := by
  have hposted : s.posted e = s.unholdPage (ctxKey e.core e.h) := by
    simp only [State.posted, he, hc, hp, Option.map_some, beq_self_eq_true, if_true]
    rfl
  rw [hposted, State.unholdPage_eq (hr _), State.ctx_updCtx_same]

/-- R377: a die of the package, where the oldest waiting event finds room, posts it. -/
theorem exec_engineEventPost {s : State} {d : Nat} {e : PendEv} {es : List PendEv} (hd : d < 4) (hw : (s.die d).evwait = e :: es)
    (hroom : (s.die d).events < 64) :
    exec (.engineEventPost d) s = .next ((s.updDie d (fun x => { x with evq := x.evq ++ [e], evwait := es })).posted e) := by
  show execEngineEventPost d s = _
  simp only [execEngineEventPost, if_neg (show ¬5 ≤ d by omega), if_neg (show ¬d = 4 by omega), hw, if_pos hroom]

/-- Settles O43: one lemma for each answer of the word, and one for the posting of an event. -/
theorem pageRequests : Obligations.PageRequests := by
  unfold Obligations.PageRequests
  refine ⟨fun s f hs he htok _ => ⟨fun hva hu => ?far, fun l hva hw hl => ?resident, fun l hva hw hl hroom => ?absent, fun hva hw => ?unmapped⟩,
    fun s d e es hd hw hroom hr => ?posts⟩
  case far => exact trapsWith_of_raise hs hu (exec_qPgreq_far he htok hva)
  case resident =>
    have hset : TokenSet s (s.pageRequested f.k.toNat (s.value f.sp) 1) f.k.toNat _ :=
      ⟨rfl, (s.tokenSet_pageArmed f.k.toNat).ctx, (s.tokenSet_pageArmed f.k.toNat).others⟩
    obtain ⟨hlive, htoken, hothers⟩ := hset.status prioQ 1
    exact ⟨_, s.pageCmd f.k.toNat (s.value f.sp) 1, (exec_qPgreq_acts he htok hs hva).trans (congrArg _ (performQPgreq_resident hw hl)), rfl, rfl, rfl, rfl, rfl,
      htoken, hlive, fun _ => rfl, hothers, fun _ => ⟨rfl, rfl, rfl, rfl⟩, .refl s⟩
  case absent =>
    let r := s.pageRequested f.k.toNat (s.value f.sp) 0
    have hset : TokenSet s (r.pageReported (s.value f.sp) f.k.toNat s.nextId 2) f.k.toNat _ :=
      ⟨rfl, (s.tokenSet_pageArmed f.k.toNat).ctx, (s.tokenSet_pageArmed f.k.toNat).others⟩
    obtain ⟨hlive, -, hothers⟩ := hset.status prioQ 0
    obtain ⟨e, hev, -, hsrc, hva', htk, hcore, hh, hkind, hcmd⟩ := r.pageReported_event (s.value f.sp) f.k.toNat s.nextId 2
    exact ⟨_, s.pageCmd f.k.toNat (s.value f.sp) 0, e, (exec_qPgreq_acts he htok hs hva).trans (congrArg _ (performQPgreq_absent hw hl hroom)), rfl, rfl, rfl,
      hev, hva', htk, hcore, hh, hkind, hsrc, hcmd, hlive, fun _ => rfl, hothers⟩
  case unmapped =>
    have hfails := s.pageFailed_fails f.k.toNat (s.value f.sp)
    have hleft : PageFails s (performQPgreq f (s.value f.sp) [] s) f.k.toNat (s.value f.sp) := by
      obtain hp | hp := performQPgreq_unmapped (f := f) hw
      · rw [hp]; exact hfails
      · rw [hp]; exact hfails.holds rfl _
    obtain ⟨hcmds, htoken, ⟨e, hev, hcause, hsrc, htval⟩, hmemory, hothers⟩ := hleft
    exact ⟨_, e, exec_qPgreq_acts he htok hs hva, hcmds, htoken, hev, hcause, hsrc, htval, hmemory, hothers⟩
  case posts =>
    obtain ⟨xs, hposted, hregs⟩ := State.posted_eq (s := s.updDie d (fun x => { x with evq := x.evq ++ [e], evwait := es })) hr e
    have hdie := (State.die_updDie_same s d (fun x => { x with evq := x.evq ++ [e], evwait := es }))
    refine ⟨_, exec_engineEventPost hd hw hroom, ?_, ?_, ?_, hregs, fun id va hid hc hp => State.posted_frees (s := s.updDie d _) hr hid hc hp⟩
    · rw [hposted]; exact congrArg Die.evq hdie
    · rw [hposted]; exact congrArg Die.evwait hdie
    · rw [hposted]; exact fun _ => rfl

end Sys2Proof.Machine
